-- ==== Sys2Proof/Word.lean ====
section
/-!
DEFINITION. Word.lean: the words of the UA4 that the manual treats as bits or that wrap at a stated width.
-/

namespace Sys2Proof

/-- One byte of a cell, a frame or a stored block. -/
abbrev Byte := BitVec 8

/-- A terminal's 64-bit factory identity (00_scope, Identities and numbering). -/
abbrev Tag := BitVec 64

/-- A maker code: four bytes, stored without interpretation (R32). -/
abbrev Maker := BitVec 32

/-- The tenth count, 32 bits, wrapping (R2). -/
abbrev Tenth := BitVec 32

/-- The cycle number, 16 bits, wrapping (R1). -/
abbrev CycleNo := BitVec 16

/-- Tree time, wrapping at 2^33 steps (R1). -/
abbrev TreeTime := BitVec 33

/-- The quarter count, taken modulo 2^18 (R1). -/
abbrev QuarterNo := BitVec 18

/-- A set of trees: bit 0 is tree 0 (00_scope, Identities and numbering). -/
abbrev TreeMask := BitVec 4

/-- The difference of two tree times, taken modulo 2^33 and read as its representative in -2^32 .. 2^32 - 1
(00_scope, Time). -/
def timeDiff (a b : TreeTime) : Int := (a - b).toInt

/-- The forward distance from cycle number `b` to cycle number `a`, modulo 65 536. -/
def cyclesSince (a b : CycleNo) : Nat := (a - b).toNat

/-- The forward distance from tenth `b` to tenth `a`, modulo 2^32. -/
def tenthsSince (a b : Tenth) : Nat := (a - b).toNat

/-- A value brought into `lo .. hi`. -/
def clampInt (lo hi v : Int) : Int := max lo (min hi v)

end Sys2Proof
end

