-- ==== Sys2Proof/Config.lean ====
section
/-!
DEFINITION. Config.lean: what the part fixes (capacities and constants of the manual) and the values the
manual leaves open: the bytes of the ROM default profile, and those a save writes behind a block's end.
-/

namespace Sys2Proof.Config

/-- Steps of one cycle (00_scope, Time). -/
def cycleSteps : Nat := 131072
/-- Steps of one quarter (00_scope, Time). -/
def quarterSteps : Nat := 32768
/-- Cycles of one tenth (R2). -/
def tenthCycles : Nat := 763
/-- Records of the terminal table (R77). -/
def maxRecords : Nat := 192
/-- Handles of one tree, and so the most records of one tree (R77, R81). -/
def maxHandles : Nat := 64
/-- Entries of the admission list (R64). -/
def maxAdmission : Nat := 256
/-- Entries of the unclaimed list (R73). -/
def maxUnclaimed : Nat := 16
/-- Notices of the notice queue (R185). -/
def maxNotices : Nat := 64
/-- Orders of one tree's order queue (R9). -/
def maxOrders : Nat := 32
/-- Held orders of the kinds LAG by tag, STANDDOWN and LIFT of one tree (R9). -/
def maxHeldByTag : Nat := 64
/-- Entries of one tree's expectation list (R114). -/
def maxExpectations : Nat := 16
/-- Replies waiting to be sent (R183). -/
def maxReplies : Nat := 8
/-- Bytes of one internal profile slot (9.2). -/
def slotBytes : Nat := 4096
/-- Bytes of one push FIFO (R149). -/
def fifoBytes : Nat := 2048
/-- The most bytes sent and not acknowledged (R149). -/
def windowBytes : Nat := 1280
/-- Image bytes of every LOAD cell but the last (R29). -/
def cellBytes : Nat := 40
/-- The seek period of the burst receiver, in steps (R11). -/
def seekSteps : Nat := 2000
/-- The steps of darkness that make a quiet lead (R11). -/
def quietLeadSteps : Nat := 256
/-- The half width of an expectation's matching range, in steps (R115). -/
def matchSteps : Nat := 2048
/-- The length of the ROM default profile (9.1). -/
def romBytes : Nat := 256
/-- The sync byte of a frame (R181). -/
def syncByte : Byte := 0xA6#8
/-- The greatest length a frame may carry (R181). -/
def maxFrameLength : Nat := 514
/-- EEPROM offset of the settings block (12.8). -/
def settingsBase : Nat := 0
/-- Bytes of the settings block (12.8). -/
def settingsBlockBytes : Nat := 465
/-- EEPROM offset of the admission block (12.8). -/
def admissionBase : Nat := 1024
/-- EEPROM offset of the profile directory (12.8). -/
def directoryBase : Nat := 15360
/-- EEPROM offset of the image of profile 17 (12.8). -/
def profileBase : Nat := 16384
/-- Bytes of one EEPROM page, and the most bytes of one read (R190). -/
def pageBytes : Nat := 64

/-- The byte at an offset of the ROM default profile. The manual says that it is "a fixed image of 256 bytes inside
the part" (9.1) and does not state its bytes: a FREE VALUE (notes/assumptions/7.md). -/
opaque romByte : Nat → Byte

/-- The byte that a save writes at an EEPROM offset behind the end of a block, to fill the block's last page (R190, 12.8).
The manual does not state it: a FREE VALUE, drawn anew by every save (notes/assumptions/14.md). -/
opaque tailByte (save offset : Nat) : Byte

end Sys2Proof.Config
end

