-- ==== Sys2Proof/Syntax.lean ====
section
/-!
DEFINITION. Syntax.lean: the commands. One constructor per row of spec/opcode_table.json.

The rows are of two kinds. A REQUEST row is a frame of the management link that has passed its CRC: its operand is the
frame's body, byte for byte (12.10), so that a body of a wrong length or with a field out of range is a command too. An
EVENT row is something that happens at a pin, a port, the two-wire bus or at an instant of time: its operands are what
the line brings in (a position within the cycle, the bytes of a cell, a bus result) and the name of the tree, record or
report slot concerned (notes/assumptions/5.md).
-/

namespace Sys2Proof

/-- A tree, 0 to 3. -/
inductive TreeId where
  | t0 | t1 | t2 | t3
deriving DecidableEq, Repr

/-- A report slot of the report table and of a record (R164). -/
inductive ReportSlot where
  | a | b | c
deriving DecidableEq, Repr

/-- The commands of the part: one constructor per row of the table of operations and events. -/
inductive Instr where
  /-- POWER_ON_RESET (R188): RESET_N is released while the three straps stand at these levels. -/
  | powerOnReset (rate0 rate1 store : Bool)
  /-- SOFT_RESET (R187): the last byte of the RESET reply has been sent, with the straps at these levels. -/
  | softReset (rate0 rate1 store : Bool)
  /-- STORE_LOAD_READ_DONE (R189): a read of the start-up loader ends with its bytes, or without acknowledge. -/
  | storeLoadReadDone (result : Option (List Byte))
  /-- CYCLE_START (R1): a cycle starts; `lit` is the set of upstream ports at which light is present then (R13). -/
  | cycleStart (lit : TreeMask)
  /-- WINDOW_BEGIN (R38). -/
  | windowBegin (t : TreeId)
  /-- CALL (R40). -/
  | call (t : TreeId)
  /-- UPKEEP_DUE (R110). -/
  | upkeepDue (t : TreeId) (handle : Nat)
  /-- DARK_ARISES (R175). -/
  | darkArises (t : TreeId)
  /-- SPAN_BOUNDARY (R174). -/
  | spanBoundary (t : TreeId)
  /-- SETTLE_END (R153). -/
  | settleEnd (t : TreeId)
  /-- TENTH_BOUNDARY (R2). -/
  | tenthBoundary
  /-- REPORT_STALE (R170). -/
  | reportStale (t : TreeId) (handle : Nat) (x : ReportSlot)
  /-- POLL_DUE (R167). -/
  | pollDue (t : TreeId) (handle : Nat) (x : ReportSlot)
  /-- REFIND_DEADLINE (R94). -/
  | refindDeadline (t : TreeId) (handle : Nat)
  /-- RESUME_TIMER_EXPIRY (R177). -/
  | resumeTimerExpiry (t : TreeId)
  /-- PREPARE_TIMEOUT (R152). -/
  | prepareTimeout (t : TreeId)
  /-- BEGIN_TIMEOUT (R148). -/
  | beginTimeout (t : TreeId)
  /-- STALL_TIMEOUT (R157). -/
  | stallTimeout (t : TreeId)
  /-- COMMIT_TIMEOUT (R158). -/
  | commitTimeout (t : TreeId)
  /-- LIGHT_ONSET (R11): at position `pos` of the current cycle the port of `t` passes from dark, after `dark` steps of
  darkness, to light. -/
  | lightOnset (t : TreeId) (pos dark : Nat)
  /-- SEEK_PERIOD_END (R11): the oldest open seek period of `t` ends without a delimiter; `lit` says whether light is
  present at its end. -/
  | seekPeriodEnd (t : TreeId) (lit : Bool)
  /-- DELIMITER_FOUND (R11): a delimiter is found at position `pos` of the current cycle. -/
  | delimiterFound (t : TreeId) (pos : Nat)
  /-- CELL_DECODED (R12): the decoder finishes the cell of the `n`-th burst not yet decoded (0 is the oldest) at
  position `pos`; `cell` is the reply cell's bytes. -/
  | cellDecoded (t : TreeId) (n pos : Nat) (cell : List Byte)
  /-- ARRIVAL_DISPATCH (R14). -/
  | arrivalDispatch (t : TreeId)
  /-- EXPECTATION_EXPIRY (R116), taken at position `pos` of the current cycle. -/
  | expectationExpiry (t : TreeId) (pos : Nat)
  /-- HELLO_ARITHMETIC (R53). -/
  | helloArithmetic (t : TreeId)
  /-- MEASURED_HELLO_TAKEN (R83). -/
  | measuredHelloTaken (t : TreeId)
  /-- WINDOW_CLOSE (R44), taken at position `pos` of the current cycle. -/
  | windowClose (t : TreeId) (pos : Nat)
  /-- FETCH_DIRECTORY_DONE (R147): the directory read of the fetcher of `t` ends. -/
  | fetchDirectoryDone (t : TreeId) (result : Option (List Byte))
  /-- FETCH_DATA_DONE (R144): the data read of the fetcher of `t` ends. -/
  | fetchDataDone (t : TreeId) (result : Option (List Byte))
  /-- SAVE_PAGE_DONE (R191): the page write of the save writer ends; `ack` says whether it was acknowledged in time. -/
  | savePageDone (ack : Bool)
  /-- FRAME_SENT (R184): the last byte of the frame being sent is sent. -/
  | frameSent
  /-- BAD_FRAME (R181): bytes come in on the link that end a frame of bad length or CRC. -/
  | badFrame (bytes : List Byte)
  /-- UNKNOWN_REQUEST (R181): a frame of a kind that is no request kind passes its CRC. -/
  | unknownRequest (kind : Byte) (body : List Byte)
  /-- IDENTIFY (R186). -/
  | identify (body : List Byte)
  /-- RESET (R187). -/
  | reset (body : List Byte)
  /-- STORE_SAVE (R191). -/
  | storeSave (body : List Byte)
  /-- TREE_ENABLE (R4). -/
  | treeEnable (body : List Byte)
  /-- TREE_DISABLE (R5). -/
  | treeDisable (body : List Byte)
  /-- TREE_SET (R17). -/
  | treeSet (body : List Byte)
  /-- TREE_GET (R19). -/
  | treeGet (body : List Byte)
  /-- ADMIT (R69). -/
  | admitTags (body : List Byte)
  /-- UNADMIT (R70). -/
  | unadmit (body : List Byte)
  /-- ADMIT_READ (R71). -/
  | admitRead (body : List Byte)
  /-- ADMIT_CLEAR (R72). -/
  | admitClear (body : List Byte)
  /-- UNCLAIMED_READ (R75). -/
  | unclaimedRead (body : List Byte)
  /-- UNCLAIMED_CLEAR (R76). -/
  | unclaimedClear (body : List Byte)
  /-- TERMINAL_READ (R97). -/
  | terminalRead (body : List Byte)
  /-- TERMINAL_FIND (R98). -/
  | terminalFind (body : List Byte)
  /-- TERMINAL_LIST (R99). -/
  | terminalList (body : List Byte)
  /-- RETIRE (R100). -/
  | retire (body : List Byte)
  /-- RELEASE (R101). -/
  | release (body : List Byte)
  /-- REALIGN (R102). -/
  | realign (body : List Byte)
  /-- RELOAD (R103). -/
  | reload (body : List Byte)
  /-- STANDDOWN (R104). -/
  | standdown (body : List Byte)
  /-- LIFT (R105). -/
  | lift (body : List Byte)
  /-- PROFILE_OPEN (R139). -/
  | profileOpen (body : List Byte)
  /-- PROFILE_WRITE (R140). -/
  | profileWrite (body : List Byte)
  /-- PROFILE_CLOSE (R141). -/
  | profileClose (body : List Byte)
  /-- PROFILE_ERASE (R142). -/
  | profileErase (body : List Byte)
  /-- PROFILE_INFO (R143). -/
  | profileInfo (body : List Byte)
  /-- PUSH_BEGIN (R148). -/
  | pushBegin (body : List Byte)
  /-- PUSH_DATA (R150). -/
  | pushData (body : List Byte)
  /-- REPORT_TABLE_SET (R165). -/
  | reportTableSet (body : List Byte)
  /-- REPORT_TABLE_GET (R166). -/
  | reportTableGet (body : List Byte)
  /-- REPORT_READ (R171). -/
  | reportRead (body : List Byte)
  /-- BURST_END (R11): the burst being received at `t` ends at position `pos`; `endCode` says whether the end code
  followed the cell, `lit` whether light is still present. -/
  | burstEnd (t : TreeId) (pos : Nat) (endCode lit : Bool)
deriving DecidableEq, Repr

end Sys2Proof
end

