-- ==== Sys2Proof/WellFormed.lean ====
section
/-!
DEFINITION. WellFormed.lean: the commands that a line of the part can bring. The meanings are total: a command that is
not well formed is one that no line can bring, and most leave the part as it is.
-/

namespace Sys2Proof

/-- The request kinds of section 12.6. -/
def requestKinds : List Byte :=
  [0x01#8, 0x02#8, 0x03#8, 0x08#8, 0x09#8, 0x0A#8, 0x0B#8, 0x10#8, 0x11#8, 0x12#8, 0x13#8, 0x14#8, 0x15#8, 0x18#8,
   0x19#8, 0x1A#8, 0x1B#8, 0x1C#8, 0x1D#8, 0x1E#8, 0x1F#8, 0x20#8, 0x28#8, 0x29#8, 0x2A#8, 0x2B#8, 0x2C#8, 0x2D#8,
   0x2E#8, 0x30#8, 0x31#8, 0x32#8]

/-- A position within a cycle, 0..131 071 (R1). -/
def positionOk (pos : Nat) : Bool := pos < Config.cycleSteps

/-- A handle, 1..64 (00_scope, Identities and numbering). -/
def handleOk (h : Nat) : Bool := 1 ≤ h && h ≤ Config.maxHandles

/-- A frame body: a frame's length is 1..514 and counts the kind byte (R181). -/
def bodyOk (body : List Byte) : Bool := body.length + 1 ≤ Config.maxFrameLength

/-- A two-wire read brings 1..64 bytes, or ends without acknowledge (R190). -/
def readOk : Option (List Byte) → Bool
  | none => true
  | some bs => 1 ≤ bs.length && bs.length ≤ Config.pageBytes

/-- The check of one command: each operand lies in the range its line can bring. -/
def Instr.wellFormed : Instr → Bool
  | .powerOnReset _ _ _ | .softReset _ _ _ => true
  | .storeLoadReadDone r => readOk r
  | .cycleStart _ | .windowBegin _ | .call _ | .darkArises _ | .spanBoundary _ | .settleEnd _ | .tenthBoundary => true
  | .upkeepDue _ h | .refindDeadline _ h => handleOk h
  | .reportStale _ h _ | .pollDue _ h _ => handleOk h
  | .resumeTimerExpiry _ | .prepareTimeout _ | .beginTimeout _ | .stallTimeout _ | .commitTimeout _ => true
  | .lightOnset _ pos _ => positionOk pos
  | .seekPeriodEnd _ _ => true
  | .delimiterFound _ pos => positionOk pos
  | .cellDecoded _ _ pos cell => positionOk pos && cell.length == 32
  | .arrivalDispatch _ | .helloArithmetic _ | .measuredHelloTaken _ => true
  | .expectationExpiry _ pos | .windowClose _ pos => positionOk pos
  | .fetchDirectoryDone _ r | .fetchDataDone _ r => readOk r
  | .savePageDone _ | .frameSent => true
  | .badFrame _ => true
  | .unknownRequest kind body => !requestKinds.contains kind && bodyOk body
  | .identify b | .reset b | .storeSave b | .treeEnable b | .treeDisable b | .treeSet b | .treeGet b | .admitTags b
  | .unadmit b | .admitRead b | .admitClear b | .unclaimedRead b | .unclaimedClear b | .terminalRead b
  | .terminalFind b | .terminalList b | .retire b | .release b | .realign b | .reload b | .standdown b | .lift b
  | .profileOpen b | .profileWrite b | .profileClose b | .profileErase b | .profileInfo b | .pushBegin b | .pushData b
  | .reportTableSet b | .reportTableGet b | .reportRead b => bodyOk b
  | .burstEnd _ pos _ _ => positionOk pos

end Sys2Proof
end

