-- ==== Sys2Proof/Decode.lean ====
section
/-!
DEFINITION. Decode.lean: the command that a word of the table spells. No row of spec/opcode_table.json gives bits
(every row's "fields" is empty), so no word spells a command.
-/

namespace Sys2Proof

/-- The command that the word `w` of `nbits` bits spells by the bits of spec/opcode_table.json: none, since no row of
the table gives bits (notes/assumptions/26.md). -/
def decodeTableWord (_nbits _w : Nat) : Option Instr := none

end Sys2Proof
end

