-- ==== Sys2Proof/Machine/State.lean ====
section
/-!
DEFINITION. Machine/State.lean: every piece of state the manual gives the part, as plain data, and the state after
reset. INVENTORY.md lists each piece with the rule that names it.
-/

namespace Sys2Proof.Machine

/-! ### Reasons to stop -/

/-- Reasons for which the part itself stops. There are none: the manual gives every command an effect in every state,
and names nothing that stops the part. -/
inductive Fault
deriving DecidableEq, Repr

/-- Reasons for which the model gives no next state. -/
inductive Refusal where
  /-- Raised by `exec` for a command that has no meaning yet. Safe: nothing is claimed of it. No arm raises it. -/
  | notModelled (mnemonic : String)
deriving DecidableEq, Repr

/-! ### Collections with one entry for each tree and for each report slot -/

/-- One value for each tree. -/
structure PerTree (α : Type) where
  t0 : α
  t1 : α
  t2 : α
  t3 : α
deriving DecidableEq, Repr

/-- The value of one tree. -/
def PerTree.get {α : Type} (p : PerTree α) : TreeId → α
  | .t0 => p.t0
  | .t1 => p.t1
  | .t2 => p.t2
  | .t3 => p.t3

/-- Replaces the value of one tree. -/
def PerTree.set {α : Type} (p : PerTree α) (t : TreeId) (v : α) : PerTree α :=
  match t with
  | .t0 => { p with t0 := v }
  | .t1 => { p with t1 := v }
  | .t2 => { p with t2 := v }
  | .t3 => { p with t3 := v }

/-- One value for each of the report slots A, B and C. -/
structure PerSlot (α : Type) where
  a : α
  b : α
  c : α
deriving DecidableEq, Repr

/-- The value of one report slot. -/
def PerSlot.get {α : Type} (p : PerSlot α) : ReportSlot → α
  | .a => p.a
  | .b => p.b
  | .c => p.c

/-- Replaces the value of one report slot. -/
def PerSlot.set {α : Type} (p : PerSlot α) (x : ReportSlot) (v : α) : PerSlot α :=
  match x with
  | .a => { p with a := v }
  | .b => { p with b := v }
  | .c => { p with c := v }

/-! ### Names of the manual -/

/-- The states of a record (6.2). A record of the table is never `free`: FREE records are the absent ones. -/
inductive RecState where
  | free | heard | aligning | loading | inService | refind | held
deriving DecidableEq, Repr

/-- The causes of a change of state (R80). -/
inductive Cause where
  | new | reheard | rejoin | refound | lagSent | confirmed | loaded | misses | drift | checkFail | gone | moved
  | byRequest | outOfReach | duplicate | loadFail | noProfile | stoodDown
deriving DecidableEq, Repr

/-- The purposes of a grant (R20). -/
inductive Purpose where
  | check | upkeep | loadStatus | poll
deriving DecidableEq, Repr

/-- The classes of a round trip (R55). -/
inductive HelloClass where
  | negative | near | inReach | far
deriving DecidableEq, Repr

/-- The sub-states of a record in LOADING (R79). -/
inductive SubState where
  | queued | preparing | settling | streaming | committing
deriving DecidableEq, Repr

/-- The sources of an image (9.1). -/
inductive Source where
  | internal | external | streamed | default
deriving DecidableEq, Repr

/-- The states of a push engine (9.4). -/
inductive EngineState where
  | idle | resolving | preparing | settling | streaming | committing
deriving DecidableEq, Repr

/-- The states of an internal profile slot (9.2). -/
inductive SlotState where
  | empty | writing | ready
deriving DecidableEq, Repr

/-- The tree setting `fallback` (field 22 of 1.8). -/
inductive Fallback where
  | useDefault | hold
deriving DecidableEq, Repr

/-- The reasons of a failed push attempt (R160). -/
inductive FailReason where
  | noReady | stall | protocol | lost | terminal | noCommit | storeFault
deriving DecidableEq, Repr

/-- The events of a HEALTH notice (R128). -/
inductive HealthEvent where
  | impaired | recovered | attention
deriving DecidableEq, Repr

/-- The reasons of a TABLE-FULL notice (R88). -/
inductive FullReason where
  | table | handles
deriving DecidableEq, Repr

/-- The two kinds of reset (R188). -/
inductive ResetKind where
  | powerOn | soft
deriving DecidableEq, Repr

/-- The results of start-up for one stored block (R189). -/
inductive StartResult where
  | loaded | defaulted | fault | noDevice
deriving DecidableEq, Repr

/-- The results of a save (R191). -/
inductive SaveResult where
  | ok | noDevice | writeFail
deriving DecidableEq, Repr

/-- The status codes of a reply frame (R182). -/
inductive Status where
  | ok | busy | unknown | badLength | badField | notFound | inUse | full | wrongState | noDevice
deriving DecidableEq, Repr

/-- A factor of the tree guard (chapter 11). -/
inductive Factor where
  | stray | dark | storm
deriving DecidableEq, Repr

/-- A set of factors. -/
structure Factors where
  stray : Bool
  dark : Bool
  storm : Bool
deriving DecidableEq, Repr

/-! ### The timebase -/

/-- How far the work of the cycle start at the present instant has gone: the model's own mark (notes/assumptions/3.md).
`closed`: the cycle start is done. `opened`: the cycle number has advanced, the header is not yet assembled.
`boundaryDue`, `boundaryTaken`: the same at a tenth boundary, before and after the tenth count has advanced. -/
inductive StartStage where
  | closed | opened | boundaryDue | boundaryTaken
deriving DecidableEq, Repr

/-- The timebase (1.1). -/
structure Clock where
  cycle : CycleNo
  /-- The position within the cycle, 0..131 071. -/
  pos : Nat
  /-- The cycle-in-tenth count, 0..762. -/
  cycleInTenth : Nat
  tenth : Tenth
  stage : StartStage
deriving DecidableEq, Repr

/-- A running timer of `length` tenths, started at tenth `start` (R2). -/
structure Timer where
  start : Tenth
  length : Nat
deriving DecidableEq, Repr

/-! ### Settings and counters of a tree (1.8) -/

/-- The settings record of a tree: its 28 fields (1.8). -/
structure Settings where
  reachDepth : Nat
  treeOffset : Int
  slotsPerCycle : Nat
  windowInterval : Nat
  spreadMin : Nat
  windowSummaries : Bool
  rawStamps : Bool
  alignTolerance : Nat
  deadband : Nat
  raiseThreshold : Nat
  lowerThreshold : Nat
  slew : Nat
  driftLimit : Nat
  missLimit : Nat
  errorLimit : Nat
  refindTime : Nat
  prepareTimeout : Nat
  settleCycles : Nat
  commitTimeout : Nat
  stallLimit : Nat
  pushRetries : Nat
  fallback : Fallback
  guardMask : Factors
  strayThreshold : Nat
  darkCycles : Nat
  stormThreshold : Nat
  resumeDelay : Nat
  autoStart : Bool
deriving DecidableEq, Repr

/-- The defaults of 1.8. -/
def Settings.default : Settings where
  reachDepth := 200000
  treeOffset := 0
  slotsPerCycle := 2
  windowInterval := 763
  spreadMin := 16
  windowSummaries := false
  rawStamps := false
  alignTolerance := 64
  deadband := 8
  raiseThreshold := 32
  lowerThreshold := 4
  slew := 64
  driftLimit := 512
  missLimit := 8
  errorLimit := 4
  refindTime := 30
  prepareTimeout := 5
  settleCycles := 8
  commitTimeout := 20
  stallLimit := 15
  pushRetries := 2
  fallback := .hold
  guardMask := ⟨true, true, true⟩
  strayThreshold := 4
  darkCycles := 64
  stormThreshold := 16
  resumeDelay := 20
  autoStart := false

/-- The seven counters of a line unit (R18). -/
structure Counters where
  windows : BitVec 32
  hellos : BitVec 32
  collisions : BitVec 32
  implausible : BitVec 32
  turnedAway : BitVec 32
  foreign : BitVec 32
  stray : BitVec 32
deriving DecidableEq, Repr

/-- Every counter 0 (R18). -/
def Counters.zero : Counters := ⟨0, 0, 0, 0, 0, 0, 0⟩

/-! ### Downstream: orders, header, control field -/

/-- An order of the order queue (2.4). LOAD is no order of the queue: see `Cell`. A lag is carried in units of 4 steps. -/
inductive Order where
  | lagByTag (tag : Tag) (handle lag4 : Nat)
  | lagByHandle (handle lag4 : Nat)
  | relisten (handle : Nat)
  | standdown (tag : Tag)
  | lift (tag : Tag)
  | prepare (handle length profile : Nat)
  | commit (handle : Nat) (crc : BitVec 32)
deriving DecidableEq, Repr

/-- A cell of the control field (R7). -/
inductive Cell where
  | fill
  | order (o : Order)
  | load (handle offset : Nat) (data : List Byte)
deriving DecidableEq, Repr

/-- A grant entry of a header (R20): handle 0 is an unused slot. -/
structure GrantEntry where
  handle : Nat
  purpose : Option Purpose
  kind : Byte
deriving DecidableEq, Repr

/-- The CALL of a header (R20). -/
structure CallField where
  number : BitVec 8
  spread : Nat
deriving DecidableEq, Repr

/-- A cycle header (R6, R20). -/
structure Header where
  cycle : CycleNo
  call : Option CallField
  entries : List GrantEntry
deriving DecidableEq, Repr

/-! ### Upstream: receiver, decoder, dispatcher -/

/-- The body fields of a valid reply (R31 to R35). A LOAD-STATUS code above 4, and FAIL with code 0, are `fail 0`
(R34). -/
inductive LoadStatus where
  | notReady | ready | receiving (offset : Nat) | done | fail (code : Nat)
deriving DecidableEq, Repr

/-- The contents of a valid reply by kind (R32 to R35). -/
inductive ReplyBody where
  | hello (number : BitVec 8) (slice : Nat) (tag : Tag) (maker : Maker)
  | echo
  | loadStatus (status : LoadStatus)
  | report (kind : Byte) (data : List Byte)
deriving DecidableEq, Repr

/-- A reply as the decoder hands it on (R31). -/
structure TreeReply where
  handle : Nat
  attention : Bool
  body : ReplyBody
deriving DecidableEq, Repr

/-- An open seek period (R11): when it opened, and whether it opened at an onset after a quiet lead. -/
structure Seek where
  opened : TreeTime
  quietLead : Bool
deriving DecidableEq, Repr

/-- A burst whose delimiter was found and that is not yet an arrival (R11, R12). -/
structure Burst where
  opened : TreeTime
  quietLead : Bool
  /-- The tree time of the delimiter. -/
  found : TreeTime
  /-- The fine stamp F. -/
  fine : Nat
  /-- Whether the end code followed the cell, once the burst has ended. -/
  ended : Option Bool
  /-- The coarse stamp Qc and, where the CRC and the kind are good, the reply, once the cell is decoded. -/
  decoded : Option (QuarterNo × Option TreeReply)
deriving DecidableEq, Repr

/-- What an arrival waiting for dispatch is (R12, R14). -/
inductive Content where
  | lightOnly
  | errored
  | valid (fine : Nat) (coarse : QuarterNo) (reply : TreeReply)
deriving DecidableEq, Repr

/-- An arrival waiting for dispatch (R14): its arrival time, and when its seek period opened (R15). -/
structure Arrival where
  time : TreeTime
  opened : TreeTime
  content : Content
deriving DecidableEq, Repr

/-! ### Windows and hellos -/

/-- The record of a LISTENING window (R36). -/
structure Window where
  w : CycleNo
  spread : Nat
  spanStart : TreeTime
  spanStop : TreeTime
  c : Nat
  h : Nat
deriving DecidableEq, Repr

/-- The state of a window scheduler with what it holds in it (R36). -/
inductive Phase where
  | idle
  | leadIn (w : CycleNo)
  | listening (win : Window)
deriving DecidableEq, Repr

/-- A window scheduler (R36). -/
structure Scheduler where
  phase : Phase
  timer : Nat
  spread : Nat
  number : BitVec 8
deriving DecidableEq, Repr

/-- A hello handed to the arrival arithmetic unit and not yet taken (R43, R53). -/
structure Hello where
  fine : Nat
  coarse : QuarterNo
  arrival : TreeTime
  slice : Nat
  tag : Tag
  maker : Maker
  number : BitVec 8
  w : CycleNo
deriving DecidableEq, Repr

/-- A measured hello handed to the activation controller and not yet taken (R59). -/
structure Measured where
  number : BitVec 8
  w : CycleNo
  tag : Tag
  maker : Maker
  slice : Nat
  cls : HelloClass
  rtt : Int
  lag : Nat
deriving DecidableEq, Repr

/-! ### Admission and unclaimed tags -/

/-- An admission entry (R65). -/
structure AdmitEntry where
  tag : Tag
  profile : Nat
  mask : TreeMask
  label : List Byte
  bound : Bool
  conflict : Bool
  sighting : Option (TreeId × Tenth)
deriving DecidableEq, Repr

/-- An entry of the unclaimed list (R73). -/
structure UnclaimedEntry where
  tag : Tag
  tree : TreeId
  maker : Maker
  firstHeard : Tenth
  lastHeard : Tenth
  times : Nat
deriving DecidableEq, Repr

/-! ### Records -/

/-- A report slot of a record (R79, R170). -/
structure StoredReport where
  valid : Bool
  kind : Byte
  body : List Byte
  age : Nat
  stale : Bool
deriving DecidableEq, Repr

/-- A slot not valid and empty (R172). -/
def StoredReport.empty : StoredReport := ⟨false, 0, [], 0, false⟩

/-- The poll schedule of one slot (10.2): the last poll tenth, and the due since cycle while the due mark is set. -/
structure PollSchedule where
  lastPoll : Option Tenth
  due : Option CycleNo
deriving DecidableEq, Repr

/-- The load part of a record (R79). -/
structure Load where
  profile : Nat
  sub : SubState
  used : Nat
  source : Option Source
deriving DecidableEq, Repr

/-- Whether an ALIGNING record's CHECK is eligible (R109). `afterLag`: it becomes so at the LAG sent cycle + 2.
`eligible since`: it is. `granted`: a CHECK was granted and its reply is not judged. `afterReply`: the reply was judged,
and it becomes so at the first cycle start that R109 allows. -/
inductive CheckMark where
  | none
  | afterLag
  | eligible (since : CycleNo)
  | granted
  | afterReply
deriving DecidableEq, Repr

/-- A record that is not FREE (R78, R79), with the poller's schedule for it (10.2), the arbiter's upkeep-due mark for its
handle (R106) and the eligibility of its CHECK (R109). -/
structure Record where
  state : RecState
  tree : TreeId
  handle : Nat
  tag : Tag
  maker : Maker
  lag : Nat
  lastRtt : Int
  cause : Cause
  heardWindow : Option (BitVec 8)
  lagSentCycle : Option CycleNo
  level : Nat
  missCount : Nat
  errorCount : Nat
  impaired : Bool
  attention : Bool
  checkAttempts : Nat
  lastUpkeepGrant : CycleNo
  nudgePending : Option CycleNo
  lagUnsent : Bool
  reports : PerSlot StoredReport
  load : Option Load
  refind : Option Tenth
  held : Option Nat
  polls : PerSlot PollSchedule
  /-- The attention mark of slot A: the cycle in which its rise was taken, while it is set (R169). -/
  attentionMark : Option CycleNo
  upkeepDue : Bool
  check : CheckMark
deriving DecidableEq, Repr

/-! ### Arbiter, guard, push engine -/

/-- An entry of an expectation list (R114). -/
structure Expectation where
  handle : Nat
  purpose : Purpose
  report : Option (ReportSlot × Byte)
  grantCycle : CycleNo
  slot : Nat
  expected : TreeTime
  sentMark : Option Nat
  orphan : Bool
deriving DecidableEq, Repr

/-- A tree guard (R173). -/
structure Guard where
  hush : Bool
  present : Factors
  seen : Factors
  strayCount : Nat
  resume : Option Timer
deriving DecidableEq, Repr

/-- A guard as a reset leaves it (R173). -/
def Guard.clear : Guard := ⟨false, ⟨false, false, false⟩, ⟨false, false, false⟩, 0, none⟩

/-- A push engine with its push FIFO and push context (9.4, 9.6). The fill count is `ackPoint + fifo.length` (R149).
`askDeferred`: an ask that waits for a LOAD-STATUS entry of the record to leave the list (R111). `lastBad`: the last
outcome was MISSED, ERRORED or LAPSED (R155). `settleLeft`: cycle starts left in SETTLING (R153). -/
structure Engine where
  state : EngineState
  serving : Option Nat
  profile : Nat
  source : Option Source
  imageLength : Nat
  fifo : List Byte
  ackPoint : Nat
  sendPointer : Nat
  cellCount : Nat
  crc : BitVec 32
  ask : Option CycleNo
  askDeferred : Bool
  awaiting : Bool
  lastBad : Bool
  settleLeft : Nat
  prepareTimer : Option Timer
  beginTimer : Option Timer
  stallTimer : Option Timer
  commitTimer : Option Timer
deriving DecidableEq, Repr

/-- An IDLE engine with a cleared push context (R145, R146). -/
def Engine.idle : Engine where
  state := .idle
  serving := none
  profile := 0
  source := none
  imageLength := 0
  fifo := []
  ackPoint := 0
  sendPointer := 0
  cellCount := 0
  crc := 0xFFFFFFFF#32
  ask := none
  askDeferred := false
  awaiting := false
  lastBad := false
  settleLeft := 0
  prepareTimer := none
  beginTimer := none
  stallTimer := none
  commitTimer := none

/-! ### The two-wire bus -/

/-- A requester of the two-wire master (R190); the loader is alone during start-up. -/
inductive Requester where
  | fetcher (t : TreeId)
  | saver
  | loader
deriving DecidableEq, Repr

/-- What a transfer does (R190): reads `length` bytes at an EEPROM offset, for a directory entry, for image data or for
the start-up loader, or writes a page. -/
inductive TransferKind where
  | directory
  | data
  | block
  | page (bytes : List Byte)
deriving DecidableEq, Repr

/-- A transfer of the two-wire master. `discard`: its push has ended, and its bytes are discarded (R144). -/
structure Transfer where
  requester : Requester
  kind : TransferKind
  address : Nat
  length : Nat
  discard : Bool
deriving DecidableEq, Repr

/-- The two-wire master (R190): the transfer under way and the requester served last. -/
structure Master where
  current : Option Transfer
  last : Requester
deriving DecidableEq, Repr

/-- A page of a save: its EEPROM offset and its 64 bytes (R190). -/
structure Page where
  address : Nat
  bytes : List Byte
deriving DecidableEq, Repr

/-- A running save (R191): its selector, the pages of the snapshot not yet written, and whether a page was written. -/
structure Save where
  selector : Nat
  pages : List Page
  anyWritten : Bool
deriving DecidableEq, Repr

/-- The start-up loader while start-up runs (R189): the reset kind, the bytes read so far of the block under way, and the
settings result once the settings block is judged. -/
structure Loader where
  kind : ResetKind
  settings : Option StartResult
  got : List Byte
deriving DecidableEq, Repr

/-! ### Profile slots and the report table -/

/-- An internal profile slot (R138): its length is the count of its bytes. -/
structure ProfileSlot where
  state : SlotState
  bytes : List Byte
deriving DecidableEq, Repr

/-- An EMPTY slot (R138). -/
def ProfileSlot.empty : ProfileSlot := ⟨.empty, []⟩

/-- A slot of the report table (R164). -/
structure TableSlot where
  kind : Byte
  interval : Nat
  multiple : Nat
  clearOnStale : Bool
deriving DecidableEq, Repr

/-- The default of a slot of the report table (R164). -/
def TableSlot.default : TableSlot := ⟨0, 50, 4, false⟩

/-! ### Notices and the link -/

/-- The notices of section 12.6 with their contents (12.10). -/
inductive Notice where
  | startUp (kind : ResetKind) (settings admission : StartResult) (applied skipped : Nat) (enabled : TreeMask)
  | storeDone (selector : Nat) (result : SaveResult) (offset : Nat)
  | tree (t : TreeId) (enabled : Bool) (freed : Nat) (autoStart : Bool)
  | window (t : TreeId) (number : BitVec 8) (used h c next : Nat)
  | rawStamp (t : TreeId) (hello : Hello) (rtt offset : Int) (cls : HelloClass)
  | wrongTree (t : TreeId) (tag : Tag) (mask : TreeMask) (maker : Maker) (tenth : Tenth)
  | unclaimed (t : TreeId) (tag : Tag) (maker : Maker) (tenth : Tenth) (displaced : Option Tag)
  | terminal (t : TreeId) (handle : Nat) (tag : Tag) (old new : RecState) (cause : Cause)
  | tableFull (t : TreeId) (tag : Tag) (reason : FullReason) (inUse ofTree reserved : Nat)
  | health (t : TreeId) (handle : Nat) (tag : Tag) (event : HealthEvent) (state : RecState) (level miss error : Nat)
      (attention : Bool) (tenth : Tenth)
  | pushStart (t : TreeId) (handle : Nat) (tag : Tag) (attempt : Nat)
  | pushHungry (t : TreeId) (handle : Nat) (length fill free : Nat)
  | pushFail (t : TreeId) (handle : Nat) (tag : Tag) (profile : Nat) (source : Option Source) (reason : FailReason)
      (code ack used : Nat) (charged held : Bool)
  | stale (t : TreeId) (handle : Nat) (tag : Tag) (x : ReportSlot) (kind : Byte) (age : Nat) (cleared : Bool)
  | hush (t : TreeId) (entered : Bool) (present seen : Factors) (measure : Nat) (cycle : CycleNo) (tenth : Tenth)
deriving DecidableEq, Repr

/-- A notice of the queue, and whether it carries the notices-lost mark (R185). -/
structure QueuedNotice where
  notice : Notice
  carriesLost : Bool
deriving DecidableEq, Repr

/-- A reply waiting to be sent (R182, R183): its kind with 0x80 added, whether it is the reply of the request in the slot,
and whether it is the reply that ends in a soft reset (R187). -/
structure LinkReply where
  kind : Byte
  status : Status
  data : List Byte
  fromSlot : Bool
  resets : Bool
deriving DecidableEq, Repr

/-- What the frame being sent is (R184). -/
inductive TxSource where
  | reply | resetReply | notice
deriving DecidableEq, Repr

/-- The frame being sent: its kind and its body, the flags byte as it was at its start (R182). -/
structure Tx where
  source : TxSource
  kind : Byte
  body : List Byte
deriving DecidableEq, Repr

/-- The management link (chapter 12): the receiver's bytes under hunt (R181), the request slot and the replies waiting
(R183), the RESET armed (R187), the frame being sent (R184), the notice queue and the notices-lost mark (R185), and the
strap value read at start-up (R180). ATTN is high exactly while `notices` is not empty (R185). -/
structure Link where
  rx : List Byte
  slotBusy : Bool
  replies : List LinkReply
  resetArmed : Bool
  tx : Option Tx
  notices : List QueuedNotice
  lost : Bool
  rateCode : Nat
deriving DecidableEq, Repr

/-! ### The whole -/

/-- What the part holds for one tree: line unit, window scheduler, arrival arithmetic, arbiter, push engine, guard.
`timerDone`, `windowBegun`, `spanDone` and `darkDone` say that at the cycle start of the present instant the window timer has
advanced, a window has begun, and the span boundary and the DARK test have been taken: the model's own marks
(notes/assumptions/3.md). -/
structure Tree where
  enabled : Bool
  settings : Settings
  counters : Counters
  queue : List Order
  heldOrders : List Order
  header : Header
  field : List Cell
  quiet : Bool
  lit : Bool
  lightSeen : Bool
  darkCount : Nat
  seeks : List Seek
  bursts : List Burst
  arrivals : List Arrival
  scheduler : Scheduler
  hellos : List Hello
  measured : List Measured
  rawCount : Nat
  turnedAway : Bool
  expectations : List Expectation
  slotCounter : BitVec 16
  pushQueue : List Nat
  engine : Engine
  fetchWait : Option Transfer
  guard : Guard
  timerDone : Bool
  windowBegun : Bool
  spanDone : Bool
  darkDone : Bool
deriving DecidableEq, Repr

/-- A grant entry of an unused slot (R20). -/
def GrantEntry.unused : GrantEntry := ⟨0, none, 0⟩

/-- A tree as both resets leave it: DISABLED, every setting at its default (1.2, 1.8, R36, R50, R106, R145, R173). Its
header is that of cycle 0 on a DISABLED tree, since a cycle start falls at the reset instant (R1, R3). -/
def Tree.afterReset : Tree where
  enabled := false
  settings := .default
  counters := .zero
  queue := []
  heldOrders := []
  header := ⟨0, none, [.unused, .unused]⟩
  field := [.fill, .fill, .fill, .fill]
  quiet := false
  lit := false
  lightSeen := false
  darkCount := 0
  seeks := []
  bursts := []
  arrivals := []
  scheduler := ⟨.idle, 0, 16, 0⟩
  hellos := []
  measured := []
  rawCount := 0
  turnedAway := false
  expectations := []
  slotCounter := 0
  pushQueue := []
  engine := .idle
  fetchWait := none
  guard := .clear
  timerDone := false
  windowBegun := false
  spanDone := false
  darkDone := false

/-- The three straps of the part. -/
structure Straps where
  rate0 : Bool
  rate1 : Bool
  store : Bool
deriving DecidableEq, Repr

/-- Everything of the part but its timebase and its link. `records` holds the records that are not FREE, in ascending
order of tree and handle. `raised` holds the notices that blocks have raised within the command under way and that the
link has not yet taken: it is empty between commands, the model's own field (notes/assumptions/20.md). `savesBegun` counts the saves begun, across
resets too: the model's own field, by which each save draws its own free bytes (notes/assumptions/14.md). -/
structure Part where
  straps : Straps
  trees : PerTree Tree
  records : List Record
  admission : List AdmitEntry
  unclaimedTags : List UnclaimedEntry
  slots : Vector ProfileSlot 16
  reportTable : PerSlot TableSlot
  master : Master
  save : Option Save
  savesBegun : Nat
  loader : Option Loader
  raised : List Notice
deriving DecidableEq, Repr

/-- The state of the part, and the queue of the commands that wait. -/
structure State where
  clock : Clock
  part : Part
  link : Link
  pending : List Instr
deriving DecidableEq, Repr

/-- The timebase right after a reset: cycle 0 at position 0 (R1, R2). -/
def Clock.afterReset : Clock := ⟨0, 0, 0, 0, .closed⟩

/-- The blocks other than the timebase and the link right after power-on reset, with start-up not yet run (R188). -/
def Part.afterReset (straps : Straps) (slots : Vector ProfileSlot 16) : Part where
  straps := straps
  trees := ⟨.afterReset, .afterReset, .afterReset, .afterReset⟩
  records := []
  admission := []
  unclaimedTags := []
  slots := slots
  reportTable := ⟨.default, .default, .default⟩
  master := ⟨none, .saver⟩
  save := none
  savesBegun := 0
  loader := none
  raised := []

/-- The link right after a reset (R185, R188), with the strap value read (R180). The receiver holds no bytes: those of an
unfinished frame are gone after a soft reset too (DESIGN CHOICE, notes/assumptions/46.md). -/
def Link.afterReset (rateCode : Nat) : Link where
  rx := []
  slotBusy := false
  replies := []
  resetArmed := false
  tx := none
  notices := []
  lost := false
  rateCode := rateCode

/-- Every slot EMPTY (R138). -/
def emptySlots : Vector ProfileSlot 16 := Vector.replicate 16 ProfileSlot.empty

/-- The machine right after power-on reset, with the three straps low (the manual does not say how a board straps the
part: notes/assumptions/6.md). With the store strap low start-up ends at once (R189): its START-UP notice is in the
notice queue and is being sent (R184). -/
def State.reset : State where
  clock := .afterReset
  part := .afterReset ⟨false, false, false⟩ emptySlots
  link :=
    { Link.afterReset 0 with
      tx := some ⟨.notice, 0x40#8, [0x02#8, 1#8, 3#8, 3#8, 0#8, 0#8, 0#8, 0#8, 0#8]⟩
      notices := [⟨.startUp .powerOn .noDevice .noDevice 0 0 0, false⟩] }
  pending := []

end Sys2Proof.Machine
end

