-- ==== Sys2Proof/Machine/Bytes.lean ====
section
/-!
DEFINITION. Machine/Bytes.lean: byte order, numbers in bytes, and the two CRCs.
-/

namespace Sys2Proof.Machine

/-- A number in `n` bytes, most significant byte first (R20, R182). -/
def be : Nat → Nat → List Byte
  | 0, _ => []
  | n + 1, v => BitVec.ofNat 8 (v >>> (8 * n)) :: be n v

/-- A signed number in `n` bytes, two's complement, most significant byte first (12.10). -/
def beInt (n : Nat) (v : Int) : List Byte := be n (v % (2 ^ (8 * n) : Nat)).toNat

/-- The number that bytes carry, most significant byte first. -/
def fromBe (bs : List Byte) : Nat := bs.foldl (fun v b => v * 256 + b.toNat) 0

/-- The signed 32-bit number that four bytes carry (1.8, 12.10). -/
def fromBeInt32 (bs : List Byte) : Int := (BitVec.ofNat 32 (fromBe bs)).toInt

/-- The tag that eight bytes carry. -/
def tagOf (bs : List Byte) : Tag := BitVec.ofNat 64 (fromBe bs)

/-- A tag in eight bytes. -/
def tagBytes (g : Tag) : List Byte := be 8 g.toNat

/-- A mark, flag or present byte: 1 when set, 0 otherwise (12.10). -/
def flagByte (b : Bool) : Byte := if b then 1 else 0

/-- One byte of a small number. -/
def byte (n : Nat) : Byte := BitVec.ofNat 8 n

/-- Bytes filled up with zeros to `n` places. -/
def padTo (n : Nat) (bs : List Byte) : List Byte := bs ++ List.replicate (n - bs.length) 0

/-- The number of a tree. -/
def treeNo : TreeId → Nat
  | .t0 => 0
  | .t1 => 1
  | .t2 => 2
  | .t3 => 3

/-- The tree of a number in 0..3. -/
def treeOf : Nat → Option TreeId
  | 0 => some .t0
  | 1 => some .t1
  | 2 => some .t2
  | 3 => some .t3
  | _ => none

/-- The four trees in ascending order. -/
def allTrees : List TreeId := [.t0, .t1, .t2, .t3]

/-- Whether a tree mask names a tree (00_scope, Identities and numbering). -/
def inMask (m : TreeMask) (t : TreeId) : Bool := m.getLsbD (treeNo t)

/-- The trees of a mask, in ascending order. -/
def treesOf (m : TreeMask) : List TreeId := allTrees.filter (inMask m)

/-- The mask of the trees for which `f` holds. -/
def maskOf (f : TreeId → Bool) : TreeMask :=
  (if f .t0 then 1#4 else 0) ||| (if f .t1 then 2#4 else 0) ||| (if f .t2 then 4#4 else 0) |||
    (if f .t3 then 8#4 else 0)

/-- A function applied eight times. -/
def eightTimes {α : Type} (f : α → α) (x : α) : α := f (f (f (f (f (f (f (f x)))))))

/-- One shift of the CRC-16 register (R21). -/
def crc16Shift (c : BitVec 16) : BitVec 16 := if c.msb then (c <<< 1) ^^^ 0x1021#16 else c <<< 1

/-- One byte enters the CRC-16 register, most significant bit first (R21). -/
def crc16Byte (c : BitVec 16) (b : Byte) : BitVec 16 := eightTimes crc16Shift (c ^^^ (b.setWidth 16 <<< 8))

/-- The CRC-16 of R21: polynomial 0x1021, starting at 0xFFFF, no reflection, no final inversion. -/
def crc16 (bs : List Byte) : BitVec 16 := bs.foldl crc16Byte 0xFFFF#16

/-- Bytes followed by their CRC-16, most significant byte first (R21). -/
def withCrc16 (bs : List Byte) : List Byte := bs ++ be 2 (crc16 bs).toNat

/-- One shift of the CRC-32 register (R30): bytes enter least significant bit first, so the register shifts toward its
least significant bit, with the polynomial 0x04C11DB7 mirrored (notes/assumptions/36.md). -/
def crc32Shift (c : BitVec 32) : BitVec 32 := if c.getLsbD 0 then (c >>> 1) ^^^ 0xEDB88320#32 else c >>> 1

/-- One image byte enters the CRC-32 register (R30, R149). -/
def crc32Byte (c : BitVec 32) (b : Byte) : BitVec 32 := eightTimes crc32Shift (c ^^^ b.setWidth 32)

/-- Image bytes enter the CRC-32 register in offset order (R149). -/
def crc32Feed (c : BitVec 32) (bs : List Byte) : BitVec 32 := bs.foldl crc32Byte c

/-- The value a COMMIT carries: the register inverted (R30). -/
def crc32Value (c : BitVec 32) : BitVec 32 := ~~~c

end Sys2Proof.Machine
end

