-- ==== Sys2Proof/Machine/Ops.lean ====
section
/-!
DEFINITION. Machine/Ops.lean: the named operations over the timebase, the trees, the records, the order queues and the
notices, shared by every block.
-/

namespace Sys2Proof.Machine

/-! ### Timebase -/

/-- The tree time at the start of cycle `c` (00_scope, Time). -/
def startOf (c : CycleNo) : TreeTime := c.setWidth 33 * 131072#33

/-- Tree time (R1). -/
def Clock.treeTime (k : Clock) : TreeTime := startOf k.cycle + BitVec.ofNat 33 k.pos

/-- The quarter count (R1). -/
def Clock.quarter (k : Clock) : QuarterNo := BitVec.ofNat 18 (k.cycle.toNat * 4 + k.pos / Config.quarterSteps)

/-- The number of the next cycle start whose header is still to be assembled: the present one while its work is open. -/
def Clock.nextStart (k : Clock) : CycleNo := if k.stage = .closed then k.cycle + 1 else k.cycle

/-- A timer of `n` tenths started now (R2). -/
def Clock.timer (k : Clock) (n : Nat) : Timer := ⟨k.tenth, n⟩

/-- Whether a timer has expired: the tenth count has advanced by its length (R2). -/
def Clock.expired (k : Clock) (t : Timer) : Bool := t.length ≤ tenthsSince k.tenth t.start

/-- Whether a running timer has expired. -/
def Clock.expiredTimer (k : Clock) : Option Timer → Bool
  | none => false
  | some t => k.expired t

/-! ### Trees and records -/

/-- The state of one tree. -/
def Part.tree (p : Part) (t : TreeId) : Tree := p.trees.get t

/-- Changes the state of one tree. -/
def Part.modTree (p : Part) (t : TreeId) (f : Tree → Tree) : Part :=
  { p with trees := p.trees.set t (f (p.trees.get t)) }

/-- The engine of one tree. -/
def Part.engine (p : Part) (t : TreeId) : Engine := (p.tree t).engine

/-- Changes the engine of one tree. -/
def Part.modEngine (p : Part) (t : TreeId) (f : Engine → Engine) : Part :=
  p.modTree t fun T => { T with engine := f T.engine }

/-- Changes the guard of one tree. -/
def Part.modGuard (p : Part) (t : TreeId) (f : Guard → Guard) : Part :=
  p.modTree t fun T => { T with guard := f T.guard }

/-- Changes the counters of one tree (R18). -/
def Part.modCounters (p : Part) (t : TreeId) (f : Counters → Counters) : Part :=
  p.modTree t fun T => { T with counters := f T.counters }

/-- Whether a record is the one named by a tree and a handle (R77). -/
def Record.named (r : Record) (t : TreeId) (h : Nat) : Bool := r.tree == t && r.handle == h

/-- A record's key: its tree x 64 + its handle - 1 (R99). -/
def Record.key (r : Record) : Nat := treeNo r.tree * 64 + r.handle - 1

/-- The record that a tree and a handle name, when it is not FREE (R77). -/
def Part.record? (p : Part) (t : TreeId) (h : Nat) : Option Record := p.records.find? (·.named t h)

/-- The record that is not FREE and carries a tag (R77: at most one). -/
def Part.recordOf? (p : Part) (g : Tag) : Option Record := p.records.find? (·.tag == g)

/-- The records of one tree, in ascending order of handle. -/
def Part.recordsOf (p : Part) (t : TreeId) : List Record := p.records.filter (·.tree == t)

/-- Changes the record of a tree and a handle. -/
def Part.modRecord (p : Part) (t : TreeId) (h : Nat) (f : Record → Record) : Part :=
  { p with records := p.records.map fun r => if r.named t h then f r else r }

/-- Puts a new record in its place in key order. -/
def insertRecord (r : Record) : List Record → List Record
  | [] => [r]
  | q :: rest => if r.key < q.key then r :: q :: rest else q :: insertRecord r rest

/-- Takes the record of a tree and a handle out of the records that are not FREE (R96). -/
def Part.dropRecord (p : Part) (t : TreeId) (h : Nat) : Part :=
  { p with records := p.records.filter fun r => !r.named t h }

/-- The upkeep fields at their starting values (R79). -/
def Record.startUpkeep (r : Record) : Record :=
  { r with level := 0, missCount := 0, errorCount := 0, impaired := false, attention := false, checkAttempts := 0,
           lastUpkeepGrant := 0, nudgePending := none }

/-! ### Notices -/

/-- A block raises a notice: the link takes the notices of a command in the order raised (R185). -/
def Part.raise (p : Part) (n : Notice) : Part := { p with raised := p.raised ++ [n] }

/-- The TERMINAL notice of a change of state (R80). -/
def Part.raiseTerminal (p : Part) (r : Record) (old new : RecState) (cause : Cause) : Part :=
  p.raise (.terminal r.tree r.handle r.tag old new cause)

/-! ### Admission entries -/

/-- The admission entry of a tag. -/
def Part.entry? (p : Part) (g : Tag) : Option AdmitEntry := p.admission.find? (·.tag == g)

/-- Changes the admission entry of a tag. -/
def Part.modEntry (p : Part) (g : Tag) (f : AdmitEntry → AdmitEntry) : Part :=
  { p with admission := p.admission.map fun e => if e.tag == g then f e else e }

/-! ### Orders (1.4) -/

/-- Whether an order is a LAG by tag for a record of this handle. -/
def Order.isLagByTag (h : Nat) : Order → Bool
  | .lagByTag _ h' _ => h' == h
  | _ => false

/-- Whether an order is a LAG, by tag or by handle, for this handle (R10, R109, R134). -/
def Order.isLag (h : Nat) : Order → Bool
  | .lagByTag _ h' _ => h' == h
  | .lagByHandle h' _ => h' == h
  | _ => false

/-- Whether an order is a RELISTEN for this handle. -/
def Order.isRelisten (h : Nat) : Order → Bool
  | .relisten h' => h' == h
  | _ => false

/-- Whether an order is a COMMIT for this handle. -/
def Order.isCommit (h : Nat) : Order → Bool
  | .commit h' _ => h' == h
  | _ => false

/-- What the push withdrawal call withdraws (R10). -/
def Order.isPush (h : Nat) : Order → Bool
  | .prepare h' _ _ => h' == h
  | .commit h' _ => h' == h
  | _ => false

/-- What the freeing call withdraws (R10, R96): every order carrying the handle, in its handle byte or, for a LAG by
tag, in its body, except RELISTEN; STANDDOWN and LIFT carry no handle. -/
def Order.isOfFreed (h : Nat) : Order → Bool
  | .lagByTag _ h' _ => h' == h
  | .lagByHandle h' _ => h' == h
  | .prepare h' _ _ => h' == h
  | .commit h' _ => h' == h
  | .relisten _ | .standdown _ | .lift _ => false

/-- The kinds whose held orders number at most 64 on a tree (R9). -/
def Order.isByTag : Order → Bool
  | .lagByTag _ _ _ | .standdown _ | .lift _ => true
  | _ => false

/-- Whether an order that fits `f` stands in a tree's order queue or is held (R9: a held order counts as queued). -/
def Part.hasOrder (p : Part) (t : TreeId) (f : Order → Bool) : Bool :=
  (p.tree t).queue.any f || (p.tree t).heldOrders.any f

/-- Sets the lag-unsent mark of the record that a LAG by tag is for (R91). -/
def Part.markUnsent (p : Part) (t : TreeId) (o : Order) (v : Bool) : Part :=
  match o with
  | .lagByTag g h _ =>
    { p with
      records := p.records.map fun r => if r.named t h && r.tag == g then { r with lagUnsent := v } else r }
  | _ => p

/-- Whether the order queue of a tree takes an order offered (R9). -/
def Tree.accepts (T : Tree) : Bool := T.queue.length < Config.maxOrders && T.heldOrders.isEmpty

/-- Whether an order that the queue refuses is held, or dropped (R9). -/
def Tree.mayHold (T : Tree) (o : Order) : Bool :=
  !o.isByTag || (T.heldOrders.filter Order.isByTag).length < Config.maxHeldByTag

/-- An order is offered to a tree's order queue: dropped on a DISABLED tree (R3), accepted at the tail, held, or dropped
(R9); with a LAG by tag the record's lag-unsent mark follows (R91). -/
def Part.offer (p : Part) (t : TreeId) (o : Order) : Part :=
  let T := p.tree t
  if !T.enabled then p
  else if T.accepts then (p.modTree t fun T => { T with queue := T.queue ++ [o] }).markUnsent t o false
  else if T.mayHold o then (p.modTree t fun T => { T with heldOrders := T.heldOrders ++ [o] }).markUnsent t o true
  else p.markUnsent t o true

/-- Withdraws the orders that fit `f` from a tree's queue and from its held orders (R10). A held LAG by tag that is
withdrawn clears its record's lag-unsent mark (R91). -/
def Part.withdraw (p : Part) (t : TreeId) (f : Order → Bool) : Part :=
  let gone := (p.tree t).heldOrders.filter f
  gone.foldl (fun p o => p.markUnsent t o false)
    (p.modTree t fun T =>
      { T with queue := T.queue.filter fun o => !f o, heldOrders := T.heldOrders.filter fun o => !f o })

/-- The held orders are offered again, oldest first, while places remain (R9). -/
def Part.reofferList (p : Part) (t : TreeId) : List Order → Part
  | [] => p.modTree t fun T => { T with heldOrders := [] }
  | o :: rest =>
    if (p.tree t).queue.length < Config.maxOrders then
      ((p.modTree t fun T => { T with queue := T.queue ++ [o] }).markUnsent t o false).reofferList t rest
    else p.modTree t fun T => { T with heldOrders := o :: rest }

/-- The round of held orders at a cycle start (R9). -/
def Part.reoffer (p : Part) (t : TreeId) : Part := p.reofferList t (p.tree t).heldOrders

/-! ### Expectations -/

/-- Whether an entry for a handle is in a tree's expectation list, orphan or not (R108). -/
def Part.expects (p : Part) (t : TreeId) (h : Nat) : Bool := (p.tree t).expectations.any (·.handle == h)

/-- Changes the expectation list of one tree. -/
def Part.modExpectations (p : Part) (t : TreeId) (f : List Expectation → List Expectation) : Part :=
  p.modTree t fun T => { T with expectations := f T.expectations }

/-- The entry of a handle becomes an orphan (R118). -/
def Part.orphan (p : Part) (t : TreeId) (h : Nat) : Part :=
  p.modExpectations t (·.map fun e => if e.handle == h then { e with orphan := true } else e)

/-- The LOAD-STATUS entry of a handle becomes an orphan (R118, R161, R162). -/
def Part.orphanLoadStatus (p : Part) (t : TreeId) (h : Nat) : Part :=
  p.modExpectations t (·.map fun e =>
    if e.handle == h && e.purpose == .loadStatus then { e with orphan := true } else e)

/-- Whether a handle of a tree is reserved (R82): no record that is not FREE carries it, and an expectation entry or a
RELISTEN for it remains. -/
def Part.reserved (p : Part) (t : TreeId) (h : Nat) : Bool :=
  (p.record? t h).isNone && (p.expects t h || p.hasOrder t (Order.isRelisten h))

/-- The handles 1..64. -/
def allHandles : List Nat := (List.range Config.maxHandles).map (· + 1)

/-- The lowest handle that is neither carried nor reserved (R81). -/
def Part.freeHandle (p : Part) (t : TreeId) : Option Nat :=
  allHandles.find? fun h => (p.record? t h).isNone && !p.reserved t h

end Sys2Proof.Machine
end

