-- ==== Sys2Proof/Machine/Bus.lean ====
section
/-!
DEFINITION. Machine/Bus.lean: the two-wire master and its rotation (R190), and the push fetchers' requests (R144).
-/

namespace Sys2Proof.Machine

/-- The requesters outside start-up in their cyclic order (R190). -/
def rotation : List Requester := [.fetcher .t0, .fetcher .t1, .fetcher .t2, .fetcher .t3, .saver]

/-- The order in which the master looks for a waiting requester after it has served `last` (R190). -/
def rotationAfter : Requester → List Requester
  | .fetcher .t0 => [.fetcher .t1, .fetcher .t2, .fetcher .t3, .saver, .fetcher .t0]
  | .fetcher .t1 => [.fetcher .t2, .fetcher .t3, .saver, .fetcher .t0, .fetcher .t1]
  | .fetcher .t2 => [.fetcher .t3, .saver, .fetcher .t0, .fetcher .t1, .fetcher .t2]
  | .fetcher .t3 => [.saver, .fetcher .t0, .fetcher .t1, .fetcher .t2, .fetcher .t3]
  | .saver | .loader => rotation

/-- The transfer that a requester waits to have made, if any. -/
def Part.waitingTransfer (p : Part) : Requester → Option Transfer
  | .fetcher t => (p.tree t).fetchWait
  | .saver =>
    match p.save with
    | some s => s.pages.head?.map fun g => ⟨.saver, .page g.bytes, g.address, g.bytes.length, false⟩
    | none => none
  | .loader => none

/-- A requester's transfer is now under way: a fetcher's request is no longer waiting. -/
def Part.noLongerWaiting (p : Part) : Requester → Part
  | .fetcher t => p.modTree t fun T => { T with fetchWait := none }
  | .saver | .loader => p

/-- The first requester of a list that waits, with its transfer. -/
def Part.firstWaiting (p : Part) : List Requester → Option Transfer
  | [] => none
  | r :: rest =>
    match p.waitingTransfer r with
    | some x => some x
    | none => p.firstWaiting rest

/-- When the bus is free, the next transfer goes to the first waiting requester after the one served last (R190). While
the store strap is low no transfer is made. -/
def Part.serveBus (p : Part) : Part :=
  if p.master.current.isSome || !p.straps.store then p
  else
    match p.firstWaiting (rotationAfter p.master.last) with
    | none => p
    | some x => { p.noLongerWaiting x.requester with master := ⟨some x, p.master.last⟩ }

/-- The transfer under way has ended (R190); the next one is given by `serveBus` once its result is taken. -/
def Part.endTransfer (p : Part) : Part :=
  match p.master.current with
  | none => p
  | some x => { p with master := ⟨none, x.requester⟩ }

/-- Whether the transfer under way is one of the fetcher of a tree. -/
def Part.fetching (p : Part) (t : TreeId) : Bool :=
  match p.master.current with
  | some x => x.requester == .fetcher t
  | none => false

/-- The fetcher of a tree requests a transfer (R144). -/
def Part.requestFetch (p : Part) (t : TreeId) (kind : TransferKind) (address length : Nat) : Part :=
  (p.modTree t fun T => { T with fetchWait := some ⟨.fetcher t, kind, address, length, false⟩ }).serveBus

/-- The push that the fetcher of a tree served has ended: a transfer requested is withdrawn, one under way is completed
and its bytes are discarded (R144). -/
def Part.dropFetch (p : Part) (t : TreeId) : Part :=
  let p := p.modTree t fun T => { T with fetchWait := none }
  match p.master.current with
  | some x =>
    if x.requester == .fetcher t then { p with master := ⟨some { x with discard := true }, p.master.last⟩ } else p
  | none => p

end Sys2Proof.Machine
end

