-- ==== Sys2Proof/Machine/Push.lean ====
section
/-!
DEFINITION. Machine/Push.lean: the push queue, the push engine, its FIFO and its attempts (chapter 9).
-/

namespace Sys2Proof.Machine

/-! ### Slots, FIFO and context -/

/-- The internal slot of a number 1..16 (R138). -/
def Part.slot (p : Part) (n : Nat) : ProfileSlot := p.slots[n - 1]?.getD .empty

/-- Replaces the internal slot of a number 1..16. -/
def Part.setSlot (p : Part) (n : Nat) (v : ProfileSlot) : Part := { p with slots := p.slots.setIfInBounds (n - 1) v }

/-- The fill count: the image bytes that have entered the push FIFO (R149). -/
def Engine.fillCount (e : Engine) : Nat := e.ackPoint + e.fifo.length

/-- The free space of the push FIFO (R149). -/
def Engine.freeSpace (e : Engine) : Nat := Config.fifoBytes - e.fifo.length

/-- The count of the next LOAD cell: 40, or the bytes that remain to the image length (R154). -/
def Engine.nextCount (e : Engine) : Nat := min Config.cellBytes (e.imageLength - e.sendPointer)

/-- Whether the FIFO lacks bytes of the next cell (R154, R157). -/
def Engine.lacksNext (e : Engine) : Bool := e.fillCount < e.sendPointer + e.nextCount

/-- Whether the engine has sendable bytes at a control field position (R154). -/
def Engine.sendable (e : Engine) : Bool :=
  e.state == .streaming && 0 < e.nextCount && !e.lacksNext
    && e.sendPointer - e.ackPoint ≤ 1240
    && e.sendPointer - e.ackPoint + e.nextCount ≤ Config.windowBytes

/-- Whether a STREAMING engine is paused (R157). -/
def Engine.paused (e : Engine) : Bool := e.lacksNext && e.fillCount < e.imageLength

/-- Image bytes enter the FIFO at the fill count and feed the CRC-32 register (R149). -/
def Engine.enter (e : Engine) (bs : List Byte) : Engine := { e with fifo := e.fifo ++ bs, crc := crc32Feed e.crc bs }

/-- Whether the slot is in use: the source INTERNAL of the push that the tree's engine serves (R138). -/
def Engine.usesSlot (e : Engine) (n : Nat) : Bool := e.state != .idle && e.source == some .internal && e.profile == n

/-- The trees on which a push being served has the slot as its source INTERNAL (R138, R143). -/
def Part.slotUsers (p : Part) (n : Nat) : TreeMask := maskOf fun t => (p.engine t).usesSlot n

/-- The bytes of the ROM default profile from an offset, up to a count (9.1). -/
def romSlice (offset count : Nat) : List Byte := (List.range count).map fun i => Config.romByte (offset + i)

/-- The pause of R157 begins or ends: at its start the stall timer starts and, for a streamed source, PUSH-HUNGRY is
raised; at its end the stall timer is stopped. A go-back after which the FIFO holds the next cell's bytes ends the pause too,
and a later pause starts the timer afresh; one after which it does not leaves the timer running (DESIGN CHOICE,
notes/assumptions/50.md). -/
def Part.pauseUpdate (p : Part) (k : Clock) (t : TreeId) : Part :=
  let e := p.engine t
  if e.state != .streaming then p
  else if !e.paused then p.modEngine t fun e => { e with stallTimer := none }
  else if e.stallTimer.isSome then p
  else
    let p := p.modEngine t fun e => { e with stallTimer := some (k.timer (p.tree t).settings.stallLimit) }
    if e.source == some .streamed then
      p.raise (.pushHungry t (e.serving.getD 0) e.imageLength e.fillCount e.freeSpace)
    else p

/-- Bytes enter the FIFO as the source allows (R149), and the fetcher requests its next data read (R144); the pause
follows (R157). -/
def Part.refill (p : Part) (k : Clock) (t : TreeId) : Part :=
  let e := p.engine t
  let count := min e.freeSpace (e.imageLength - e.fillCount)
  let p :=
    match e.source with
    | some .internal => p.modEngine t (·.enter (((p.slot e.profile).bytes.drop e.fillCount).take count))
    | some .default => p.modEngine t (·.enter (romSlice e.fillCount count))
    | some .external =>
      let want := min Config.pageBytes (e.imageLength - e.fillCount)
      if 0 < want && want ≤ e.freeSpace && (p.tree t).fetchWait.isNone && !p.fetching t then
        p.requestFetch t .data (Config.profileBase + Config.slotBytes * (e.profile - 17) + e.fillCount) want
      else p
    | _ => p
  p.pauseUpdate k t

/-! ### Asks for status -/

/-- The engine raises an ask for status (R111): not while it is awaiting or has one outstanding, and while a LOAD-STATUS
entry for its record remains the ask is deferred. -/
def Part.raiseAsk (p : Part) (k : Clock) (t : TreeId) : Part :=
  let e := p.engine t
  match e.serving with
  | none => p
  | some h =>
    if e.awaiting || e.ask.isSome then p
    else if (p.tree t).expectations.any fun x => x.handle == h && x.purpose == .loadStatus then
      p.modEngine t fun e => { e with askDeferred := true }
    else p.modEngine t fun e => { e with ask := some k.nextStart, askDeferred := false }

/-- What R155 asks for in STREAMING. -/
def Engine.callsForAsk (e : Engine) : Bool :=
  e.state == .streaming
    && (16 ≤ e.cellCount || (e.sendPointer == e.imageLength && e.ackPoint != e.imageLength) || e.lastBad)

/-- A STREAMING engine raises an ask when R155 calls for one. -/
def Part.streamAsk (p : Part) (k : Clock) (t : TreeId) : Part :=
  if (p.engine t).callsForAsk then p.raiseAsk k t else p

/-- An entry has left the list: a deferred ask is raised if the engine's state still calls for it (R111). -/
def Part.settleAsk (p : Part) (k : Clock) (t : TreeId) : Part :=
  let e := p.engine t
  if !e.askDeferred then p
  else
    let p := p.modEngine t fun e => { e with askDeferred := false }
    match e.state with
    | .preparing | .committing => p.raiseAsk k t
    | .streaming => p.streamAsk k t
    | _ => p

/-! ### Changes of state that the engine makes -/

/-- The record of a handle enters HELD (R95), its push already ended: its expectation becomes an orphan (R118), a
LOAD-STATUS entry left live by STORE_FAULT among them (DESIGN CHOICE, notes/assumptions/40.md), the load and refind parts
become absent, the held part is made, a TERMINAL notice is raised. -/
def Part.holdRecord (p : Part) (t : TreeId) (h : Nat) (cause : Cause) : Part :=
  match p.record? t h with
  | none => p
  | some r =>
    ((p.orphan t h).modRecord t h fun r =>
      { r with
        state := .held
        cause := cause
        load := none
        refind := none
        held := some 0
        upkeepDue := false
        check := .none }).raiseTerminal r r.state .held cause

/-- The poll schedule of a slot as a record enters IN_SERVICE: due at once when the slot is on (R167), since the present
cycle, slot A with its attention mark set too (DESIGN CHOICE, notes/assumptions/49.md). -/
def PollSchedule.enterService (s : PollSchedule) (slot : TableSlot) (c : CycleNo) : PollSchedule :=
  if slot.kind == 0 then s else { s with due := some c }

/-- The record of a handle enters IN_SERVICE (R92), every slot that is on due since the present cycle (R167; for slot A with
its attention mark set a DESIGN CHOICE, notes/assumptions/49.md). -/
def Part.enterInService (p : Part) (k : Clock) (t : TreeId) (h : Nat) (cause : Cause) : Part :=
  match p.record? t h with
  | none => p
  | some r =>
    (p.modRecord t h fun r =>
      { r with
        state := .inService
        cause := cause
        load := none
        check := .none
        polls :=
          ⟨r.polls.a.enterService p.reportTable.a k.cycle, r.polls.b.enterService p.reportTable.b k.cycle,
           r.polls.c.enterService p.reportTable.c k.cycle⟩ }).raiseTerminal r r.state .inService cause

/-- The engine enters PREPARING with a source and an image length (R147, R152): the record's load part takes the source,
the PREPARE is offered, and bytes begin to enter. -/
def Part.startPreparing (p : Part) (k : Clock) (t : TreeId) (h : Nat) (source : Source) (length : Nat) : Part :=
  let e := p.engine t
  let p := p.modEngine t fun e => { e with state := .preparing, source := some source, imageLength := length,
                                           beginTimer := none }
  let p := p.modRecord t h fun r =>
    { r with load := r.load.map fun l => { l with sub := .preparing, source := some source } }
  let p := p.offer t (.prepare h length (if source == .default then 0 else e.profile))
  p.refill k t

/-- An internal or external profile is unavailable (R147). The second part says whether the engine is IDLE again. -/
def Part.unavailable (p : Part) (k : Clock) (t : TreeId) (h : Nat) : Part × Bool :=
  match (p.tree t).settings.fallback with
  | .useDefault => (p.startPreparing k t h .default Config.romBytes, false)
  | .hold => ((p.modEngine t fun _ => .idle).holdRecord t h .noProfile, true)

/-- The source of the record just taken is resolved (R147, R148). The second part says whether the engine is IDLE
again. -/
def Part.resolve (p : Part) (k : Clock) (t : TreeId) (r : Record) (l : Load) : Part × Bool :=
  if l.profile == 64 then
    let p := p.raise (.pushStart t r.handle r.tag (l.used + 1))
    (p.modEngine t fun e => { e with beginTimer := some (k.timer (p.tree t).settings.stallLimit) }, false)
  else if 17 ≤ l.profile then
    if p.straps.store then
      (p.requestFetch t .directory (Config.directoryBase + 4 * (l.profile - 17)) 4, false)
    else p.unavailable k t r.handle
  else
    let s := p.slot l.profile
    if s.state == .ready then (p.startPreparing k t r.handle .internal s.bytes.length, false)
    else p.unavailable k t r.handle

/-- The record that the engine would take: the oldest of the push queue that is not IMPAIRED (R146). -/
def Part.nextToTake (p : Part) (t : TreeId) : Option Record :=
  (p.tree t).pushQueue.findSome? fun h =>
    match p.record? t h with
    | some r => if r.impaired then none else some r
    | none => none

/-- One take (R146), when the engine is IDLE, DARK is absent and a record may be taken. -/
def Part.takeOne (p : Part) (k : Clock) (t : TreeId) : Part × Bool :=
  let T := p.tree t
  if T.engine.state != .idle || T.guard.present.dark then (p, false)
  else
    match p.nextToTake t with
    | none => (p, false)
    | some r =>
      match r.load with
      | none => (p, false)
      | some l =>
        let p := p.modTree t fun T =>
          { T with
            pushQueue := T.pushQueue.filter (· != r.handle)
            engine := { Engine.idle with state := .resolving, serving := some r.handle, profile := l.profile } }
        p.resolve k t r l

/-- Takes while the engine comes back to IDLE, at most `n` times. -/
def Part.takeUpTo (p : Part) (k : Clock) (t : TreeId) : Nat → Part
  | 0 => p
  | n + 1 =>
    let (p', again) := p.takeOne k t
    if again then p'.takeUpTo k t n else p'

/-- The test of R146: the engine takes a record when it may, and again when the one taken was held NO_PROFILE. -/
def Part.takeTest (p : Part) (k : Clock) (t : TreeId) : Part := p.takeUpTo k t ((p.tree t).pushQueue.length + 1)

/-! ### The end of a push -/

/-- The engine lets go of the push of a handle (R161, R162): the push withdrawal call is made, the fetcher is dropped,
the FIFO and the context are cleared and the engine is IDLE. -/
def Part.clearPush (p : Part) (t : TreeId) (h : Nat) : Part :=
  ((p.withdraw t (Order.isPush h)).dropFetch t).modEngine t fun _ => .idle

/-- The attempt fails (R161), with a reason, the terminal's code, and whether the failure is by a timer. Its LOAD-STATUS
entry, which a timer makes an orphan, is the live one exactly while the engine is awaiting (R151); one that an attempt
left live by STORE_FAULT stays live (R159). -/
def Part.failAttempt (p : Part) (k : Clock) (t : TreeId) (reason : FailReason) (code : Nat) (byTimer : Bool) : Part :=
  let e := p.engine t
  match e.serving with
  | none => p
  | some h =>
    let p := if byTimer && e.awaiting then p.orphanLoadStatus t h else p
    let p := p.clearPush t h
    match p.record? t h with
    | none => p
    | some r =>
      match r.load with
      | none => p
      | some l =>
        let charged := !(p.tree t).guard.present.dark
        let used := if charged then l.used + 1 else l.used
        let held := (p.tree t).settings.pushRetries < used
        let notice := Notice.pushFail t h r.tag l.profile e.source reason code e.ackPoint used charged held
        if held then ((p.raise notice).holdRecord t h .loadFail).takeTest k t
        else
          let p := p.modRecord t h fun r => { r with load := some ⟨l.profile, .queued, used, none⟩ }
          let p := p.modTree t fun T => { T with pushQueue := T.pushQueue ++ [h] }
          (p.raise notice).takeTest k t

/-- The push being served to a handle is aborted (R162). -/
def Part.abortPush (p : Part) (k : Clock) (t : TreeId) (h : Nat) : Part :=
  ((p.orphanLoadStatus t h).clearPush t h).takeTest k t

/-- A record leaves LOADING for a reason other than the end of its push: the push served is aborted, or the record is
removed from the push queue (R145, R162). After an abort the engine may take the next record at once, and the notices of that
take come before the TERMINAL notice of the record that left (DESIGN CHOICE, notes/assumptions/20.md). -/
def Part.leavePush (p : Part) (k : Clock) (t : TreeId) (h : Nat) : Part :=
  if (p.engine t).serving == some h then p.abortPush k t h
  else p.modTree t fun T => { T with pushQueue := T.pushQueue.filter (· != h) }

/-- A record joins the tail of the push queue (R145), and the test of R146 is made. -/
def Part.joinQueue (p : Part) (k : Clock) (t : TreeId) (h : Nat) : Part :=
  (p.modTree t fun T => { T with pushQueue := T.pushQueue ++ [h] }).takeTest k t

/-! ### Progress of a push -/

/-- The engine and the record enter STREAMING (R153, R154). -/
def Part.enterStreaming (p : Part) (k : Clock) (t : TreeId) : Part :=
  let h := (p.engine t).serving.getD 0
  let p := p.modEngine t fun e => { e with state := .streaming, cellCount := 0, lastBad := false, settleLeft := 0 }
  let p := p.modRecord t h fun r => { r with load := r.load.map fun l => { l with sub := .streaming } }
  p.pauseUpdate k t

/-- The engine and the record enter SETTLING, or STREAMING at once when settle_cycles is 0 (R153). -/
def Part.enterSettling (p : Part) (k : Clock) (t : TreeId) : Part :=
  let h := (p.engine t).serving.getD 0
  let n := (p.tree t).settings.settleCycles
  let p := p.modEngine t fun e => { e with state := .settling, prepareTimer := none, settleLeft := n }
  let p := p.modRecord t h fun r => { r with load := r.load.map fun l => { l with sub := .settling } }
  if n == 0 then p.enterStreaming k t else p

/-- Every byte is acknowledged: a COMMIT is offered, and the engine and the record enter COMMITTING (R156). -/
def Part.enterCommitting (p : Part) (t : TreeId) : Part :=
  let e := p.engine t
  let h := e.serving.getD 0
  let p := p.modEngine t fun e => { e with state := .committing, stallTimer := none }
  let p := p.modRecord t h fun r => { r with load := r.load.map fun l => { l with sub := .committing } }
  p.offer t (.commit h (crc32Value e.crc))

/-- The push ends with DONE (R158). -/
def Part.pushDone (p : Part) (k : Clock) (t : TreeId) (h : Nat) : Part :=
  ((p.modEngine t fun _ => .idle).enterInService k t h .loaded).takeTest k t

/-- A LOAD-STATUS outcome as the engine takes it: MISSED, ERRORED and LAPSED are one, an answer carries the status and
the sent mark of its entry (R117). -/
inductive StatusOutcome where
  | bad
  | answered (status : LoadStatus) (sentMark : Nat)
deriving DecidableEq, Repr

/-- An outcome in PREPARING (R152). -/
def Part.preparingOutcome (p : Part) (k : Clock) (t : TreeId) : StatusOutcome → Part
  | .bad => p.raiseAsk k t
  | .answered .notReady _ => p.raiseAsk k t
  | .answered .ready _ => p.enterSettling k t
  | .answered (.fail c) _ => p.failAttempt k t .terminal c false
  | .answered (.receiving _) _ => p.failAttempt k t .protocol 0 false
  | .answered .done _ => p.failAttempt k t .protocol 0 false

/-- A RECEIVING status with next expected offset `n` in STREAMING (R156). -/
def Part.acknowledge (p : Part) (k : Clock) (t : TreeId) (n sentMark : Nat) : Part :=
  let e := p.engine t
  if n < e.ackPoint || sentMark < n || (n % Config.cellBytes != 0 && n != e.imageLength) then
    p.failAttempt k t .protocol 0 false
  else
    let p := p.modEngine t fun e =>
      { e with
        fifo := e.fifo.drop (n - e.ackPoint)
        ackPoint := n
        sendPointer := if n < sentMark then n else e.sendPointer }
    if n == e.imageLength then p.enterCommitting t else (p.refill k t).streamAsk k t

/-- An outcome in STREAMING (R151, R155, R156). -/
def Part.streamingOutcome (p : Part) (k : Clock) (t : TreeId) : StatusOutcome → Part
  | .bad => (p.modEngine t fun e => { e with lastBad := true }).streamAsk k t
  | .answered .ready mark => (p.modEngine t fun e => { e with lastBad := false }).acknowledge k t 0 mark
  | .answered (.receiving n) mark => (p.modEngine t fun e => { e with lastBad := false }).acknowledge k t n mark
  | .answered .notReady _ => p.failAttempt k t .lost 0 false
  | .answered .done _ => p.failAttempt k t .protocol 0 false
  | .answered (.fail c) _ => p.failAttempt k t .terminal c false

/-- An outcome in COMMITTING (R158). -/
def Part.committingOutcome (p : Part) (k : Clock) (t : TreeId) (h : Nat) : StatusOutcome → Part
  | .bad => p.raiseAsk k t
  | .answered .done _ => p.pushDone k t h
  | .answered (.fail c) _ => p.failAttempt k t .terminal c false
  | .answered .notReady _ => p.failAttempt k t .lost 0 false
  | .answered .ready _ => p.failAttempt k t .protocol 0 false
  | .answered (.receiving n) _ =>
    if n == (p.engine t).imageLength then
      if p.hasOrder t (Order.isCommit h) then p else p.offer t (.commit h (crc32Value (p.engine t).crc))
    else p.failAttempt k t .protocol 0 false

/-- The engine takes a LOAD-STATUS outcome of the record `h`: it judges it while it awaits one for that record, and
discards it otherwise (R151). -/
def Part.pushOutcome (p : Part) (k : Clock) (t : TreeId) (h : Nat) (o : StatusOutcome) : Part :=
  let e := p.engine t
  if e.serving != some h || !e.awaiting then p
  else
    let p := p.modEngine t fun e => { e with awaiting := false }
    match e.state with
    | .preparing => p.preparingOutcome k t o
    | .streaming => p.streamingOutcome k t o
    | .committing => p.committingOutcome k t h o
    | .idle | .resolving | .settling => p

/-- The PREPARE of a handle is reported sent: the prepare timer starts and an ask is raised (R152). -/
def Part.prepareSent (p : Part) (k : Clock) (t : TreeId) (h : Nat) : Part :=
  let e := p.engine t
  if e.state == .preparing && e.serving == some h then
    let p := p.modEngine t fun e => { e with prepareTimer := some (k.timer (p.tree t).settings.prepareTimeout) }
    p.raiseAsk k t
  else p

/-- The COMMIT of a handle is reported sent: the commit timer starts unless it runs, and an ask is raised (R158). -/
def Part.commitSent (p : Part) (k : Clock) (t : TreeId) (h : Nat) : Part :=
  let e := p.engine t
  if e.state == .committing && e.serving == some h then
    let p := p.modEngine t fun e =>
      if e.commitTimer.isSome then e else { e with commitTimer := some (k.timer (p.tree t).settings.commitTimeout) }
    p.raiseAsk k t
  else p

/-- The next LOAD cell of an engine that has sendable bytes (R154). -/
def Engine.nextCell (e : Engine) : Cell :=
  .load (e.serving.getD 0) e.sendPointer ((e.fifo.drop (e.sendPointer - e.ackPoint)).take e.nextCount)

/-- The engine has supplied a LOAD cell: the send pointer and the cell count advance (R154), and the engine may pause
(R157). -/
def Part.cellSupplied (p : Part) (k : Clock) (t : TreeId) : Part :=
  (p.modEngine t fun e =>
    { e with sendPointer := e.sendPointer + e.nextCount, cellCount := e.cellCount + 1 }).pauseUpdate k t

/-! ### Bytes and directory entries from the bus, bytes from the host -/

/-- A directory entry makes its profile available when its marker is 0x5A and its length is 1..4096 (R144). -/
def directoryLength (bs : List Byte) : Option Nat :=
  match bs with
  | m :: hi :: lo :: _ =>
    let n := fromBe [hi, lo]
    if m == 0x5A#8 && 1 ≤ n && n ≤ Config.slotBytes then some n else none
  | _ => none

/-- A directory read of the engine's push ends with its bytes (R147). -/
def Part.directoryRead (p : Part) (k : Clock) (t : TreeId) (bs : List Byte) : Part :=
  match (p.engine t).serving with
  | none => p
  | some h =>
    match directoryLength bs with
    | some n => p.startPreparing k t h .external n
    | none =>
      let (p', again) := p.unavailable k t h
      if again then p'.takeTest k t else p'

/-- A data read of the engine's push ends with its bytes: they enter the FIFO (R149), and the next read is requested. -/
def Part.dataRead (p : Part) (k : Clock) (t : TreeId) (bs : List Byte) : Part :=
  let e := p.engine t
  (p.modEngine t (·.enter (bs.take (min e.freeSpace (e.imageLength - e.fillCount))))).refill k t

end Sys2Proof.Machine
end

