-- ==== Sys2Proof/Machine/Guard.lean ====
section
/-!
DEFINITION. Machine/Guard.lean: the tree guard, its factors, HUSH and the resume timer (chapter 11).
-/

namespace Sys2Proof.Machine

/-- Whether a set of factors holds a factor. -/
def Factors.has (s : Factors) : Factor → Bool
  | .stray => s.stray
  | .dark => s.dark
  | .storm => s.storm

/-- A set of factors with a factor put in or taken out. -/
def Factors.put (s : Factors) (f : Factor) (v : Bool) : Factors :=
  match f with
  | .stray => { s with stray := v }
  | .dark => { s with dark := v }
  | .storm => { s with storm := v }

/-- No factor. -/
def Factors.none : Factors := ⟨false, false, false⟩

/-- Whether a set of factors holds any. -/
def Factors.any (s : Factors) : Bool := s.stray || s.dark || s.storm

/-- A lead-in is cancelled (R46): the window record is dropped, QUIET is released and the window timer becomes 0. In the
other states of the scheduler HUSH changes nothing in it (R47). -/
def Tree.cancelLeadIn (T : Tree) : Tree :=
  match T.scheduler.phase with
  | .leadIn _ => { T with scheduler := { T.scheduler with phase := .idle, timer := 0 }, quiet := false }
  | .idle | .listening _ => T

/-- A factor arises, with the measure its notice carries (R177, R178). STORM does not join the factors present (R176). -/
def Part.arise (p : Part) (k : Clock) (t : TreeId) (f : Factor) (measure : Nat) : Part :=
  let g := (p.tree t).guard
  let present := if f == .storm then g.present else g.present.put f true
  if g.hush then
    p.modGuard t fun g => { g with present := present, seen := g.seen.put f true, resume := none }
  else
    let only := Factors.none.put f true
    let p := p.modGuard t fun g => { g with hush := true, present := present, seen := only, resume := none }
    (p.raise (.hush t true only only measure k.cycle k.tenth)).modTree t Tree.cancelLeadIn

/-- A factor that was present has ended, or STORM ends: in HUSH with no factor present the resume timer starts (R177). -/
def Part.startResume (p : Part) (k : Clock) (t : TreeId) : Part :=
  let T := p.tree t
  if T.guard.hush && !T.guard.present.any then
    p.modGuard t fun g => { g with resume := some (k.timer T.settings.resumeDelay) }
  else p

/-- STRAY or DARK, present, ends (R174, R175, R179). The end of DARK makes the test of R146. -/
def Part.endFactor (p : Part) (k : Clock) (t : TreeId) (f : Factor) : Part :=
  let p := (p.modGuard t fun g => { g with present := g.present.put f false }).startResume k t
  if f == .dark then p.takeTest k t else p

/-- A stray light event (R14, R174): the stray counter and the stray count increase, and STRAY may arise. -/
def Part.strayEvent (p : Part) (k : Clock) (t : TreeId) : Part :=
  let p := p.modCounters t fun c => { c with stray := c.stray + 1 }
  let p := p.modGuard t fun g => { g with strayCount := min 255 (g.strayCount + 1) }
  let T := p.tree t
  if T.settings.guardMask.stray && !T.guard.present.stray && T.settings.strayThreshold ≤ T.guard.strayCount then
    p.arise k t .stray T.guard.strayCount
  else p

/-- A span boundary (R174): STRAY ends after a span with fewer events than the threshold; the stray count becomes 0. -/
def Part.spanEnds (p : Part) (k : Clock) (t : TreeId) : Part :=
  let T := p.tree t
  let p := if T.guard.present.stray && T.guard.strayCount < T.settings.strayThreshold then p.endFactor k t .stray else p
  (p.modGuard t fun g => { g with strayCount := 0 }).modTree t fun T => { T with spanDone := true }

/-- Whether DARK arises at the cycle start (R175). -/
def Part.darkDue (p : Part) (t : TreeId) : Bool :=
  let T := p.tree t
  T.settings.guardMask.dark && !T.guard.present.dark && T.settings.darkCycles ≤ T.darkCount
    && (p.recordsOf t).any fun r => r.state == .loading || r.state == .inService

/-- The DARK test of a cycle start is taken (R175). -/
def Part.darkTest (p : Part) (k : Clock) (t : TreeId) : Part :=
  let q := p.modTree t fun T => { T with darkDone := true }
  if p.darkDue t then q.arise k t .dark (p.tree t).darkCount else q

/-- A light onset ends DARK (R175). -/
def Part.onsetEndsDark (p : Part) (k : Clock) (t : TreeId) : Part :=
  if (p.tree t).guard.present.dark then p.endFactor k t .dark else p

/-- The guard is handed the collision count of a closed window (R176): STORM arises and ends at the same instant. -/
def Part.stormTest (p : Part) (k : Clock) (t : TreeId) (c : Nat) : Part :=
  let s := (p.tree t).settings
  if s.guardMask.storm && s.stormThreshold ≤ c then (p.arise k t .storm c).startResume k t else p

/-- The resume timer expires (R177): the guard leaves HUSH and a HUSH LEFT notice is raised. -/
def Part.leaveHush (p : Part) (k : Clock) (t : TreeId) : Part :=
  let seen := (p.tree t).guard.seen
  (p.modGuard t fun g => { g with hush := false, resume := none }).raise
    (.hush t false .none seen 0 k.cycle k.tenth)

/-- A TREE-SET has stored guard_mask (R179): a factor present whose bit is clear ends. -/
def Part.guardMaskStored (p : Part) (k : Clock) (t : TreeId) : Part :=
  let T := p.tree t
  let p := if T.guard.present.stray && !T.settings.guardMask.stray then p.endFactor k t .stray else p
  if T.guard.present.dark && !T.settings.guardMask.dark then p.endFactor k t .dark else p

end Sys2Proof.Machine
end

