-- ==== Sys2Proof/Machine/Table.lean ====
section
/-!
DEFINITION. Machine/Table.lean: the changes of state of a record (6.5) and the seven dispositions of a measured hello
(6.4).
-/

namespace Sys2Proof.Machine

/-! ### Changes of state -/

/-- A record that is not FREE enters HEARD again (R90). Where its push is aborted, the notices of the record that the engine
then takes come before its own (DESIGN CHOICE, notes/assumptions/20.md). -/
def Part.enterHeard (p : Part) (k : Clock) (t : TreeId) (h : Nat) (cause : Cause) : Part :=
  match p.record? t h with
  | none => p
  | some r =>
    (((p.orphan t h).leavePush k t h).modRecord t h fun r =>
      { r.startUpkeep with
        state := .heard
        cause := cause
        load := none
        refind := none
        attentionMark := none
        upkeepDue := false
        check := .none }).raiseTerminal r r.state .heard cause

/-- A HEARD record whose LAG by tag was sent in cycle `c` enters ALIGNING (R91). -/
def Part.enterAligning (p : Part) (t : TreeId) (h : Nat) : Part :=
  match p.record? t h with
  | none => p
  | some r =>
    (p.modRecord t h fun r => { r with state := .aligning, cause := .lagSent }).raiseTerminal r r.state .aligning
      .lagSent

/-- A record enters LOADING with a profile 1..64 (R92): its load part is made and it joins the push queue. Its
TERMINAL notice comes before what an IDLE engine raises as it takes a record at the joining (DESIGN CHOICE,
notes/assumptions/20.md). -/
def Part.enterLoading (p : Part) (k : Clock) (t : TreeId) (h profile : Nat) (cause : Cause) : Part :=
  match p.record? t h with
  | none => p
  | some r =>
    ((p.modRecord t h fun r =>
      { r with
        state := .loading
        cause := cause
        load := some ⟨profile, .queued, 0, none⟩
        check := .none }).raiseTerminal r r.state .loading cause).joinQueue k t h

/-- An ALIGNING record is confirmed (R92): with profile 0 it enters IN_SERVICE, with any other LOADING. -/
def Part.confirm (p : Part) (k : Clock) (t : TreeId) (h : Nat) : Part :=
  match p.record? t h with
  | none => p
  | some r =>
    let profile := ((p.entry? r.tag).map (·.profile)).getD 0
    if profile == 0 then p.enterInService k t h .confirmed else p.enterLoading k t h profile .confirmed

/-- A record enters REFIND (R93). Where its push is aborted, the notices of the record that the engine then takes come before
its own (DESIGN CHOICE, notes/assumptions/20.md). -/
def Part.enterRefind (p : Part) (k : Clock) (t : TreeId) (h : Nat) (cause : Cause) : Part :=
  match p.record? t h with
  | none => p
  | some r =>
    let deadline := k.tenth + BitVec.ofNat 32 (10 * (p.tree t).settings.refindTime)
    ((((p.offer t (.relisten h)).orphan t h).leavePush k t h).modRecord t h fun r =>
      { r with
        state := .refind
        cause := cause
        load := none
        refind := some deadline
        upkeepDue := false
        check := .none }).raiseTerminal r r.state .refind cause

/-- A record enters HELD for a cause other than LOAD_FAIL and NO_PROFILE (R95): its push is aborted or dequeued too.
The notices of the record that the engine then takes come before its own (DESIGN CHOICE, notes/assumptions/20.md). -/
def Part.enterHeld (p : Part) (k : Clock) (t : TreeId) (h : Nat) (cause : Cause) : Part :=
  ((p.orphan t h).leavePush k t h).holdRecord t h cause

/-- A record enters FREE with a cause (R96). Where its push is aborted, the notices of the record that the engine then takes
come before its own (DESIGN CHOICE, notes/assumptions/20.md). -/
def Part.freeRecord (p : Part) (k : Clock) (t : TreeId) (h : Nat) (cause : Cause) : Part :=
  match p.record? t h with
  | none => p
  | some r =>
    let p := p.modEntry r.tag fun e => { e with bound := false }
    let p := ((p.withdraw t (Order.isOfFreed h)).orphan t h).leavePush k t h
    ((p.dropRecord t h).modTree t fun T => { T with turnedAway := false }).raiseTerminal r r.state .free cause

/-- The refind deadline of a REFIND record has been reached (R94): the tenth count is at the deadline or past it. -/
def Record.deadlineReached (r : Record) (tenth : Tenth) : Bool :=
  match r.refind with
  | some d => r.state == .refind && tenthsSince tenth d < 2147483648
  | none => false

/-! ### Taking a hello -/

/-- The unclaimed entry that a new tag displaces (R73): the one whose tenth last heard is furthest behind the current
tenth count, and of several the one nearest the head. -/
def oldestUnclaimed (tenth : Tenth) : List UnclaimedEntry → Option UnclaimedEntry
  | [] => none
  | e :: rest =>
    match oldestUnclaimed tenth rest with
    | none => some e
    | some e' => if tenthsSince tenth e.lastHeard < tenthsSince tenth e'.lastHeard then some e' else some e

/-- A hello of a tag that is not admitted (R73, case 1 of R83). -/
def Part.hearUnclaimed (p : Part) (k : Clock) (t : TreeId) (m : Measured) : Part :=
  if p.unclaimedTags.any (·.tag == m.tag) then
    { p with
      unclaimedTags := p.unclaimedTags.map fun e =>
        if e.tag == m.tag then { e with tree := t, maker := m.maker, lastHeard := k.tenth, times := min 255 (e.times + 1) }
        else e }
  else
    let displaced :=
      if p.unclaimedTags.length < Config.maxUnclaimed then none
      else (oldestUnclaimed k.tenth p.unclaimedTags).map (·.tag)
    let kept : List UnclaimedEntry :=
      match displaced with
      | none => p.unclaimedTags
      | some g => p.unclaimedTags.filter (·.tag != g)
    let entry : UnclaimedEntry := ⟨m.tag, t, m.maker, k.tenth, k.tenth, 1⟩
    ({ p with unclaimedTags := kept ++ [entry] }).raise
      (.unclaimed t m.tag m.maker k.tenth displaced)

/-- A hello that case 2 ignores (R84): a HELD record counts it. -/
def Part.hearIgnored (p : Part) (g : Tag) : Part :=
  match p.recordOf? g with
  | none => p
  | some r =>
    if r.state == .held then
      p.modRecord r.tree r.handle fun r => { r with held := r.held.map fun n => min 255 (n + 1) }
    else p

/-- A hello of an admitted tag on a tree that its entry does not allow (R68, case 3). -/
def Part.hearWrongTree (p : Part) (k : Clock) (t : TreeId) (m : Measured) (e : AdmitEntry) : Part :=
  let q := p.modEntry m.tag fun e => { e with sighting := some (t, k.tenth) }
  match e.sighting with
  | some (u, _) => if u == t then q else q.raise (.wrongTree t m.tag e.mask m.maker k.tenth)
  | none => q.raise (.wrongTree t m.tag e.mask m.maker k.tenth)

/-- The record `r` becomes HELD DUPLICATE with its entry's conflict mark set and its LAG orders withdrawn (R85, R86,
R95). -/
def Part.holdDuplicate (p : Part) (k : Clock) (r : Record) : Part :=
  let p := p.enterHeld k r.tree r.handle .duplicate
  (p.modEntry r.tag fun e => { e with conflict := true }).withdraw r.tree (Order.isLag r.handle)

/-- A tag heard twice in one window (R85, case 4). -/
def Part.hearDuplicate (p : Part) (k : Clock) (t : TreeId) (r : Record) : Part :=
  (p.holdDuplicate k r).offer t (.standdown r.tag)

/-- A FAR hello of a bound record (R89, case 6): it becomes HELD OUT_OF_REACH with lag 0. -/
def Part.holdOutOfReach (p : Part) (k : Clock) (t : TreeId) (h : Nat) (m : Measured) : Part :=
  (p.enterHeld k t h .outOfReach).modRecord t h fun r =>
    { r with lag := 0, lastRtt := m.rtt, heardWindow := some m.number }

/-- The cause of a re-entry to HEARD (R87). -/
def reheardCause : RecState → Cause
  | .loading | .inService => .rejoin
  | .refind => .refound
  | .heard | .aligning | .held | .free => .reheard

/-- A hello of a record bound on the same tree (R87, R89, case 6). -/
def Part.hearBound (p : Part) (k : Clock) (t : TreeId) (m : Measured) (r : Record) : Part :=
  if m.cls == .far then p.holdOutOfReach k t r.handle m
  else
    let p := p.modRecord t r.handle fun r =>
      { r with lag := m.lag, lastRtt := m.rtt, maker := m.maker, heardWindow := some m.number }
    (p.offer t (.lagByTag m.tag r.handle (m.lag / 4))).enterHeard k t r.handle (reheardCause r.state)

/-- A record as a hello makes it (R78, R79, R88, R172). -/
def newRecord (t : TreeId) (h : Nat) (m : Measured) (state : RecState) (cause : Cause) : Record where
  state := state
  tree := t
  handle := h
  tag := m.tag
  maker := m.maker
  lag := m.lag
  lastRtt := m.rtt
  cause := cause
  heardWindow := some m.number
  lagSentCycle := none
  level := 0
  missCount := 0
  errorCount := 0
  impaired := false
  attention := false
  checkAttempts := 0
  lastUpkeepGrant := 0
  nudgePending := none
  lagUnsent := false
  reports := ⟨.empty, .empty, .empty⟩
  load := none
  refind := none
  held := if state == .held then some 0 else none
  polls := ⟨⟨none, none⟩, ⟨none, none⟩, ⟨none, none⟩⟩
  attentionMark := none
  upkeepDue := false
  check := .none

/-- The handles of a tree that are reserved (R82). -/
def Part.reservedCount (p : Part) (t : TreeId) : Nat := (allHandles.filter (p.reserved t)).length

/-- A hello turned away for want of room (R88). -/
def Part.turnAway (p : Part) (t : TreeId) (m : Measured) : Part :=
  let q := p.modCounters t fun c => { c with turnedAway := c.turnedAway + 1 }
  if (p.tree t).turnedAway then q
  else
    let reason := if Config.maxRecords ≤ p.records.length then FullReason.table else .handles
    (q.modTree t fun T => { T with turnedAway := true }).raise
      (.tableFull t m.tag reason p.records.length (p.recordsOf t).length (p.reservedCount t))

/-- A record is made (R88, R89): its entry becomes bound and loses its sighting (R66, R68). -/
def Part.makeRecord (p : Part) (t : TreeId) (h : Nat) (m : Measured) : Part :=
  let p := p.modEntry m.tag fun e => { e with bound := true, sighting := none }
  if m.cls == .far then
    let r := newRecord t h { m with lag := 0 } .held .outOfReach
    ({ p with records := insertRecord r p.records }).raiseTerminal r .free .held .outOfReach
  else
    let r := newRecord t h m .heard .new
    let p := { p with records := insertRecord r p.records }
    (p.offer t (.lagByTag m.tag h (m.lag / 4))).raiseTerminal r .free .heard .new

/-- A hello of an unbound admitted tag (R88, case 7). -/
def Part.hearNew (p : Part) (t : TreeId) (m : Measured) : Part :=
  if Config.maxRecords ≤ p.records.length then p.turnAway t m
  else
    match p.freeHandle t with
    | none => p.turnAway t m
    | some h => p.makeRecord t h m

/-- A hello of a tag bound on another tree (R86, case 5). -/
def Part.hearOtherTree (p : Part) (k : Clock) (t : TreeId) (m : Measured) (r : Record) : Part :=
  if r.state == .refind then (p.freeRecord k r.tree r.handle .moved).hearNew t m
  else ((p.holdDuplicate k r).offer t (.standdown r.tag)).offer r.tree (.standdown r.tag)

/-- The activation controller takes a measured hello on tree `t`: the first of the seven cases that fits (R83). -/
def Part.takeHello (p : Part) (k : Clock) (t : TreeId) (m : Measured) : Part :=
  match p.entry? m.tag with
  | none => p.hearUnclaimed k t m
  | some e =>
    let bound := p.recordOf? m.tag
    if e.conflict || bound.any (·.state == .held) then p.hearIgnored m.tag
    else if !inMask e.mask t then p.hearWrongTree k t m e
    else
      match bound with
      | some r =>
        if r.tree == t && r.heardWindow == some m.number then p.hearDuplicate k t r
        else if r.tree != t then p.hearOtherTree k t m r
        else p.hearBound k t m r
      | none => p.hearNew t m

end Sys2Proof.Machine
end

