-- ==== Sys2Proof/Machine/Reports.lean ====
section
/-!
DEFINITION. Machine/Reports.lean: the report table, the poll schedule, the report store and its ageing (chapter 10).
-/

namespace Sys2Proof.Machine

/-- The three report slots in their order. -/
def allSlots : List ReportSlot := [.a, .b, .c]

/-- A slot of the report table is on while its kind code is not 0 (R164). -/
def TableSlot.on (s : TableSlot) : Bool := s.kind != 0

/-- The stale limit of a slot: its stale multiple times its interval (R164). -/
def TableSlot.staleLimit (s : TableSlot) : Nat := s.multiple * s.interval

/-- The upkeep unit tells the poller of a rise of the attention flag (R169): the attention mark is set, and slot A's due
mark too when the slot is on. A mark already set keeps the cycle of its rise (notes/assumptions/21.md). -/
def Record.attentionRise (r : Record) (table : PerSlot TableSlot) (c : CycleNo) : Record :=
  { r with
    attentionMark := some (r.attentionMark.getD c)
    polls :=
      if table.a.on && r.polls.a.due.isNone then { r.polls with a := { r.polls.a with due := some c } } else r.polls }

/-- A POLL grant for slot `x` (R168): the last poll tenth is set, the due mark cleared, and for slot A the attention mark
too. -/
def Record.pollGranted (r : Record) (x : ReportSlot) (tenth : Tenth) : Record :=
  { r with
    polls := r.polls.set x ⟨some tenth, none⟩
    attentionMark := if x == .a then none else r.attentionMark }

/-- Whether a slot of a record is due (R167). -/
def Record.slotDue (r : Record) (table : PerSlot TableSlot) (x : ReportSlot) : Option CycleNo :=
  if r.state == .inService && (table.get x).on then (r.polls.get x).due else none

/-- Of two named slots the one due longer, the first of equals (R167). -/
def longerDue (c : CycleNo) (s s' : Option (ReportSlot × CycleNo)) : Option (ReportSlot × CycleNo) :=
  match s, s' with
  | none, _ => s'
  | _, none => s
  | some (_, d), some (_, d') => if cyclesSince c d < cyclesSince c d' then s' else s

/-- The slot that the poller names to the arbiter, with its due since cycle (R167). -/
def Record.namedSlot (r : Record) (table : PerSlot TableSlot) (c : CycleNo) : Option (ReportSlot × CycleNo) :=
  let one x := (r.slotDue table x).map fun d => (x, d)
  longerDue c (longerDue c (one .a) (one .b)) (one .c)

/-- A POLL outcome as the poller takes it (R168). -/
inductive PollOutcome where
  | bad
  | answered (kind : Byte) (data : List Byte)
deriving DecidableEq, Repr

/-- The poller takes a POLL outcome for slot `x`, whose grant carried `polled` (R168). One that was not answered makes
the slot due since the present cycle, slot A with its attention mark set too (DESIGN CHOICE, notes/assumptions/49.md). -/
def Record.pollOutcome (r : Record) (table : PerSlot TableSlot) (c : CycleNo) (x : ReportSlot) (polled : Byte)
    (o : PollOutcome) : Record :=
  match o with
  | .answered kind data =>
    if (table.get x).kind == polled && kind == polled && (r.state == .inService || r.state == .loading) then
      { r with reports := r.reports.set x ⟨true, kind, data, 0, false⟩ }
    else r
  | .bad =>
    if r.state == .inService then { r with polls := r.polls.set x { r.polls.get x with due := some c } } else r

/-- Whether a stored report ages: valid, its table slot on (R170). -/
def StoredReport.ages (s : StoredReport) (slot : TableSlot) : Bool := s.valid && slot.on

/-- The age of a report at a tenth boundary (R170). -/
def StoredReport.grow (s : StoredReport) (slot : TableSlot) : StoredReport :=
  if s.ages slot then { s with age := min 65535 (s.age + 1) } else s

/-- The reports of an IN_SERVICE record age at a tenth boundary (R170). -/
def Record.ageReports (r : Record) (table : PerSlot TableSlot) : Record :=
  if r.state == .inService then
    { r with
      reports := ⟨r.reports.a.grow table.a, r.reports.b.grow table.b, r.reports.c.grow table.c⟩ }
  else r

/-- Whether a stored report of an IN_SERVICE record has reached its stale limit, its stale mark clear (R170). -/
def Record.staleDue (r : Record) (table : PerSlot TableSlot) (x : ReportSlot) : Bool :=
  let s := r.reports.get x
  r.state == .inService && s.ages (table.get x) && !s.stale && (table.get x).staleLimit ≤ s.age

/-- The stale test of one slot of one record (R170): the stale mark is set, a STALE notice is raised, and the valid mark
clears when the table slot's clear-on-stale flag is set. -/
def Part.staleTest (p : Part) (t : TreeId) (h : Nat) (x : ReportSlot) : Part :=
  match p.record? t h with
  | none => p
  | some r =>
    if r.staleDue p.reportTable x then
      let clear := (p.reportTable.get x).clearOnStale
      let s := r.reports.get x
      (p.modRecord t h fun r =>
        { r with reports := r.reports.set x { s with stale := true, valid := !clear } }).raise
        (.stale t h r.tag x s.kind s.age clear)
    else p

/-- The poll due test of a tenth boundary for one slot (R167). -/
def Record.pollDueTest (r : Record) (table : PerSlot TableSlot) (k : Clock) (x : ReportSlot) : Record :=
  let s := r.polls.get x
  match s.due, s.lastPoll with
  | none, some l =>
    if r.state == .inService && (table.get x).on && (table.get x).interval ≤ tenthsSince k.tenth l then
      { r with polls := r.polls.set x { s with due := some k.cycle } }
    else r
  | _, _ => r

/-- A slot of a record as a change of the table slot's kind code leaves it (R165, R167, R169): turned on, slot A of a record
with an attention mark falls due since the cycle of the rise, but since the present cycle in IN_SERVICE (R167,
notes/assumptions/21.md). -/
def Record.slotRekinded (r : Record) (x : ReportSlot) (on : Bool) (c : CycleNo) : Record :=
  let kept := (r.polls.get x).due
  let due :=
    if !on then none
    else if r.state == .inService then some c
    else if x == .a && kept.isNone then r.attentionMark
    else kept
  { r with
    reports := r.reports.set x .empty
    polls := r.polls.set x ⟨none, due⟩ }

/-- A slot of the report table is set (R165). -/
def Part.setTableSlot (p : Part) (k : Clock) (x : ReportSlot) (s : TableSlot) : Part :=
  let changed := (p.reportTable.get x).kind != s.kind
  let p := { p with reportTable := p.reportTable.set x s }
  if changed then { p with records := p.records.map fun r => r.slotRekinded x s.on k.cycle } else p

end Sys2Proof.Machine
end

