-- ==== Sys2Proof/Machine/Upkeep.lean ====
section
/-!
DEFINITION. Machine/Upkeep.lean: the counting of outcomes, CHECK and UPKEEP (chapter 8).
-/

namespace Sys2Proof.Machine

/-- An outcome of an expectation (R117), with what the upkeep unit and the purpose's owner need: the error e in steps,
the attention flag, and the reply's body. An ERRORED outcome carries the attention flag of a valid reply of the wrong
kind (R127). -/
inductive MatchOutcome where
  | answered (e : Int) (attention : Bool) (body : ReplyBody)
  | errored (attention : Option Bool)
  | missed
  | lapsed
deriving DecidableEq, Repr

/-- A HEALTH notice of a record, with the error count it reports (R128). -/
def Part.raiseHealth (p : Part) (k : Clock) (t : TreeId) (h : Nat) (event : HealthEvent) (errors : Nat) : Part :=
  match p.record? t h with
  | none => p
  | some r => p.raise (.health t h r.tag event r.state r.level r.missCount errors r.attention k.tenth)

/-- The record's attention flag takes the value a reply carries (R127). -/
def Part.takeAttention (p : Part) (k : Clock) (t : TreeId) (h : Nat) (flag : Bool) : Part :=
  match p.record? t h with
  | none => p
  | some r =>
    let q := p.modRecord t h fun r => { r with attention := flag }
    if flag && !r.attention then
      (q.raiseHealth k t h .attention r.errorCount).modRecord t h fun r => r.attentionRise p.reportTable k.cycle
    else q

/-- A clean reply is counted (R123). The test of R146 for a waiting record that recovers is made at the end of the outcome
(`Part.takeOutcome`). -/
def Part.countClean (p : Part) (k : Clock) (t : TreeId) (h : Nat) : Part :=
  match p.record? t h with
  | none => p
  | some r =>
    let q := p.modRecord t h fun r => { r with missCount := 0 }
    if r.impaired && (p.tree t).settings.errorLimit ≤ r.errorCount then
      (q.modRecord t h fun r => { r with impaired := false, errorCount := 0 }).raiseHealth k t h .recovered r.errorCount
    else q

/-- A miss is counted (R124): a LOADING or IN_SERVICE record at miss_limit enters REFIND. -/
def Part.countMiss (p : Part) (k : Clock) (t : TreeId) (h : Nat) : Part :=
  match p.record? t h with
  | none => p
  | some r =>
    let limit := (p.tree t).settings.missLimit
    let n := if limit ≤ r.missCount then r.missCount else r.missCount + 1
    let q := p.modRecord t h fun r => { r with missCount := n }
    if (r.state == .loading || r.state == .inService) && limit ≤ n then q.enterRefind k t h .misses else q

/-- An errored reply is counted (R125): the record may become IMPAIRED, at level 3. -/
def Part.countErrored (p : Part) (k : Clock) (t : TreeId) (h : Nat) : Part :=
  match p.record? t h with
  | none => p
  | some r =>
    let limit := (p.tree t).settings.errorLimit
    let n := if limit ≤ r.errorCount then r.errorCount else r.errorCount + 1
    let q := p.modRecord t h fun r => { r with errorCount := n }
    if limit != 0 && limit ≤ n && !r.impaired then
      (q.modRecord t h fun r => { r with impaired := true, level := 3 }).raiseHealth k t h .impaired n
    else q

/-- An outcome is counted against the record (R122 to R127); LAPSED is not counted (R126). The attention flag of a reply of
the wrong kind is taken after R125, as R123 orders it for a clean reply: a HEALTH notice IMPAIRED shows the flag that the
record had before (DESIGN CHOICE, notes/assumptions/45.md). -/
def Part.countOutcome (p : Part) (k : Clock) (t : TreeId) (h : Nat) : MatchOutcome → Part
  | .answered _ flag _ => (p.countClean k t h).takeAttention k t h flag
  | .errored none => p.countErrored k t h
  | .errored (some flag) => (p.countErrored k t h).takeAttention k t h flag
  | .missed => p.countMiss k t h
  | .lapsed => p

/-- The correction of e: the multiple of 4 nearest to e, halves toward zero (R130). -/
def correctionOf (e : Int) : Int :=
  let m : Int := ((4 * ((e.natAbs + 1) / 4) : Nat) : Int)
  if e < 0 then -m else m

/-- A lag less a correction, brought into 0..D (R130, R134). -/
def correctedLag (lag : Nat) (c : Int) (depth : Nat) : Nat := (clampInt 0 depth ((lag : Int) - c)).toNat

/-- The record's lag becomes a new one, and when it differs a LAG by handle is offered (R130, R134). -/
def Part.moveLag (p : Part) (t : TreeId) (r : Record) (lag : Nat) : Part :=
  if lag == r.lag then p
  else (p.modRecord t r.handle fun r => { r with lag := lag }).offer t (.lagByHandle r.handle (lag / 4))

/-- A CHECK that did not confirm is counted; at 4 the record enters REFIND (R131). -/
def Part.checkFailed (p : Part) (k : Clock) (t : TreeId) (h : Nat) : Part :=
  match p.record? t h with
  | none => p
  | some r =>
    let q := p.modRecord t h fun r => { r with checkAttempts := r.checkAttempts + 1 }
    if 4 ≤ r.checkAttempts + 1 then q.enterRefind k t h .checkFail else q

/-- An answered CHECK is judged (R129, R130). -/
def Part.judgeCheck (p : Part) (k : Clock) (t : TreeId) (h : Nat) (grant : CycleNo) (e : Int) : Part :=
  match p.record? t h with
  | none => p
  | some r =>
    let s := (p.tree t).settings
    if e.natAbs ≤ s.alignTolerance then
      (p.modRecord t h fun r =>
        { r with level := if r.impaired then 3 else 2, lastUpkeepGrant := grant }).confirm k t h
    else if e.natAbs ≤ s.driftLimit then
      (p.moveLag t r (correctedLag r.lag (correctionOf e) s.reachDepth)).checkFailed k t h
    else p.enterRefind k t h .drift

/-- The ladder level after an answered UPKEEP (R132). -/
def ladderAfter (s : Settings) (r : Record) (e : Int) : Nat :=
  if r.impaired then 3
  else if s.raiseThreshold < e.natAbs then min 3 (r.level + 1)
  else if e.natAbs < s.lowerThreshold then r.level - 1
  else r.level

/-- Whether a grant cycle is later than the nudge-pending mark + 1, the mark present (R135). -/
def laterThanMark (grant : CycleNo) (mark : CycleNo) : Bool :=
  2 ≤ cyclesSince grant mark && cyclesSince grant mark ≤ 32767

/-- An answered UPKEEP is judged (R132 to R135): the ladder, the drift test, the nudge, and the nudge-pending mark. -/
def Part.judgeUpkeep (p : Part) (k : Clock) (t : TreeId) (h : Nat) (grant : CycleNo) (e : Int) : Part :=
  match p.record? t h with
  | none => p
  | some r =>
    let s := (p.tree t).settings
    let p := p.modRecord t h fun r => { r with level := ladderAfter s r e }
    if s.driftLimit < e.natAbs then p.enterRefind k t h .drift
    else
      let free := r.nudgePending.all (laterThanMark grant)
      let q :=
        if !p.hasOrder t (Order.isLag h) && free && s.deadband < e.natAbs then
          let nudge := clampInt (-(s.slew : Int)) s.slew e
          p.moveLag t r (correctedLag r.lag (correctionOf nudge) s.reachDepth)
        else p
      if free then q.modRecord t h fun r => { r with nudgePending := none } else q

/-- A MISSED or ERRORED UPKEEP raises the ladder level (R136). -/
def Part.raiseLadder (p : Part) (t : TreeId) (h : Nat) : Part :=
  p.modRecord t h fun r => { r with level := if r.impaired then 3 else min 3 (r.level + 1) }

/-- The reply of a granted CHECK has been judged: the record may be a candidate again (R109). -/
def Record.checkJudged (r : Record) : Record :=
  if r.check == .granted then { r with check := .afterReply } else r

/-- The owner of a CHECK takes its outcome (R129 to R131, R126). -/
def Part.checkOutcome (p : Part) (k : Clock) (t : TreeId) (h : Nat) (grant : CycleNo) (o : MatchOutcome) : Part :=
  let p := p.modRecord t h Record.checkJudged
  match o with
  | .answered e _ _ => p.judgeCheck k t h grant e
  | .errored _ | .missed => p.checkFailed k t h
  | .lapsed => p

/-- The owner of an UPKEEP takes its outcome (R132 to R136, R126). -/
def Part.upkeepOutcome (p : Part) (k : Clock) (t : TreeId) (h : Nat) (grant : CycleNo) (o : MatchOutcome) : Part :=
  match o with
  | .answered e _ _ => p.judgeUpkeep k t h grant e
  | .errored _ | .missed => p.raiseLadder t h
  | .lapsed => p

end Sys2Proof.Machine
end

