-- ==== Sys2Proof/Machine/Flags.lean ====
section
/-!
DEFINITION. Machine/Flags.lean: the codes of the enumerated fields and the mark bytes that frames and cells carry
(2.7, 12.6, 12.10).
-/

namespace Sys2Proof.Machine

/-- Record state (12.10). -/
def RecState.code : RecState → Nat
  | .free => 0
  | .heard => 1
  | .aligning => 2
  | .loading => 3
  | .inService => 4
  | .refind => 5
  | .held => 6

/-- Cause (12.10). -/
def Cause.code : Cause → Nat
  | .new => 1
  | .reheard => 2
  | .rejoin => 3
  | .refound => 4
  | .lagSent => 5
  | .confirmed => 6
  | .loaded => 7
  | .misses => 8
  | .drift => 9
  | .checkFail => 10
  | .gone => 11
  | .moved => 12
  | .byRequest => 13
  | .outOfReach => 14
  | .duplicate => 15
  | .loadFail => 16
  | .noProfile => 17
  | .stoodDown => 18

/-- Purpose of a grant (R20). -/
def Purpose.code : Purpose → Nat
  | .check => 1
  | .upkeep => 2
  | .loadStatus => 3
  | .poll => 4

/-- Hello class (12.10). -/
def HelloClass.code : HelloClass → Nat
  | .negative => 0
  | .near => 1
  | .inReach => 2
  | .far => 3

/-- Load sub-state (12.10). -/
def SubState.code : SubState → Nat
  | .queued => 1
  | .preparing => 2
  | .settling => 3
  | .streaming => 4
  | .committing => 5

/-- Source, none 0 (12.10). -/
def sourceCode : Option Source → Nat
  | none => 0
  | some .internal => 1
  | some .external => 2
  | some .streamed => 3
  | some .default => 4

/-- Internal slot state (12.10). -/
def SlotState.code : SlotState → Nat
  | .empty => 0
  | .writing => 1
  | .ready => 2

/-- HEALTH event (12.10). -/
def HealthEvent.code : HealthEvent → Nat
  | .impaired => 1
  | .recovered => 2
  | .attention => 3

/-- PUSH-FAIL reason (12.10). -/
def FailReason.code : FailReason → Nat
  | .noReady => 1
  | .stall => 2
  | .protocol => 3
  | .lost => 4
  | .terminal => 5
  | .noCommit => 6
  | .storeFault => 7

/-- TABLE-FULL reason (12.10). -/
def FullReason.code : FullReason → Nat
  | .table => 1
  | .handles => 2

/-- Reset kind (12.10). -/
def ResetKind.code : ResetKind → Nat
  | .powerOn => 1
  | .soft => 2

/-- Start-up result (12.10). -/
def StartResult.code : StartResult → Nat
  | .loaded => 0
  | .defaulted => 1
  | .fault => 2
  | .noDevice => 3

/-- STORE-DONE result (12.10). -/
def SaveResult.code : SaveResult → Nat
  | .ok => 0
  | .noDevice => 1
  | .writeFail => 2

/-- Status codes of a reply (R182). -/
def Status.code : Status → Nat
  | .ok => 0
  | .busy => 1
  | .unknown => 2
  | .badLength => 3
  | .badField => 4
  | .notFound => 5
  | .inUse => 6
  | .full => 7
  | .wrongState => 8
  | .noDevice => 9

/-- Report slot: A 1, B 2, C 3 (12.10). -/
def slotCode : ReportSlot → Nat
  | .a => 1
  | .b => 2
  | .c => 3

/-- The report slot of a code, or none (12.10). -/
def reportSlotOf : Nat → Option ReportSlot
  | 1 => some .a
  | 2 => some .b
  | 3 => some .c
  | _ => none

/-- The tree setting fallback: USE_DEFAULT 0, HOLD 1 (1.8). -/
def Fallback.code : Fallback → Int
  | .useDefault => 0
  | .hold => 1

/-- A byte with the bits of three marks: the first in bit 0 (12.10). -/
def markByte (b0 b1 b2 : Bool) : Byte :=
  (if b0 then 1#8 else 0) ||| (if b1 then 2#8 else 0) ||| (if b2 then 4#8 else 0)

/-- Guard factors: STRAY 1 + DARK 2 + STORM 4 (12.10). -/
def Factors.code (f : Factors) : Byte := markByte f.stray f.dark f.storm

/-- The flags byte of a reply or notice frame: bit 0 the notices-lost mark it carries, bit 1 the state of ATTN when its
sync byte is sent (R182). -/
def frameFlags (lost attn : Bool) : Byte := markByte lost attn false

/-- Record marks: IMPAIRED 1 + attention 2 + lag-unsent 4 (12.10). -/
def Record.marks (r : Record) : Byte := markByte r.impaired r.attention r.lagUnsent

/-- Report marks: valid 1 + stale 2 (12.10). -/
def StoredReport.marks (s : StoredReport) : Byte := markByte s.valid s.stale false

/-- Schedule marks: last poll present 1 + due 2 + attention 4, the attention bit 0 for slots B and C (12.10). -/
def Record.scheduleMarks (r : Record) (x : ReportSlot) : Byte :=
  let s := r.polls.get x
  markByte s.lastPoll.isSome s.due.isSome (x == .a && r.attentionMark.isSome)

/-- Entry marks: bound 1 + conflict 2 + sighting present 4 (12.10). -/
def AdmitEntry.marks (e : AdmitEntry) : Byte := markByte e.bound e.conflict e.sighting.isSome

end Sys2Proof.Machine
end

