-- ==== Sys2Proof/Machine/Settings.lean ====
section
/-!
DEFINITION. Machine/Settings.lean: the settings record of a tree as fields by id, what may be stored in it, and what
storing a field does (1.8, R17).
-/

namespace Sys2Proof.Machine

/-- The set of factors of a guard_mask value 0..7: STRAY 1, DARK 2, STORM 4 (field 23). -/
def factorsOf (v : Int) : Factors := ⟨v % 2 == 1, v / 2 % 2 == 1, v / 4 % 2 == 1⟩

/-- The value of a set of factors. -/
def Factors.value (f : Factors) : Int := f.code.toNat

/-- An off or on setting as a value. -/
def onOff (b : Bool) : Int := if b then 1 else 0

/-- Whether a value is a bad enumerated value of a field (1.8): fields 5, 6, 7, 22, 23 and 28 are enumerated. -/
def badEnum (id : Nat) (v : Int) : Bool :=
  match id with
  | 5 => !(v == 8 || v == 16 || v == 32 || v == 64)
  | 6 | 7 | 22 | 28 => !(v == 0 || v == 1)
  | 23 => v < 0 || 7 < v
  | _ => false

/-- A pair of a TREE-SET that is refused whatever the tree (R17, step 1). -/
def badPair (id : Nat) (v : Int) : Bool := id < 1 || 28 < id || badEnum id v

/-- A value rounded down to a multiple of 4. -/
def downTo4 (v : Int) : Int := v / 4 * 4

/-- A value brought into the range of its field (1.8); the ranges of fields 11 and 13 are taken from the record `s`. -/
def clampField (s : Settings) (id : Nat) (v : Int) : Int :=
  match id with
  | 1 => downTo4 (clampInt 20000 250000 v)
  | 2 => clampInt (-8192) 8191 v
  | 3 => clampInt 1 4 v
  | 4 => clampInt 16 65535 v
  | 8 => clampInt 16 1024 v
  | 9 => clampInt 0 256 v
  | 10 => clampInt 4 1024 v
  | 11 => clampInt 0 s.raiseThreshold v
  | 12 => downTo4 (clampInt 4 4096 v)
  | 13 => clampInt s.alignTolerance 2048 v
  | 14 | 16 | 17 | 19 | 20 | 26 | 27 => clampInt 1 255 v
  | 15 => clampInt 0 255 v
  | 18 => clampInt 0 1023 v
  | 21 => clampInt 0 7 v
  | 24 => clampInt 1 16 v
  | 25 => clampInt 8 4096 v
  | _ => v

/-- Stores a value that is in range in a field (R17), with the two fields that another field moves: lower_threshold
stays at most raise_threshold, drift_limit at least align_tolerance. -/
def putField (s : Settings) (id : Nat) (v : Int) : Settings :=
  let n := v.toNat
  match id with
  | 1 => { s with reachDepth := n }
  | 2 => { s with treeOffset := v }
  | 3 => { s with slotsPerCycle := n }
  | 4 => { s with windowInterval := n }
  | 5 => { s with spreadMin := n }
  | 6 => { s with windowSummaries := v == 1 }
  | 7 => { s with rawStamps := v == 1 }
  | 8 => { s with alignTolerance := n, driftLimit := max s.driftLimit n }
  | 9 => { s with deadband := n }
  | 10 => { s with raiseThreshold := n, lowerThreshold := min s.lowerThreshold n }
  | 11 => { s with lowerThreshold := n }
  | 12 => { s with slew := n }
  | 13 => { s with driftLimit := n }
  | 14 => { s with missLimit := n }
  | 15 => { s with errorLimit := n }
  | 16 => { s with refindTime := n }
  | 17 => { s with prepareTimeout := n }
  | 18 => { s with settleCycles := n }
  | 19 => { s with commitTimeout := n }
  | 20 => { s with stallLimit := n }
  | 21 => { s with pushRetries := n }
  | 22 => { s with fallback := if v == 0 then .useDefault else .hold }
  | 23 => { s with guardMask := factorsOf v }
  | 24 => { s with strayThreshold := n }
  | 25 => { s with darkCycles := n }
  | 26 => { s with stormThreshold := n }
  | 27 => { s with resumeDelay := n }
  | 28 => { s with autoStart := v == 1 }
  | _ => s

/-- A value is clamped to its range and stored (R17). -/
def storeField (s : Settings) (id : Nat) (v : Int) : Settings := putField s id (clampField s id v)

/-- Pairs are stored in the order given (R17). -/
def storePairs (s : Settings) (pairs : List (Nat × Int)) : Settings :=
  pairs.foldl (fun s q => storeField s q.1 q.2) s

/-- The values of fields 1 to 28 in id order (1.8). -/
def Settings.values (s : Settings) : List Int :=
  [s.reachDepth, s.treeOffset, s.slotsPerCycle, s.windowInterval, s.spreadMin, onOff s.windowSummaries,
   onOff s.rawStamps, s.alignTolerance, s.deadband, s.raiseThreshold, s.lowerThreshold, s.slew, s.driftLimit,
   s.missLimit, s.errorLimit, s.refindTime, s.prepareTimeout, s.settleCycles, s.commitTimeout, s.stallLimit,
   s.pushRetries, s.fallback.code, s.guardMask.value, s.strayThreshold, s.darkCycles, s.stormThreshold, s.resumeDelay,
   onOff s.autoStart]

/-- The settings record as TREE-SET, TREE-GET and the settings block carry it: fields 1 to 28 in id order, each a
4-byte signed value (12.8, 12.10). -/
def Settings.bytes (s : Settings) : List Byte := (s.values.map (beInt 4)).flatten

/-- The stored value of field 1, 2 or 3 as a TREE-SET compares it (R17, step 2). -/
def lockedField (s : Settings) (id : Nat) : Option Int :=
  match id with
  | 1 => some s.reachDepth
  | 2 => some s.treeOffset
  | 3 => some s.slotsPerCycle
  | _ => none

/-- Whether a pair would change a disabled only field of a record (R17, step 2). -/
def changesLocked (s : Settings) (q : Nat × Int) : Bool :=
  match lockedField s q.1 with
  | some v => clampField s q.1 q.2 != v
  | none => false

/-- A stored field is applied at start-up (R189): a bad enumerated value leaves the field as it is. -/
def applyField (s : Settings) (id : Nat) (v : Int) : Settings := if badEnum id v then s else storeField s id v

/-- A stored tree record is applied field by field in id order (R189). -/
def applyValues (s : Settings) (vs : List Int) : Settings :=
  ((List.range 28).zip vs).foldl (fun s q => applyField s (q.1 + 1) q.2) s

end Sys2Proof.Machine
end

