-- ==== Sys2Proof/Machine/Operands.lean ====
section
/-!
DEFINITION. Machine/Operands.lean: the bytes of headers, cells and frames: what a request's body names, what a reply
cell carries, what the part puts on a tree and on the link (chapters 2 and 12).
-/

namespace Sys2Proof.Machine

/-! ### Downstream: headers and cells (2.3, 2.7) -/

/-- A grant entry of 4 bytes (2.7). -/
def GrantEntry.bytes (g : GrantEntry) : List Byte :=
  [byte g.handle, byte ((g.purpose.map Purpose.code).getD 0), g.kind, 0]

/-- A cycle header (R20), with its CRC-16. -/
def Header.bytes (h : Header) : List Byte :=
  withCrc16 (be 2 h.cycle.toNat
    ++ (match h.call with
        | some c => [1#8, c.number, byte c.spread]
        | none => [0#8, 0#8, 0#8])
    ++ [byte h.entries.length] ++ (h.entries.map GrantEntry.bytes).flatten)

/-- A downstream cell: kind, handle, a body of 44 bytes and CRC-16 (R22). -/
def cellOf (kind : Byte) (handle : Nat) (body : List Byte) : List Byte :=
  withCrc16 ([kind, byte handle] ++ padTo 44 body)

/-- The cell of an order (R23 to R28, R30). -/
def Order.bytes : Order → List Byte
  | .lagByTag g h lag4 => cellOf 0x21#8 0 (tagBytes g ++ [byte h] ++ be 2 lag4)
  | .lagByHandle h lag4 => cellOf 0x22#8 h (be 2 lag4)
  | .relisten h => cellOf 0x23#8 h []
  | .standdown g => cellOf 0x24#8 0 (tagBytes g)
  | .lift g => cellOf 0x25#8 0 (tagBytes g)
  | .prepare h n profile => cellOf 0x31#8 h (be 2 n ++ [byte profile])
  | .commit h crc => cellOf 0x33#8 h (be 4 crc.toNat)

/-- A cell of the control field (R22, R29). -/
def Cell.bytes : Cell → List Byte
  | .fill => cellOf 0 0 []
  | .order o => o.bytes
  | .load h offset data => cellOf 0x32#8 h (be 2 offset ++ [byte data.length] ++ padTo 40 data)

/-! ### Upstream: reply cells (2.5, 2.7) -/

/-- The bytes of a field of a cell or frame. -/
def fieldAt (bs : List Byte) (offset size : Nat) : List Byte := (bs.drop offset).take size

/-- The number in a field. -/
def numAt (bs : List Byte) (offset size : Nat) : Nat := fromBe (fieldAt bs offset size)

/-- The byte at an offset, 0 past the end. -/
def byteAt (bs : List Byte) (offset : Nat) : Byte := bs[offset]?.getD 0

/-- The status and value of a LOAD-STATUS reply (R34). -/
def loadStatusOf (status value : Nat) : LoadStatus :=
  match status with
  | 0 => .notReady
  | 1 => .ready
  | 2 => .receiving value
  | 3 => .done
  | 4 => .fail (value % 256)
  | _ => .fail 0

/-- The body fields of a reply kind (R32 to R35), or none for a kind that is no reply kind (R12). -/
def replyBodyOf (kind : Byte) (cell : List Byte) : Option ReplyBody :=
  if kind == 0x41#8 then
    some (.hello (byteAt cell 3) (byteAt cell 4).toNat (tagOf (fieldAt cell 5 8))
      (BitVec.ofNat 32 (numAt cell 13 4)))
  else if kind == 0x42#8 then some .echo
  else if kind == 0x43#8 then some (.loadStatus (loadStatusOf (byteAt cell 3).toNat (numAt cell 4 2)))
  else if kind == 0x44#8 then
    some (.report (byteAt cell 3) (fieldAt cell 5 (min 24 (byteAt cell 4).toNat)))
  else none

/-- The handle that the decoder hands on: that of the handle byte, but a HELLO's, 0, which is not read (R31, R32). -/
def replyHandle (cell : List Byte) : Nat := if byteAt cell 0 == 0x41#8 then 0 else (byteAt cell 1).toNat

/-- What the decoder makes of a reply cell (R12, R21, R31): none for a bad CRC or a kind that is no reply kind. -/
def decodeReply (cell : List Byte) : Option TreeReply :=
  if cell.length == 32 && be 2 (crc16 (cell.take 30)).toNat == fieldAt cell 30 2 then
    (replyBodyOf (byteAt cell 0) cell).map fun b => ⟨replyHandle cell, (byteAt cell 2).getLsbD 0, b⟩
  else none

/-! ### Frames (12.1) -/

/-- A frame as it stands on the line: sync byte, length, kind, body, CRC-16 (R181). -/
def frameBytes (kind : Byte) (body : List Byte) : List Byte :=
  Config.syncByte :: withCrc16 (be 2 (body.length + 1) ++ kind :: body)

/-! ### What a request's body names (12.10) -/

/-- The trees of the tree mask in a body's byte, or none for a mask of 0 or above 15 (12.4). -/
def maskAt (body : List Byte) (offset : Nat) : Option TreeMask :=
  let b := byteAt body offset
  if b == 0 || 15 < b.toNat then none else some (b.setWidth 4)

/-- The highest-numbered tree of a mask that is not 0. -/
def highestTree (m : TreeMask) : TreeId :=
  if inMask m .t3 then .t3 else if inMask m .t2 then .t2 else if inMask m .t1 then .t1 else .t0

/-- The tree and the handle in two bytes, or none where either is out of range. -/
def recordAt (body : List Byte) (offset : Nat) : Option (TreeId × Nat) :=
  match treeOf (byteAt body offset).toNat with
  | none => none
  | some t =>
    let h := (byteAt body (offset + 1)).toNat
    if 1 ≤ h && h ≤ Config.maxHandles then some (t, h) else none

/-- The internal profile slot in the first byte, 1..16, or none (R138). -/
def profileSlotAt (body : List Byte) : Option Nat :=
  let n := (byteAt body 0).toNat
  if 1 ≤ n && n ≤ 16 then some n else none

/-- The (field id, value) pairs of a TREE-SET body after its mask (R17). -/
def pairsOf : List Byte → List (Nat × Int)
  | i :: a :: b :: c :: d :: rest => (i.toNat, fromBeInt32 [a, b, c, d]) :: pairsOf rest
  | _ => []

/-- The number of whole entries of 27 bytes in a body or block. -/
def chunks27 (bs : List Byte) : List (List Byte) := (List.range (bs.length / 27)).map fun i => fieldAt bs (27 * i) 27

/-! ### The bytes of records and reply data (12.10) -/

/-- A present byte and a value of `n` bytes, 0 where absent (12.10). -/
def optional (n : Nat) : Option Nat → List Byte
  | some v => flagByte true :: be n v
  | none => flagByte false :: be n 0

/-- A report slot of the TERMINAL-READ record: valid mark, kind code, length, body, age (12.10). -/
def StoredReport.bytes (s : StoredReport) : List Byte :=
  [flagByte s.valid, s.kind, byte s.body.length] ++ padTo 24 s.body ++ be 2 s.age

/-- The load part of the TERMINAL-READ record (12.10). -/
def loadBytes : Option Load → List Byte
  | some l => [flagByte true, byte l.profile, byte l.sub.code, byte l.used, byte (sourceCode l.source)]
  | none => [flagByte false, 0, 0, 0, 0]

/-- The TERMINAL-READ record, 138 bytes (R97, 12.10). -/
def Record.bytes (r : Record) : List Byte :=
  [byte r.state.code, byte (treeNo r.tree), byte r.handle] ++ tagBytes r.tag ++ be 4 r.maker.toNat ++ be 4 r.lag
    ++ beInt 4 r.lastRtt ++ [byte r.cause.code] ++ optional 1 (r.heardWindow.map (·.toNat))
    ++ optional 2 (r.lagSentCycle.map (·.toNat)) ++ [byte r.level, byte r.missCount, byte r.errorCount, r.marks]
    ++ [byte r.checkAttempts] ++ be 2 r.lastUpkeepGrant.toNat ++ optional 2 (r.nudgePending.map (·.toNat))
    ++ r.reports.a.bytes ++ r.reports.b.bytes ++ r.reports.c.bytes ++ loadBytes r.load
    ++ optional 4 (r.refind.map (·.toNat)) ++ optional 1 r.held

/-- A label as an entry carries it: its length, then 16 bytes (12.10). -/
def labelBytes (label : List Byte) : List Byte := byte label.length :: padTo 16 label

/-- An admission entry of the admission block (12.8): 27 bytes, without marks and sighting (R191). -/
def AdmitEntry.stored (e : AdmitEntry) : List Byte :=
  tagBytes e.tag ++ [byte e.profile, e.mask.setWidth 8] ++ labelBytes e.label

/-- An entry of the ADMIT-READ reply with its index (12.10): marks, sighting tree and tenth after the stored bytes. -/
def AdmitEntry.listed (e : AdmitEntry) (index : Nat) : List Byte :=
  byte index :: e.stored ++ [e.marks]
    ++ (match e.sighting with
        | some (t, n) => byte (treeNo t) :: be 4 n.toNat
        | none => 0#8 :: be 4 0)

/-- An entry of the UNCLAIMED-READ reply (12.10). -/
def UnclaimedEntry.bytes (e : UnclaimedEntry) : List Byte :=
  tagBytes e.tag ++ [byte (treeNo e.tree)] ++ be 4 e.maker.toNat ++ be 4 e.firstHeard.toNat ++ be 4 e.lastHeard.toNat
    ++ [byte e.times]

/-- The seven counters in order (12.10). -/
def Counters.bytes (c : Counters) : List Byte :=
  ([c.windows, c.hellos, c.collisions, c.implausible, c.turnedAway, c.foreign, c.stray].map (be 4 ·.toNat)).flatten

/-- A slot of the report table (12.8, 12.10). -/
def TableSlot.bytes (s : TableSlot) : List Byte :=
  [s.kind, byte s.interval, byte s.multiple, flagByte s.clearOnStale]

/-! ### Notices (12.6, 12.10) -/

/-- The kind of a notice frame (12.6). -/
def Notice.kind : Notice → Byte
  | .startUp _ _ _ _ _ _ => 0x40#8
  | .storeDone _ _ _ => 0x41#8
  | .tree _ _ _ _ => 0x42#8
  | .window _ _ _ _ _ _ => 0x43#8
  | .rawStamp _ _ _ _ _ => 0x44#8
  | .wrongTree _ _ _ _ _ => 0x45#8
  | .unclaimed _ _ _ _ _ => 0x46#8
  | .terminal _ _ _ _ _ _ => 0x47#8
  | .tableFull _ _ _ _ _ _ => 0x48#8
  | .health _ _ _ _ _ _ _ _ _ _ => 0x49#8
  | .pushStart _ _ _ _ => 0x4A#8
  | .pushHungry _ _ _ _ _ => 0x4B#8
  | .pushFail _ _ _ _ _ _ _ _ _ _ _ => 0x4C#8
  | .stale _ _ _ _ _ _ _ => 0x4D#8
  | .hush _ _ _ _ _ _ _ => 0x4E#8

/-- The contents of a notice frame after its flags byte (12.10). -/
def Notice.contents : Notice → List Byte
  | .startUp kind settings admission applied skipped enabled =>
    [byte kind.code, byte settings.code, byte admission.code] ++ be 2 applied ++ be 2 skipped ++ [enabled.setWidth 8]
  | .storeDone selector result offset => [byte selector, byte result.code] ++ be 4 offset
  | .tree t enabled freed auto => [byte (treeNo t), flagByte enabled, byte freed, if auto then 2 else 1]
  | .window t number used h c next => [byte (treeNo t), number, byte used] ++ be 2 h ++ be 2 c ++ [byte next]
  | .rawStamp t m rtt offset cls =>
    [byte (treeNo t), m.number] ++ be 2 m.w.toNat ++ tagBytes m.tag ++ [byte m.slice] ++ be 4 m.fine
      ++ be 4 m.coarse.toNat ++ be 5 m.arrival.toNat ++ beInt 4 rtt ++ beInt 2 offset ++ [byte cls.code]
  | .wrongTree t g mask maker n =>
    [byte (treeNo t)] ++ tagBytes g ++ [mask.setWidth 8] ++ be 4 maker.toNat ++ be 4 n.toNat
  | .unclaimed t g maker n displaced =>
    [byte (treeNo t)] ++ tagBytes g ++ be 4 maker.toNat ++ be 4 n.toNat ++ optional 8 (displaced.map (·.toNat))
  | .terminal t h g old new cause =>
    [byte (treeNo t), byte h] ++ tagBytes g ++ [byte old.code, byte new.code, byte cause.code]
  | .tableFull t g reason inUse ofTree reserved =>
    [byte (treeNo t)] ++ tagBytes g ++ [byte reason.code, byte inUse, byte ofTree, byte reserved]
  | .health t h g event state level miss error attention n =>
    [byte (treeNo t), byte h] ++ tagBytes g
      ++ [byte event.code, byte state.code, byte level, byte miss, byte error, flagByte attention] ++ be 4 n.toNat
  | .pushStart t h g attempt => [byte (treeNo t), byte h] ++ tagBytes g ++ [byte attempt]
  | .pushHungry t h n fill free => [byte (treeNo t), byte h] ++ be 2 n ++ be 2 fill ++ be 2 free
  | .pushFail t h g profile source reason code ack used charged held =>
    [byte (treeNo t), byte h] ++ tagBytes g ++ [byte profile, byte (sourceCode source), byte reason.code, byte code]
      ++ be 2 ack ++ [byte used, flagByte charged, if held then 2 else 1]
  | .stale t h g x kind age cleared =>
    [byte (treeNo t), byte h] ++ tagBytes g ++ [byte (slotCode x), kind] ++ be 2 age ++ [flagByte cleared]
  | .hush t entered present seen measure c n =>
    [byte (treeNo t), if entered then 1 else 2, present.code, seen.code] ++ be 2 measure ++ be 2 c.toNat ++ be 4 n.toNat

end Sys2Proof.Machine
end

