-- ==== Sys2Proof/Machine/Arbiter.lean ====
section
/-!
DEFINITION. Machine/Arbiter.lean: the control slot arbiter: what is due, the choice of a candidate, the grant, the match
and the expiry of an expectation, and the outcome to its owner (chapter 7).
-/

namespace Sys2Proof.Machine

/-! ### What is due at a cycle start -/

/-- The upkeep interval of a ladder level, in cycles (R110). -/
def upkeepInterval : Nat → Nat
  | 0 => 1024
  | 1 => 256
  | 2 => 64
  | _ => 16

/-- Whether the upkeep-due mark of a record is to be set at the cycle start `c` (R110). -/
def Record.upkeepFallsDue (r : Record) (c : CycleNo) : Bool :=
  (r.state == .inService || r.state == .loading) && !r.upkeepDue
    && upkeepInterval r.level ≤ cyclesSince c r.lastUpkeepGrant

/-- The test of R110 for one record at the cycle start `c`. -/
def Record.upkeepTest (r : Record) (c : CycleNo) : Record :=
  if r.upkeepFallsDue c then { r with upkeepDue := true } else r

/-- The eligibility of a CHECK at the cycle start `c` (R109): two cycles after the LAG sent cycle, or, once a reply has
been judged, when the handle has no entry in the list and no LAG for the record stands queued or held. -/
def Part.checkEligible (p : Part) (t : TreeId) (c : CycleNo) (r : Record) : Record :=
  match r.check, r.lagSentCycle with
  | .afterLag, some g => if c == g + 2 then { r with check := .eligible c } else r
  | .afterReply, _ =>
    if p.expects t r.handle || p.hasOrder t (Order.isLag r.handle) then r else { r with check := .eligible c }
  | _, _ => r

/-- The upkeep-due marks and the eligibility of CHECKs at the cycle start of one tree (R107, R109, R110). -/
def Part.duesOfTree (p : Part) (k : Clock) (t : TreeId) : Part :=
  { p with
    records := p.records.map fun r =>
      if r.tree == t then (p.checkEligible t k.cycle r).upkeepTest k.cycle else r }

/-- The poll due marks of a tenth boundary for one tree (R107, R167). -/
def Part.pollDuesOfTree (p : Part) (k : Clock) (t : TreeId) : Part :=
  { p with
    records := p.records.map fun r =>
      if r.tree == t then allSlots.foldl (fun r x => r.pollDueTest p.reportTable k x) r else r }

/-! ### Candidates and the order of choice -/

/-- A candidate for a slot (R108): its handle, class, due since cycle and, for POLL, the slot of the report table. -/
structure Candidate where
  handle : Nat
  purpose : Purpose
  since : CycleNo
  report : Option (ReportSlot × Byte)
deriving DecidableEq, Repr

/-- Whether an engine has an ask for status outstanding for a record, and since when (R111). -/
def Engine.askFor (e : Engine) (h : Nat) : Option CycleNo := if e.serving == some h then e.ask else none

/-- The due since cycle of a record's CHECK, when it is a candidate in that class (R108, R109). -/
def Part.checkSince (p : Part) (t : TreeId) (r : Record) : Option CycleNo :=
  match r.check with
  | .eligible c =>
    if r.state == .aligning && !(p.tree t).guard.hush && !p.hasOrder t (Order.isLag r.handle) then some c else none
  | _ => none

/-- The due since cycle of a record's UPKEEP, when it is a candidate in that class (R108). -/
def Record.upkeepSince (r : Record) : Option CycleNo :=
  if r.upkeepDue && (r.state == .inService || r.state == .loading) then
    some (r.lastUpkeepGrant + BitVec.ofNat 16 (upkeepInterval r.level))
  else none

/-- The record as a candidate in one class (R108), or none. -/
def Part.candidate (p : Part) (k : Clock) (t : TreeId) (r : Record) : Purpose → Option Candidate
  | .check => (p.checkSince t r).map fun c => ⟨r.handle, .check, c, none⟩
  | .loadStatus => ((p.engine t).askFor r.handle).map fun c => ⟨r.handle, .loadStatus, c, none⟩
  | .upkeep => r.upkeepSince.map fun c => ⟨r.handle, .upkeep, c, none⟩
  | .poll =>
    (r.namedSlot p.reportTable k.cycle).map fun q => ⟨r.handle, .poll, q.2, some (q.1, (p.reportTable.get q.1).kind)⟩

/-- The candidates of one class, in ascending order of handle (R108): no record with an entry in the list is one. -/
def Part.candidates (p : Part) (k : Clock) (t : TreeId) (u : Purpose) : List Candidate :=
  (p.recordsOf t).filterMap fun r => if p.expects t r.handle then none else p.candidate k t r u

/-- Of candidates in ascending order of handle, the one of the greatest wait, the first of equals (R112). -/
def longestWait (c : CycleNo) : List Candidate → Option Candidate
  | [] => none
  | x :: rest =>
    match longestWait c rest with
    | none => some x
    | some y => if cyclesSince c x.since < cyclesSince c y.since then some y else some x

/-- The order of the classes for a slot's number (R112). -/
def classOrder (number : BitVec 16) : List Purpose :=
  if number.toNat % 8 == 7 then [.upkeep, .poll, .check, .loadStatus] else [.check, .loadStatus, .upkeep, .poll]

/-- The candidate that the arbiter chooses for the slot of a number (R112). -/
def Part.choose (p : Part) (k : Clock) (t : TreeId) (number : BitVec 16) : Option Candidate :=
  (classOrder number).findSome? fun u => longestWait k.cycle (p.candidates k t u)

/-! ### The grant -/

/-- The expected arrival of a grant in slot `slot` of cycle `c` (R114). -/
def expectedArrival (s : Settings) (c : CycleNo) (slot : Nat) : TreeTime :=
  startOf c + BitVec.ofInt 33 (24000 + (s.reachDepth : Int) + s.treeOffset + 98304 + 8192 * (slot : Int))

/-- The effect of a grant on the granted record (R113). -/
def Record.granted (r : Record) (k : Clock) (x : Candidate) : Record :=
  match x.purpose, x.report with
  | .check, _ => { r with check := .granted }
  | .upkeep, _ => { r with lastUpkeepGrant := k.cycle, upkeepDue := false }
  | .poll, some (s, _) => r.pollGranted s k.tenth
  | .poll, none => r
  | .loadStatus, _ => r

/-- A grant is issued in a slot (R113, R114). A LOAD-STATUS grant satisfies the engine's ask, takes its send pointer as
the sent mark, sets its cell count to 0 and makes it await the outcome (R151, R155). -/
def Part.issueGrant (p : Part) (k : Clock) (t : TreeId) (slot : Nat) (x : Candidate) : Part :=
  let mark := if x.purpose == .loadStatus then some (p.engine t).sendPointer else none
  let entry : Expectation :=
    ⟨x.handle, x.purpose, x.report, k.cycle, slot, expectedArrival (p.tree t).settings k.cycle slot, mark, false⟩
  let p := p.modExpectations t (· ++ [entry])
  let p := p.modRecord t x.handle (·.granted k x)
  if x.purpose == .loadStatus then
    p.modEngine t fun e => { e with ask := none, awaiting := true, cellCount := 0 }
  else p

/-- The header entry of a candidate (R107). -/
def Candidate.entry (x : Candidate) : GrantEntry := ⟨x.handle, some x.purpose, (x.report.map (·.2)).getD 0⟩

/-- One slot of a header (R107): the entry and what the slot leaves. The list holds at most 16 entries (R114): while it
is full no grant is issued (notes/assumptions/10.md). -/
def Part.settleSlot (p : Part) (k : Clock) (t : TreeId) (slot : Nat) : Part × GrantEntry :=
  let T := p.tree t
  let choice := if T.expectations.length < Config.maxExpectations then p.choose k t T.slotCounter else none
  let q :=
    match choice with
    | some x => p.issueGrant k t slot x
    | none => p
  (q.modTree t fun T => { T with slotCounter := T.slotCounter + 1 }, (choice.map Candidate.entry).getD .unused)

/-- The slots of a header from `slot` on, `n` of them (R107). -/
def Part.settleSlots (p : Part) (k : Clock) (t : TreeId) (slot : Nat) : Nat → Part × List GrantEntry
  | 0 => (p, [])
  | n + 1 =>
    let (q, g) := p.settleSlot k t slot
    let (q', gs) := q.settleSlots k t (slot + 1) n
    (q', g :: gs)

/-! ### Match, expiry, outcome -/

/-- Whether a reply is of the kind that a purpose calls for (R115). -/
def Purpose.callsFor : Purpose → ReplyBody → Bool
  | .check, .echo | .upkeep, .echo => true
  | .loadStatus, .loadStatus _ => true
  | .poll, .report _ _ => true
  | _, _ => false

/-- A LOAD-STATUS outcome as the engine takes it (R117). -/
def statusOutcome (x : Expectation) : MatchOutcome → StatusOutcome
  | .answered _ _ (.loadStatus st) => .answered st (x.sentMark.getD 0)
  | _ => .bad

/-- A POLL outcome as the poller takes it (R117). -/
def pollOutcomeOf : MatchOutcome → PollOutcome
  | .answered _ _ (.report kind data) => .answered kind data
  | _ => .bad

/-- The purpose's owner takes an outcome (R117). -/
def Part.ownerOutcome (p : Part) (k : Clock) (t : TreeId) (x : Expectation) (o : MatchOutcome) : Part :=
  match x.purpose, x.report with
  | .check, _ => p.checkOutcome k t x.handle x.grantCycle o
  | .upkeep, _ => p.upkeepOutcome k t x.handle x.grantCycle o
  | .loadStatus, _ => p.pushOutcome k t x.handle (statusOutcome x o)
  | .poll, some (s, kind) =>
    p.modRecord t x.handle (·.pollOutcome p.reportTable k.cycle s kind (pollOutcomeOf o))
  | .poll, none => p

/-- Whether the record of a handle is in REFIND. -/
def Part.inRefind (p : Part) (t : TreeId) (h : Nat) : Bool := (p.record? t h).any (·.state == .refind)

/-- Whether the record of a handle is IMPAIRED. -/
def Part.isImpaired (p : Part) (t : TreeId) (h : Nat) : Bool := (p.record? t h).any (·.impaired)

/-- A live entry's outcome is counted, and unless the counting sent the record to REFIND its owner takes it (R117, R122).
Where the counting cleared IMPAIRED, the test of R146 comes after both: so no outcome is judged for a record that this test
sends to HELD (DESIGN CHOICE, notes/assumptions/38.md). -/
def Part.countAndJudge (p : Part) (k : Clock) (t : TreeId) (x : Expectation) (o : MatchOutcome) : Part :=
  let q := p.countOutcome k t x.handle o
  let v := if q.inRefind t x.handle then q else q.ownerOutcome k t x o
  if p.isImpaired t x.handle && !q.isImpaired t x.handle then v.takeTest k t else v

/-- An entry that has just left the list hands on its outcome (R117). An orphan hands on none. A deferred ask may follow
(R111). -/
def Part.takeOutcome (p : Part) (k : Clock) (t : TreeId) (x : Expectation) (o : MatchOutcome) : Part :=
  (if x.orphan then p else p.countAndJudge k t x o).settleAsk k t

/-- An entry is removed from the list (R115, R116). -/
def Part.removeEntry (p : Part) (t : TreeId) (x : Expectation) : Part := p.modExpectations t (·.erase x)

/-- Whether an arrival time lies within 2048 steps of an entry's expected arrival (R115). -/
def Expectation.inRange (x : Expectation) (time : TreeTime) : Bool :=
  (timeDiff time x.expected).natAbs ≤ Config.matchSteps

/-- The entry that an arrival goes to (R14, R115). -/
def Part.entryFor (p : Part) (t : TreeId) (time : TreeTime) : Option Expectation :=
  (p.tree t).expectations.find? (·.inRange time)

/-- The outcome of an arrival against an entry, and whether the reply is a foreign one (R115). -/
def judgeArrival (x : Expectation) (time : TreeTime) : Content → MatchOutcome × Bool
  | .valid _ _ reply =>
    if reply.handle != x.handle then (.missed, true)
    else if x.purpose.callsFor reply.body then (.answered (timeDiff time x.expected) reply.attention reply.body, false)
    else (.errored (some reply.attention), false)
  | .errored | .lightOnly => (.errored none, false)

/-- The matcher takes an arrival for an entry (R115). -/
def Part.matchArrival (p : Part) (k : Clock) (t : TreeId) (x : Expectation) (time : TreeTime) (c : Content) : Part :=
  let (o, foreign) := judgeArrival x time c
  let p := if foreign then p.modCounters t fun n => { n with foreign := n.foreign + 1 } else p
  (p.removeEntry t x).takeOutcome k t x o

/-- An entry expires (R116): MISSED, or LAPSED while DARK is present. -/
def Part.expire (p : Part) (k : Clock) (t : TreeId) (x : Expectation) : Part :=
  (p.removeEntry t x).takeOutcome k t x (if (p.tree t).guard.present.dark then .lapsed else .missed)

end Sys2Proof.Machine
end

