-- ==== Sys2Proof/Machine/Windows.lean ====
section
/-!
DEFINITION. Machine/Windows.lean: the window scheduler (chapter 3).
-/

namespace Sys2Proof.Machine

/-- The lead-in length L of a reach depth (R38). -/
def leadInLength (depth : Nat) : Nat := (depth + 131071) / 131072 + 1

/-- A lead-in or a CALL is under way, so that the cycle that starts is a window cycle (R39, R46). -/
def Tree.isWindowCycle (T : Tree) (c : CycleNo) : Bool :=
  match T.scheduler.phase with
  | .leadIn _ => true
  | .listening win => win.w == c
  | .idle => T.windowBegun

/-- The window timer advances at a cycle start, once (R37). A HUSH taken before it at that instant has set it to 0 first
(R46). -/
def Tree.advanceTimer (T : Tree) : Tree :=
  if T.timerDone then T
  else
    { T with
      scheduler := { T.scheduler with timer := min 65535 (T.scheduler.timer + 1) }
      timerDone := true }

/-- Whether a window begins at the cycle start, its timer increased (R38). -/
def Tree.windowDue (T : Tree) : Bool :=
  T.scheduler.phase == .idle && T.settings.windowInterval ≤ T.scheduler.timer && !T.guard.hush

/-- A window begins at cycle `c` (R38): LEAD-IN towards w, QUIET asserted (R16). -/
def Tree.beginWindow (T : Tree) (c : CycleNo) : Tree :=
  { T with
    scheduler := { T.scheduler with phase := .leadIn (c + BitVec.ofNat 16 (leadInLength T.settings.reachDepth)) }
    quiet := true
    windowBegun := true }

/-- The cycle that starts is the CALL cycle of the lead-in under way (R40). -/
def Tree.callDue (T : Tree) (c : CycleNo) : Bool := T.scheduler.phase == .leadIn c

/-- The spread settled at a CALL (R40). -/
def settleSpread (s : Settings) (spread : Nat) : Nat := if s.rawStamps then s.spreadMin else max spread s.spreadMin

/-- The start of the hello span of a window with CALL cycle `w` (R41). -/
def spanStartOf (s : Settings) (w : CycleNo) : TreeTime := startOf w + BitVec.ofInt 33 (24000 + s.treeOffset - 64)

/-- The end of the hello span (R41). -/
def spanStopOf (s : Settings) (w : CycleNo) (spread : Nat) : TreeTime :=
  startOf w + BitVec.ofInt 33 (24000 + (s.reachDepth : Int) + s.treeOffset + ((spread : Int) - 1) * 1600 + 1200 + 64)

/-- The CALL of cycle `c` (R40): the spread is settled, the window number and the windows counter increase, the timer
becomes 0 in place of its increase (R37), the scheduler is LISTENING with a new window record. -/
def Tree.sendCall (T : Tree) (c : CycleNo) : Tree :=
  let S := settleSpread T.settings T.scheduler.spread
  { T with
    scheduler := ⟨.listening ⟨c, S, spanStartOf T.settings c, spanStopOf T.settings c S, 0, 0⟩, 0, S,
      T.scheduler.number + 1⟩
    counters := { T.counters with windows := T.counters.windows + 1 }
    rawCount := 0
    timerDone := true }

/-- The CALL with what the activation controller does when it is told of it: the heard window of every record of the
tree becomes absent (R40, 6.2). -/
def Part.callStart (p : Part) (k : Clock) (t : TreeId) : Part :=
  let p := p.modTree t (·.sendCall k.cycle)
  { p with records := p.records.map fun r => if r.tree == t then { r with heardWindow := none } else r }

/-- Whether an arrival time lies inside the hello span of a window (R41). -/
def Window.contains (win : Window) (time : TreeTime) : Bool :=
  0 ≤ timeDiff time win.spanStart && 0 ≤ timeDiff win.spanStop time

/-- The window that is LISTENING. -/
def Tree.window? (T : Tree) : Option Window :=
  match T.scheduler.phase with
  | .listening win => some win
  | .idle | .leadIn _ => none

/-- Changes the record of the window that is LISTENING. -/
def Tree.modWindow (T : Tree) (f : Window → Window) : Tree :=
  match T.scheduler.phase with
  | .listening win => { T with scheduler := { T.scheduler with phase := .listening (f win) } }
  | .idle | .leadIn _ => T

/-- A collision in the hello span (R42). -/
def Tree.collide (T : Tree) : Tree :=
  ({ T with counters := { T.counters with collisions := T.counters.collisions + 1 } }).modWindow fun win =>
    { win with c := min 65535 (win.c + 1) }

/-- A valid HELLO in the span (R43): a stale one counts as implausible and is dropped, any other is handed to the arrival
arithmetic unit. -/
def Tree.hearHello (T : Tree) (win : Window) (m : Hello) : Tree :=
  let T := { T with counters := { T.counters with hellos := T.counters.hellos + 1 } }
  if m.number != T.scheduler.number then
    { T with counters := { T.counters with implausible := T.counters.implausible + 1 } }
  else
    let T := T.modWindow fun win => { win with h := min 65535 (win.h + 1) }
    { T with hellos := T.hellos ++ [{ m with w := win.w }] }

/-- The window scheduler takes an arrival inside its span (R42, R43). -/
def Tree.judgeInSpan (T : Tree) (win : Window) (time : TreeTime) : Content → Tree
  | .valid fine coarse ⟨_, _, .hello number slice tag maker⟩ =>
    T.hearHello win ⟨fine, coarse, time, slice, tag, maker, number, win.w⟩
  | .valid _ _ _ | .errored | .lightOnly => T.collide

/-- The spread for the next window (R45). -/
def nextSpread (s : Settings) (win : Window) : Nat :=
  if s.rawStamps then s.spreadMin
  else if 2 ≤ win.c && win.spread < 64 then 2 * win.spread
  else if win.c == 0 && win.h ≤ win.spread / 4 && s.spreadMin < win.spread then win.spread / 2
  else win.spread

/-- A window closes (R44): the guard takes its collision count (R176), the next spread is set, a WINDOW notice is raised
when window_summaries is on, and the scheduler is IDLE. -/
def Part.closeWindow (p : Part) (k : Clock) (t : TreeId) (win : Window) : Part :=
  let p := p.stormTest k t win.c
  let T := p.tree t
  let S := nextSpread T.settings win
  let p := p.modTree t fun T => { T with scheduler := { T.scheduler with phase := .idle, spread := S } }
  if T.settings.windowSummaries then
    p.raise (.window t T.scheduler.number win.spread win.h win.c S)
  else p

end Sys2Proof.Machine
end

