-- ==== Sys2Proof/Machine/Hello.lean ====
section
/-!
DEFINITION. Machine/Hello.lean: the arrival arithmetic unit: reconciliation, round trip, class and lag, and the raw-stamp
mode (chapter 4).
-/

namespace Sys2Proof.Machine

/-- The arrival time of a burst from its fine and coarse stamps (R51). -/
def reconcile (fine : Nat) (coarse : QuarterNo) : TreeTime :=
  let fq := BitVec.ofNat 2 (fine / Config.quarterSteps)
  let back := coarse.setWidth 2 - fq
  let a := coarse - back.setWidth 18
  a.setWidth 33 * 32768#33 + BitVec.ofNat 33 (fine % Config.quarterSteps)

/-- The round trip of a hello with the tree offset O (R54). -/
def Hello.rtt (m : Hello) (offset : Int) : Int :=
  timeDiff m.arrival (startOf m.w) - 24000 - 1600 * (m.slice : Int) - offset

/-- The class of a round trip (R55). -/
def classOf (depth : Nat) (rtt : Int) : HelloClass :=
  if rtt < -64 then .negative else if rtt < 0 then .near else if rtt ≤ depth then .inReach else .far

/-- The lag of a round trip `r` in 0..D (R58): D - r rounded to the nearest multiple of 4, halves upward. -/
def lagOf (depth : Nat) (r : Int) : Nat := (4 * (((depth : Int) - r + 2) / 4)).toNat

/-- The lag handed on with a class (R56 to R59). -/
def lagOfClass (depth : Nat) (cls : HelloClass) (rtt : Int) : Nat :=
  match cls with
  | .inReach => lagOf depth rtt
  | .near => lagOf depth 0
  | .far | .negative => 0

/-- A hello taken in raw-stamp mode (R61): at most four RAW-STAMP notices in a window. -/
def Part.rawHello (p : Part) (t : TreeId) (m : Hello) : Part :=
  let T := p.tree t
  if T.rawCount < 4 then
    let rtt := m.rtt T.settings.treeOffset
    (p.modTree t fun T => { T with rawCount := T.rawCount + 1 }).raise
      (.rawStamp t m rtt T.settings.treeOffset (classOf T.settings.reachDepth rtt))
  else p

/-- The measured hello that a hello gives on a tree (R59). -/
def Hello.measure (m : Hello) (s : Settings) : Measured :=
  let rtt := m.rtt s.treeOffset
  let cls := classOf s.reachDepth rtt
  ⟨m.number, m.w, m.tag, m.maker, m.slice, cls, rtt, lagOfClass s.reachDepth cls rtt⟩

/-- The arrival arithmetic unit takes a hello (R53): a NEGATIVE one counts as implausible and is dropped (R55), any other
is handed on (R59). -/
def Part.takeStamps (p : Part) (t : TreeId) (m : Hello) : Part :=
  let s := (p.tree t).settings
  if s.rawStamps then p.rawHello t m
  else
    let x := m.measure s
    if x.cls == .negative then p.modCounters t fun c => { c with implausible := c.implausible + 1 }
    else p.modTree t fun T => { T with measured := T.measured ++ [x] }

end Sys2Proof.Machine
end

