-- ==== Sys2Proof/Machine/Upstream.lean ====
section
/-!
DEFINITION. Machine/Upstream.lean: the burst receiver, the reply decoder, the dispatcher and the settled time of one tree
(1.5, 1.6).
-/

namespace Sys2Proof.Machine

/-- The steps from an instant to the present. -/
def elapsed (now x : TreeTime) : Nat := (now - x).toNat

/-- A light onset (R11, R13): a seek period opens, with a quiet lead after at least 256 steps of darkness. -/
def Tree.lightComes (T : Tree) (now : TreeTime) (dark : Nat) : Tree :=
  { T with seeks := T.seeks ++ [⟨now, Config.quietLeadSteps ≤ dark⟩], lit := true, lightSeen := true }

/-- The instant at which a seek period ends without a delimiter (R11). -/
def Seek.ends (q : Seek) : TreeTime := q.opened + BitVec.ofNat 33 Config.seekSteps

/-- Light goes on at an instant that ends a burst or a seek period: a further seek period opens there (R11). -/
def Tree.lightGoesOn (T : Tree) (instant : TreeTime) (lit : Bool) : Tree :=
  if lit then { T with seeks := T.seeks ++ [⟨instant, false⟩], lit := true, lightSeen := true }
  else { T with lit := false }

/-- The oldest seek period of a tree, the head of `seeks`, ends without a delimiter (R11). -/
def Tree.seekEnds (T : Tree) (q : Seek) (rest : List Seek) (lit : Bool) : Tree :=
  let T := { T with seeks := rest }
  let T := if lit then { T with arrivals := T.arrivals ++ [⟨q.opened, q.opened, .lightOnly⟩] } else T
  T.lightGoesOn q.ends lit

/-- The seek period that a delimiter found now belongs to: the youngest that has not ended (notes/assumptions/11.md). -/
def Tree.seekFor (T : Tree) (now : TreeTime) : Option Seek :=
  T.seeks.reverse.find? fun q => elapsed now q.opened ≤ Config.seekSteps

/-- A delimiter is found in a seek period (R11): the fine stamp is captured. -/
def Tree.delimiter (T : Tree) (now : TreeTime) (pos : Nat) (q : Seek) : Tree :=
  { T with seeks := T.seeks.erase q, bursts := T.bursts ++ [⟨q.opened, q.quietLead, now, pos, none, none⟩] }

/-- The arrival of a burst that has ended and is decoded (R11, R12, R51): a valid reply needs a quiet lead, an end code,
a good CRC and a reply kind. -/
def Burst.arrival (b : Burst) : Option Arrival :=
  match b.ended, b.decoded with
  | some endCode, some (coarse, reply) =>
    let content :=
      match reply with
      | some r => if b.quietLead && endCode then Content.valid b.fine coarse r else .errored
      | none => .errored
    some ⟨reconcile b.fine coarse, b.opened, content⟩
  | _, _ => none

/-- The bursts that have ended and are decoded become arrivals. -/
def Tree.finishBursts (T : Tree) : Tree :=
  { T with
    bursts := T.bursts.filter (·.arrival.isNone)
    arrivals := T.arrivals ++ T.bursts.filterMap Burst.arrival }

/-- Changes the `n`-th element of a list that fits `f`. -/
def modNth {α : Type} (f : α → Bool) (g : α → α) : Nat → List α → List α
  | _, [] => []
  | n, x :: rest =>
    if f x then
      match n with
      | 0 => g x :: rest
      | m + 1 => x :: modNth f g m rest
    else x :: modNth f g n rest

/-- The oldest burst that has not ended ends (R11). -/
def Tree.burstEnds (T : Tree) (now : TreeTime) (endCode lit : Bool) : Tree :=
  (({ T with
      bursts := modNth (·.ended.isNone) (fun b => { b with ended := some endCode }) 0 T.bursts }).lightGoesOn now
    lit).finishBursts

/-- The `n`-th burst that is not decoded is decoded (R12): the coarse stamp is captured. -/
def Tree.decoded (T : Tree) (quarter : QuarterNo) (n : Nat) (cell : List Byte) : Tree :=
  ({ T with
     bursts := modNth (·.decoded.isNone) (fun b => { b with decoded := some (quarter, decodeReply cell) }) n
       T.bursts }).finishBursts

/-- The burst that a CELL_DECODED is for. -/
def Tree.undecoded (T : Tree) (n : Nat) : Option Burst := (T.bursts.filter (·.decoded.isNone))[n]?

/-- The arrival of the earliest arrival time, the first of equals (R14). -/
def earliest (now : TreeTime) : List Arrival → Option Arrival
  | [] => none
  | a :: rest =>
    match earliest now rest with
    | none => some a
    | some b => if elapsed now a.time < elapsed now b.time then some b else some a

/-- Whether an arrival waits: a seek period opened earlier is still open, or a burst found earlier is not yet decoded
(R14). -/
def Tree.mustWait (T : Tree) (now : TreeTime) (a : Arrival) : Bool :=
  T.seeks.any (fun q => elapsed now a.time < elapsed now q.opened)
    || T.bursts.any (fun b => elapsed now a.time < elapsed now b.found)

/-- The arrival that the dispatcher may take now (R14). -/
def Tree.nextArrival (T : Tree) (now : TreeTime) : Option Arrival :=
  match earliest now T.arrivals with
  | none => none
  | some a => if T.mustWait now a then none else some a

/-- The dispatcher gives an arrival to the first owner that fits (R14): the window scheduler, the matcher, or the stray
counter and the guard. -/
def Part.dispatch (p : Part) (k : Clock) (t : TreeId) (a : Arrival) : Part :=
  let p := p.modTree t fun T => { T with arrivals := T.arrivals.erase a }
  match (p.tree t).window?.filter (·.contains a.time), p.entryFor t a.time with
  | some win, _ => p.modTree t (·.judgeInSpan win a.time a.content)
  | none, some x => p.matchArrival k t x a.time a.content
  | none, none => p.strayEvent k t

/-- The settled time of a tree (R15): the earlier of the current tree time and the opening of the oldest seek period that
is not fully dispatched. -/
def Tree.settledTime (T : Tree) (now : TreeTime) : TreeTime :=
  let opened := T.seeks.map (·.opened) ++ T.bursts.map (·.opened) ++ T.arrivals.map (·.opened)
  now - BitVec.ofNat 33 ((opened.map (elapsed now)).foldl max 0)

/-- Whether a point on the upstream side is passed (R15). -/
def Tree.passed (T : Tree) (now point : TreeTime) : Bool := 0 < timeDiff (T.settledTime now) point

/-- The entry that expires next, once its expiry point is passed (R116). -/
def Tree.expired (T : Tree) (now : TreeTime) : Option Expectation :=
  match T.expectations with
  | x :: _ => if T.passed now (x.expected + BitVec.ofNat 33 Config.matchSteps) then some x else none
  | [] => none

/-- The window that closes, once its span end is passed (R44). -/
def Tree.closing (T : Tree) (now : TreeTime) : Option Window := T.window?.filter fun win => T.passed now win.spanStop

end Sys2Proof.Machine
end

