-- ==== Sys2Proof/Machine/Cycle.lean ====
section
/-!
DEFINITION. Machine/Cycle.lean: the work of a cycle start: the timebase, the windows, the header with its grants, the
control field, the sent reports, the held orders, the guard's tests and the timers that run in tenths (R1, R2, R6 to R9).

The work of one cycle start is one instant. A command may take one piece of it by itself (WINDOW_BEGIN, SETTLE_END,
TENTH_BOUNDARY, ...); the pieces that no command took are taken in the order written here when the cycle start is finished
(notes/assumptions/3.md and 4.md).
-/

namespace Sys2Proof.Machine

/-! ### Reports of sent orders (R8) -/

/-- A LAG for a record is reported sent in cycle `c` (R8, R91, R109): the LAG sent cycle, and the CHECK of an ALIGNING
record becomes eligible two cycles on. -/
def Record.lagSent (r : Record) (c : CycleNo) : Record :=
  { r with
    lagSentCycle := some c
    check := if r.state == .aligning then .afterLag else r.check }

/-- A LAG by tag is reported sent (R91). -/
def Part.lagByTagSent (p : Part) (k : Clock) (t : TreeId) (g : Tag) (h : Nat) : Part :=
  match p.record? t h with
  | none => p
  | some r =>
    if r.tag != g then p
    else
      let p := if r.state == .heard then p.enterAligning t h else p
      p.modRecord t h (·.lagSent k.cycle)

/-- A LAG by handle is reported sent (R24, R135): the nudge-pending mark takes the cycle number too, in every state of the
record, REFIND and HELD among them (DESIGN CHOICE, notes/assumptions/39.md). -/
def Part.lagByHandleSent (p : Part) (k : Clock) (t : TreeId) (h : Nat) : Part :=
  p.modRecord t h fun r => { r.lagSent k.cycle with nudgePending := some k.cycle }

/-- An order placed in the control field is reported to its producer (R8). The reservation by a RELISTEN ends of itself
(notes/assumptions/9.md); STANDDOWN and LIFT are not reported. -/
def Part.reportSent (p : Part) (k : Clock) (t : TreeId) : Order → Part
  | .lagByTag g h _ => p.lagByTagSent k t g h
  | .lagByHandle h _ => p.lagByHandleSent k t h
  | .prepare h _ _ => p.prepareSent k t h
  | .commit h _ => p.commitSent k t h
  | .relisten _ | .standdown _ | .lift _ => p

/-! ### The control field (R7) -/

/-- A position takes the oldest order of the queue, or a fill cell (R7). -/
def Part.orderCell (p : Part) (k : Clock) (t : TreeId) : Part × Cell :=
  match (p.tree t).queue with
  | [] => (p, .fill)
  | o :: rest => ((p.modTree t fun T => { T with queue := rest }).reportSent k t o, .order o)

/-- Position 3 or 4: offered first to the push engine (R7, R154). -/
def Part.loadOrOrderCell (p : Part) (k : Clock) (t : TreeId) : Part × Cell :=
  let e := p.engine t
  if e.sendable then (p.cellSupplied k t, e.nextCell) else p.orderCell k t

/-- The four positions of the control field, in order (R7). -/
def Part.fillField (p : Part) (k : Clock) (t : TreeId) : Part :=
  let (p, c1) := p.orderCell k t
  let (p, c2) := p.orderCell k t
  let (p, c3) := p.loadOrOrderCell k t
  let (p, c4) := p.loadOrOrderCell k t
  p.modTree t fun T => { T with field := [c1, c2, c3, c4] }

/-! ### What the tenths bring -/

/-- The prepare timer expires in PREPARING (R152). -/
def Part.prepareTimerTest (p : Part) (k : Clock) (t : TreeId) : Part :=
  let e := p.engine t
  if e.state == .preparing && k.expiredTimer e.prepareTimer then p.failAttempt k t .noReady 0 true else p

/-- The begin timer expires in RESOLVING (R148). -/
def Part.beginTimerTest (p : Part) (k : Clock) (t : TreeId) : Part :=
  let e := p.engine t
  if e.state == .resolving && k.expiredTimer e.beginTimer then p.failAttempt k t .stall 0 true else p

/-- The stall timer expires in STREAMING (R157). -/
def Part.stallTimerTest (p : Part) (k : Clock) (t : TreeId) : Part :=
  let e := p.engine t
  if e.state == .streaming && k.expiredTimer e.stallTimer then p.failAttempt k t .stall 0 true else p

/-- The commit timer expires in COMMITTING (R158). -/
def Part.commitTimerTest (p : Part) (k : Clock) (t : TreeId) : Part :=
  let e := p.engine t
  if e.state == .committing && k.expiredTimer e.commitTimer then p.failAttempt k t .noCommit 0 true else p

/-- The refind deadline of a record is reached (R94). -/
def Part.deadlineTest (p : Part) (k : Clock) (t : TreeId) (h : Nat) : Part :=
  match p.record? t h with
  | none => p
  | some r => if r.deadlineReached k.tenth then p.freeRecord k t h .gone else p

/-- The resume timer expires (R177). -/
def Part.resumeTimerTest (p : Part) (k : Clock) (t : TreeId) : Part :=
  let g := (p.tree t).guard
  if g.hush && k.expiredTimer g.resume then p.leaveHush k t else p

/-- The deadlines and timers of one tree at a tenth boundary, in the model's order (notes/assumptions/4.md). -/
def Part.tenthTests (p : Part) (k : Clock) (t : TreeId) : Part :=
  let p := allHandles.foldl (fun p h => p.deadlineTest k t h) p
  ((((p.resumeTimerTest k t).prepareTimerTest k t).beginTimerTest k t).stallTimerTest k t).commitTimerTest k t

/-- The stale tests of the records of one tree (R170). -/
def Part.staleTests (p : Part) (t : TreeId) : Part :=
  allHandles.foldl (fun p h => allSlots.foldl (fun p x => p.staleTest t h x) p) p

/-- The reports of every IN_SERVICE record age at the tenth boundary (R170). -/
def Part.ageAll (p : Part) : Part := { p with records := p.records.map (·.ageReports p.reportTable) }

/-! ### The cycle start of one tree -/

/-- What the cycle start brings to an ENABLED tree before any other of its work: the release of QUIET at w + 1 (R16: its
window may have closed within cycle w), and the dark count from the light seen in the cycle just ended (R13, R175). The light
present now counts as seen in the cycle that begins. The window timer advances with the window scheduler's part, so that a
HUSH may be taken before it (R46). -/
def Tree.openStart (T : Tree) (c : CycleNo) : Tree :=
  if !T.enabled then T
  else
    { T with
      quiet :=
        match T.scheduler.phase with
        | .leadIn _ => T.quiet
        | .listening win => T.quiet && win.w == c
        | .idle => false
      darkCount := if T.lightSeen then 0 else min 65535 (T.darkCount + 1)
      lightSeen := T.lit }

/-- The light present at the upstream port at the cycle start (R13). -/
def Tree.lightAtStart (T : Tree) (lit : Bool) : Tree := if T.enabled then { T with lit := lit, lightSeen := lit } else T

/-- The window scheduler's part of the cycle start (R37, R38, R40): the timer first. -/
def Part.windowStep (p : Part) (k : Clock) (t : TreeId) : Part :=
  let p := p.modTree t Tree.advanceTimer
  let T := p.tree t
  if T.callDue k.cycle then p.callStart k t
  else if T.windowDue then p.modTree t (·.beginWindow k.cycle)
  else p

/-- The span boundary at a cycle number divisible by 16 (R174). -/
def Part.spanStep (p : Part) (k : Clock) (t : TreeId) : Part :=
  if k.cycle.toNat % 16 == 0 && !(p.tree t).spanDone then p.spanEnds k t else p

/-- The CALL field of the header of cycle `c` (R6, R20). -/
def Tree.callField (T : Tree) (c : CycleNo) : Option CallField :=
  (T.window?.filter fun win => win.w == c).map fun win => ⟨T.scheduler.number, win.spread⟩

/-- The header of the cycle that begins on an ENABLED tree (R6, R107): in a window cycle every entry is unused and the
slot counter stands. -/
def Part.headerStep (p : Part) (k : Clock) (t : TreeId) : Part :=
  let T := p.tree t
  let (p, entries) :=
    if T.isWindowCycle k.cycle then (p, List.replicate T.settings.slotsPerCycle .unused)
    else p.settleSlots k t 0 T.settings.slotsPerCycle
  p.modTree t fun U => { U with header := ⟨k.cycle, T.callField k.cycle, entries⟩ }

/-- The settling count of the engine at a cycle start (R153). -/
def Part.settleStep (p : Part) (k : Clock) (t : TreeId) : Part :=
  let e := p.engine t
  if e.state != .settling then p
  else if e.settleLeft ≤ 1 then p.enterStreaming k t
  else p.modEngine t fun e => { e with settleLeft := e.settleLeft - 1 }

/-- The DARK test at a cycle start (R175). -/
def Part.darkStep (p : Part) (k : Clock) (t : TreeId) : Part := if (p.tree t).darkDone then p else p.darkTest k t

/-- The header and field of a DISABLED tree (R3). -/
def Tree.disabledStart (T : Tree) (c : CycleNo) : Tree :=
  { T with
    header := ⟨c, none, List.replicate T.settings.slotsPerCycle .unused⟩
    field := [.fill, .fill, .fill, .fill] }

/-- The work of a cycle start on an ENABLED tree. After the header is assembled what is asked for waits for the next
one. -/
def Part.enabledStart (p : Part) (k : Clock) (boundary : Bool) (t : TreeId) : Part :=
  let p := (p.spanStep k t).windowStep k t
  let p := p.duesOfTree k t
  let p := if boundary then p.pollDuesOfTree k t else p
  let p := p.headerStep k t
  let k := { k with stage := .closed }
  let p := (p.settleStep k t).fillField k t
  let p := (p.reoffer t).streamAsk k t
  p.darkStep k t

/-- The work of a cycle start on one tree. -/
def Part.treeStart (p : Part) (k : Clock) (boundary : Bool) (t : TreeId) : Part :=
  if (p.tree t).enabled then p.enabledStart k boundary t else p.modTree t (·.disabledStart k.cycle)

/-- The marks of the cycle start are cleared: it is done. -/
def Tree.closeStart (T : Tree) : Tree :=
  { T with timerDone := false, windowBegun := false, spanDone := false, darkDone := false }

/-- A change of every tree, in ascending order. -/
def Part.eachTree (p : Part) (f : Part → TreeId → Part) : Part := allTrees.foldl f p

/-! ### The cycle start of the part -/

/-- The timebase passes into the next cycle (R1, R2): its cycle start is open. At a tenth boundary the counts of R2 wait
for the boundary to be taken. -/
def Clock.openStart (k : Clock) : Clock :=
  if k.cycleInTenth + 1 < Config.tenthCycles then
    { k with cycle := k.cycle + 1, pos := 0, cycleInTenth := k.cycleInTenth + 1, stage := .opened }
  else { k with cycle := k.cycle + 1, pos := 0, stage := .boundaryDue }

/-- The tenth boundary is taken (R2). -/
def Clock.takeBoundary (k : Clock) : Clock :=
  { k with cycleInTenth := 0, tenth := k.tenth + 1, stage := .boundaryTaken }

/-- The next cycle starts (R1). -/
def State.openStart (s : State) : State :=
  let k := s.clock.openStart
  { s with clock := k, part := s.part.eachTree fun p t => p.modTree t (·.openStart k.cycle) }

/-- The cycle start that is open, or else the next one opened. -/
def State.atStart (s : State) : State := if s.clock.stage = .closed then s.openStart else s

/-- The tenth boundary of an open cycle start is taken (R2, R170). -/
def State.takeBoundary (s : State) : State := { s with clock := s.clock.takeBoundary, part := s.part.ageAll }

/-- A tenth boundary that is due is taken. -/
def State.boundaryStep (s : State) : State := if s.clock.stage = .boundaryDue then s.takeBoundary else s

/-- Where a piece of a cycle start is taken: the open one, or else the next one opened, with its tenth boundary, if it is
one, taken (R2: a timer started there counts that boundary as its start). -/
def State.startOpen (s : State) : State := s.atStart.boundaryStep

/-- The work left of an open cycle start, its tenth boundary taken. -/
def Part.finishStart (p : Part) (k : Clock) : Part :=
  let boundary := decide (k.stage = .boundaryTaken)
  let p := if boundary then p.eachTree fun p t => p.staleTests t else p
  let p := p.eachTree fun p t => p.treeStart k boundary t
  let k := { k with stage := .closed }
  let p := if boundary then p.eachTree fun p t => p.tenthTests k t else p
  p.eachTree fun p t => p.modTree t Tree.closeStart

/-- An open cycle start is finished. -/
def State.finishStart (s : State) : State :=
  let s := s.boundaryStep
  { s with clock := { s.clock with stage := .closed }, part := s.part.finishStart s.clock }

/-- A cycle start with the light present at each port (R1, R13): the open one is finished, or the next one is opened and
finished. -/
def State.cycleStart (s : State) (lit : TreeMask) : State :=
  let s := s.atStart
  let p := s.part.eachTree fun p t => p.modTree t (·.lightAtStart (inMask lit t))
  { s with part := p }.finishStart

/-- The light that the trees' monitors hold. -/
def Part.litMask (p : Part) : TreeMask := maskOf fun t => (p.tree t).lit

end Sys2Proof.Machine
end

