-- ==== Sys2Proof/Machine/Link.lean ====
section
/-!
DEFINITION. Machine/Link.lean: the management link: the receiver's hunt, the request slot, the replies, the transmitter
and the notice queue (12.1 to 12.3).
-/

namespace Sys2Proof.Machine

/-! ### Notices and the transmitter -/

/-- A notice joins the notice queue, with the notices-lost mark if it is set, or is lost and sets the mark (R185). -/
def Link.notify (l : Link) (n : Notice) : Link :=
  if l.notices.length < Config.maxNotices then { l with notices := l.notices ++ [⟨n, l.lost⟩], lost := false }
  else { l with lost := true }

/-- The rate of the link in baud, for the strap value read at start-up (R180). -/
def Link.baud (l : Link) : Nat :=
  match l.rateCode with
  | 0 => 115200
  | 1 => 460800
  | 2 => 921600
  | _ => 2000000

/-- The state of ATTN (R185). -/
def Link.attn (l : Link) : Bool := !l.notices.isEmpty

/-- The first byte of a reply is sent (R182, R183, R185): it carries and clears the notices-lost mark, and frees the
request slot when it is the reply of the request in it. -/
def Link.startReply (l : Link) (r : LinkReply) (rest : List LinkReply) : Link :=
  { l with
    tx := some ⟨if r.resets then .resetReply else .reply, r.kind,
      [byte r.status.code, frameFlags l.lost l.attn] ++ r.data⟩
    replies := rest
    lost := false
    slotBusy := if r.fromSlot then false else l.slotBusy }

/-- The first byte of a notice is sent (R182): it stays in the queue until its last. -/
def Link.startNotice (l : Link) (q : QueuedNotice) : Link :=
  { l with tx := some ⟨.notice, q.notice.kind, frameFlags q.carriesLost l.attn :: q.notice.contents⟩ }

/-- The transmitter, when free, starts the oldest reply, or else the oldest notice (R184). -/
def Link.kick (l : Link) : Link :=
  if l.tx.isSome then l
  else
    match l.replies, l.notices with
    | r :: rest, _ => l.startReply r rest
    | [], q :: _ => l.startNotice q
    | [], [] => l

/-- The last byte of the frame being sent is sent (R184, R185): a notice leaves the queue. -/
def Link.endFrame (l : Link) (x : Tx) : Link :=
  { l with tx := none, notices := if x.source == .notice then l.notices.drop 1 else l.notices }

/-- The notices raised within a command join the queue, in the order raised. -/
def Link.notifyAll (l : Link) (ns : List Notice) : Link := ns.foldl Link.notify l

/-- The end of a command's effect: the notices it raised join the queue, and the transmitter starts when it can. -/
def State.settle (s : State) : State :=
  { s with part := { s.part with raised := [] }, link := (s.link.notifyAll s.part.raised).kick }

/-- The blocks other than the link are as a command leaves them. -/
def State.withPart (s : State) (p : Part) : State := { s with part := p }.settle

/-- A command that is no part of a cycle start finds every cycle start done: an open one is finished first
(notes/assumptions/3.md). -/
def State.ready (s : State) : State := if s.clock.stage = .closed then s else s.finishStart.settle

/-- Time passes to a position of the current cycle, which must not lie behind the present one. -/
def State.passTo (s : State) (pos : Nat) : Option State :=
  let s := s.ready
  if s.clock.pos ≤ pos && pos < Config.cycleSteps then some { s with clock := { s.clock with pos := pos } } else none

/-! ### The request slot -/

/-- What becomes of a request that passes its CRC (R183). -/
inductive Verdict where
  | discard | busy | take
deriving DecidableEq, Repr

/-- The verdict on a request (R183, R187): 8 places for replies, one of them kept for the request in the slot; BUSY while
the slot is occupied, while start-up runs, and after a RESET. -/
def Link.verdict (l : Link) (starting : Bool) : Verdict :=
  if Config.maxReplies ≤ l.replies.length || (l.slotBusy && Config.maxReplies ≤ l.replies.length + 1) then .discard
  else if l.slotBusy || l.resetArmed || starting then .busy
  else .take

/-- The kind of the reply to a request (R182). For an unknown kind of 0x80 or above the sum is taken modulo 256 (DESIGN
CHOICE, notes/assumptions/42.md). -/
def replyKind (kind : Byte) : Byte := kind + 0x80#8

/-- A BUSY reply, out of the slot (R183). -/
def Link.answerBusy (l : Link) (kind : Byte) : Link :=
  { l with replies := l.replies ++ [⟨replyKind kind, .busy, [], false, false⟩] }

/-- The reply of the request in the slot joins the replies waiting (R183). -/
def Link.answer (l : Link) (kind : Byte) (status : Status) (data : List Byte) : Link :=
  { l with slotBusy := true, replies := l.replies ++ [⟨replyKind kind, status, data, true, false⟩] }

/-- The reply of a RESET stands at the head of the replies waiting (R187). -/
def Link.answerReset (l : Link) : Link :=
  { l with slotBusy := true, resetArmed := true, replies := ⟨0x82#8, .ok, [], true, true⟩ :: l.replies }

/-- What a request's effect gives: the blocks after it, the status and the reply data. -/
abbrev Answer := Part × Status × List Byte

/-- A refused request changes nothing (R181). -/
def refuse (p : Part) (status : Status) : Answer := (p, status, [])

/-- A request carried out, with its reply data. -/
def okay (p : Part) (data : List Byte) : Answer := (p, .ok, data)

/-- The receiver has consumed the bytes of a whole frame. -/
def State.consumed (s : State) : State := { s with link := { s.link with rx := [] } }

/-- A request's effect and its reply (R181 to R183): the effect's notices are queued before the reply can start. Both come
at the instant of the CRC (DESIGN CHOICE, notes/assumptions/43.md). -/
def State.serve (s : State) (kind : Byte) (fits : Bool) (act : Clock → Part → Answer) : State :=
  let a := if fits then act s.clock s.part else refuse s.part .badLength
  ({ s with
     part := { a.1 with raised := [] }
     link := ((s.link.notifyAll a.1.raised).answer kind a.2.1 a.2.2).kick })

/-- A request passes its CRC (R181, R183): it is discarded, answered BUSY, or taken. `fits` is the length test of its
kind. -/
def State.request (s : State) (kind : Byte) (fits : Bool) (act : Clock → Part → Answer) : State :=
  let s := s.ready.consumed
  match s.link.verdict s.part.loader.isSome with
  | .discard => s
  | .busy => { s with link := (s.link.answerBusy kind).kick }
  | .take => s.serve kind fits act

/-! ### The receiver's hunt (R181) -/

/-- What the receiver finds at a sync byte: it needs more bytes, the frame is bad, or it is good. -/
inductive Hunt where
  | more
  | bad
  | good (kind : Byte) (body : List Byte) (rest : List Byte)
deriving DecidableEq, Repr

/-- The judgement of the bytes after a sync byte (R181). -/
def judgeFrame (bs : List Byte) : Hunt :=
  if bs.length < 2 then .more
  else
    let n := numAt bs 0 2
    if n == 0 || Config.maxFrameLength < n then .bad
    else if bs.length < n + 4 then .more
    else if be 2 (crc16 (bs.take (n + 2))).toNat == fieldAt bs (n + 2) 2 then
      .good (byteAt bs 2) (fieldAt bs 3 (n - 1)) (bs.drop (n + 4))
    else .bad

/-- The receiver hunts through bytes (R181): the good frames it finds, in order, and the bytes it keeps. `n` bounds the
bytes tried. -/
def hunt : Nat → List Byte → List (Byte × List Byte) × List Byte
  | 0, bs => ([], bs)
  | _ + 1, [] => ([], [])
  | n + 1, b :: bs =>
    if b != Config.syncByte then hunt n bs
    else
      match judgeFrame bs with
      | .more => ([], b :: bs)
      | .bad => hunt n bs
      | .good kind body rest =>
        let (fs, kept) := hunt n rest
        ((kind, body) :: fs, kept)

end Sys2Proof.Machine
end

