-- ==== Sys2Proof/Machine/Lifecycle.lean ====
section
/-!
DEFINITION. Machine/Lifecycle.lean: enabling and disabling a tree (1.2), the save and the start-up (12.5, 12.7, 12.8), and
the two resets.
-/

namespace Sys2Proof.Machine

/-! ### Enable and disable -/

/-- A tree becomes ENABLED (R4): scheduler, guard and light monitor start. -/
def Tree.enable (T : Tree) : Tree :=
  { T with
    enabled := true
    scheduler := ⟨.idle, 0, T.settings.spreadMin, T.scheduler.number⟩
    guard := .clear
    darkCount := 0
    lit := false
    lightSeen := false }

/-- TREE-ENABLE on one tree (R4): nothing on one already ENABLED, else a TREE notice. -/
def Part.enableTree (p : Part) (auto : Bool) (t : TreeId) : Part :=
  if (p.tree t).enabled then p else (p.modTree t Tree.enable).raise (.tree t true 0 auto)

/-- A tree becomes DISABLED (R5, R36, R50, R106, R145, R173): settings, counters and the window number stay. The light
monitor's dark count and the window timer, which R5 and R36 do not name, stay too, until an enable sets them to 0 (DESIGN
CHOICE, notes/assumptions/41.md). -/
def Tree.disable (T : Tree) : Tree :=
  { T with
    enabled := false
    queue := []
    heldOrders := []
    quiet := false
    seeks := []
    bursts := []
    arrivals := []
    scheduler := ⟨.idle, T.scheduler.timer, T.settings.spreadMin, T.scheduler.number⟩
    hellos := []
    measured := []
    rawCount := 0
    turnedAway := false
    expectations := []
    slotCounter := 0
    pushQueue := []
    engine := .idle
    fetchWait := none
    guard := .clear
    timerDone := false
    windowBegun := false
    spanDone := false
    darkDone := false }

/-- The records of a tree are freed without notice, and their entries lose the bound mark (R5, R66). -/
def Part.freeTree (p : Part) (t : TreeId) : Part :=
  let freed := (p.recordsOf t).map (·.tag)
  { p with
    records := p.records.filter fun r => !(r.tree == t)
    admission := p.admission.map fun e => if freed.contains e.tag then { e with bound := false } else e }

/-- TREE-DISABLE on one tree (R5): nothing on one already DISABLED, else one TREE notice with the records freed. -/
def Part.disableTree (p : Part) (t : TreeId) : Part :=
  if (p.tree t).enabled then
    (((p.dropFetch t).freeTree t).modTree t Tree.disable).raise (.tree t false (p.recordsOf t).length false)
  else p

/-! ### The save (R191, 12.8) -/

/-- A stored block: marker, length or count, CRC-16 over the body, body (12.8). -/
def storedBlock (marker : Byte) (count : Nat) (body : List Byte) : List Byte :=
  marker :: be 2 count ++ be 2 (crc16 body).toNat ++ body

/-- The body of the settings block (12.8). -/
def Part.settingsBody (p : Part) : List Byte :=
  (allTrees.map fun t => (p.tree t).settings.bytes).flatten
    ++ p.reportTable.a.bytes ++ p.reportTable.b.bytes ++ p.reportTable.c.bytes

/-- The settings block (12.8). -/
def Part.settingsBlock (p : Part) : List Byte := storedBlock 0xC3#8 460 p.settingsBody

/-- The admission block (12.8). -/
def Part.admissionBlock (p : Part) : List Byte :=
  storedBlock 0xC4#8 p.admission.length (p.admission.map AdmitEntry.stored).flatten

/-- The pages that a block of `n` bytes takes (12.8). -/
def pageCount (n : Nat) : Nat := (n + (Config.pageBytes - 1)) / Config.pageBytes

/-- The bytes that save number `save` writes for a block at an EEPROM offset: the block, and behind it free bytes up to the
end of its last page, since a write is of one whole page (R190; notes/assumptions/14.md). -/
def filledBlock (save base : Nat) (bs : List Byte) : List Byte :=
  bs ++ (List.range (Config.pageBytes * pageCount bs.length - bs.length)).map fun i =>
    Config.tailByte save (base + bs.length + i)

/-- A block as pages of 64 bytes in ascending offset (R190, R191). -/
def pagesOf (save base : Nat) (bs : List Byte) : List Page :=
  (List.range (pageCount bs.length)).map fun i =>
    ⟨base + Config.pageBytes * i, fieldAt (filledBlock save base bs) (Config.pageBytes * i) Config.pageBytes⟩

/-- The pages of the snapshot that a selector takes: settings before admission (R191). -/
def Part.snapshot (p : Part) (selector : Nat) : List Page :=
  (if selector == 1 || selector == 3 then pagesOf p.savesBegun Config.settingsBase p.settingsBlock else [])
    ++ (if selector == 2 || selector == 3 then pagesOf p.savesBegun Config.admissionBase p.admissionBlock else [])

/-- A save starts (R191). The next one draws other free bytes (notes/assumptions/14.md). -/
def Part.startSave (p : Part) (selector : Nat) : Part :=
  ({ p with
      save := some ⟨selector, p.snapshot selector, false⟩
      savesBegun := p.savesBegun + 1 }).serveBus

/-- The page write of a save has ended (R191): on to the next page, or the end of the save with STORE-DONE. The first page
gives NO-DEVICE whatever is wanting, its acknowledge or its end within 10 ms (DESIGN CHOICE, notes/assumptions/37.md). -/
def Part.pageWritten (p : Part) (v : Save) (address : Nat) (ack : Bool) : Part :=
  let p := p.endTransfer
  if ack then
    match v.pages.drop 1 with
    | [] => (({ p with save := none }).raise (.storeDone v.selector .ok 0)).serveBus
    | rest => ({ p with save := some ⟨v.selector, rest, true⟩ }).serveBus
  else
    (({ p with save := none }).raise
      (.storeDone v.selector (if v.anyWritten then .writeFail else .noDevice) address)).serveBus

/-! ### Start-up (R189) -/

/-- The stored flag of a report table slot (R189): other than 0 and 1 it leaves the default. -/
def storedFlag (b : Byte) : Bool := if b == 1 then true else if b == 0 then false else TableSlot.default.clearOnStale

/-- A slot of the report table as start-up applies it (R165, R189). -/
def storedSlot (bs : List Byte) : TableSlot :=
  ⟨byteAt bs 0, max 1 (byteAt bs 1).toNat, (clampInt 1 15 (byteAt bs 2).toNat).toNat, storedFlag (byteAt bs 3)⟩

/-- The values of the tree record at an offset of the settings body (12.8). -/
def storedValues (body : List Byte) (offset : Nat) : List Int :=
  (List.range 28).map fun i => fromBeInt32 (fieldAt body (offset + 4 * i) 4)

/-- The settings block's body is applied (R189): tree records field by field, and the report table. -/
def Part.applySettings (p : Part) (body : List Byte) : Part :=
  let put p t := Part.modTree p t fun T =>
    { T with settings := applyValues T.settings (storedValues body (112 * treeNo t)) }
  { p.eachTree put with
    reportTable :=
      ⟨storedSlot (fieldAt body 448 4), storedSlot (fieldAt body 452 4), storedSlot (fieldAt body 456 4)⟩ }

/-- An entry of ADMIT or of the admission block as its 27 bytes give it, or none for a bad field (R64, R69): a mask of 0
is stored as 15, label bytes beyond the length are not read. -/
def entryOf (bs : List Byte) : Option AdmitEntry :=
  let profile := (byteAt bs 8).toNat
  let mask := byteAt bs 9
  let n := (byteAt bs 10).toNat
  if 64 < profile || 15 < mask.toNat || 16 < n then none
  else
    some ⟨tagOf (fieldAt bs 0 8), profile, if mask == 0 then 15#4 else mask.setWidth 4, fieldAt bs 11 n, false, false,
      none⟩

/-- An entry replaces the fields of the entry of its tag (R69): the sighting goes when the mask changes (R68). -/
def AdmitEntry.updated (old new : AdmitEntry) : AdmitEntry :=
  { old with
    profile := new.profile
    mask := new.mask
    label := new.label
    sighting := if old.mask == new.mask then old.sighting else none }

/-- One entry of an ADMIT is applied (R69), or none when the list is full. -/
def Part.applyEntry (p : Part) (e : AdmitEntry) : Option Part :=
  if (p.entry? e.tag).isSome then some (p.modEntry e.tag (·.updated e))
  else if p.admission.length < Config.maxAdmission then
    some { p with
      admission := p.admission ++ [e]
      unclaimedTags := p.unclaimedTags.filter (·.tag != e.tag) }
  else none

/-- Entries are applied one at a time until the list is full (R69): the count applied. -/
def Part.applyEntries (p : Part) : List AdmitEntry → Nat → Part × Nat
  | [], n => (p, n)
  | e :: rest, n =>
    match p.applyEntry e with
    | some q => q.applyEntries rest (n + 1)
    | none => (p, n)

/-- The start-up loader has read what it needs of the admission block, or the store strap is low: the START-UP notice is
queued, then each tree with auto_start on is enabled (R189). -/
def Part.finishStartUp (p : Part) (kind : ResetKind) (settings admission : StartResult) (applied skipped : Nat) : Part :=
  let auto t := (p.tree t).settings.autoStart
  let p := ({ p with loader := none }).raise (.startUp kind settings admission applied skipped (maskOf auto))
  (allTrees.filter auto).foldl (fun p t => p.enableTree true t) p

/-- The loader reads at an EEPROM offset (R189, R190). -/
def Part.loaderReads (p : Part) (address length : Nat) : Part :=
  { p with master := ⟨some ⟨.loader, .block, address, length, false⟩, p.master.last⟩ }

/-- Start-up begins (R189): with the store strap high the loader reads the settings block, page by page
(notes/assumptions/13.md). -/
def Part.startUp (p : Part) (kind : ResetKind) : Part :=
  if p.straps.store then ({ p with loader := some ⟨kind, none, []⟩ }).loaderReads Config.settingsBase Config.pageBytes
  else p.finishStartUp kind .noDevice .noDevice 0 0

/-- The settings block is judged (R189, 12.8): the loader goes on to the admission block. -/
def Part.settingsJudged (p : Part) (v : Loader) (result : StartResult) : Part :=
  ({ p with loader := some ⟨v.kind, some result, []⟩ }).loaderReads Config.admissionBase Config.pageBytes

/-- Whether the settings block passes (12.8). -/
def settingsBlockGood (bs : List Byte) : Bool :=
  byteAt bs 0 == 0xC3#8 && numAt bs 1 2 == 460 && be 2 (crc16 (fieldAt bs 5 460)).toNat == fieldAt bs 3 2

/-- Bytes of the settings block have come in (R189). -/
def Part.settingsRead (p : Part) (v : Loader) (got : List Byte) : Part :=
  if got.length < Config.settingsBlockBytes then
    ({ p with loader := some ⟨v.kind, none, got⟩ }).loaderReads (Config.settingsBase + got.length)
      (min Config.pageBytes (Config.settingsBlockBytes - got.length))
  else if settingsBlockGood got then (p.applySettings (fieldAt got 5 460)).settingsJudged v .loaded
  else p.settingsJudged v .defaulted

/-- The admission block's entries are applied (R64): those that ADMIT would refuse are skipped. -/
def Part.admissionApplied (p : Part) (v : Loader) (settings : StartResult) (entries : List (List Byte)) : Part :=
  let good := entries.filterMap entryOf
  let (p, applied) := p.applyEntries good 0
  p.finishStartUp v.kind settings .loaded applied (entries.length - good.length)

/-- Bytes of the admission block have come in (R189, 12.8). -/
def Part.admissionRead (p : Part) (v : Loader) (settings : StartResult) (got : List Byte) : Part :=
  let n := numAt got 1 2
  if byteAt got 0 != 0xC4#8 || 256 < n then p.finishStartUp v.kind settings .defaulted 0 0
  else if got.length < 5 + 27 * n then
    ({ p with loader := some ⟨v.kind, some settings, got⟩ }).loaderReads (Config.admissionBase + got.length)
      (min Config.pageBytes (5 + 27 * n - got.length))
  else
    let body := fieldAt got 5 (27 * n)
    if be 2 (crc16 body).toNat == fieldAt got 3 2 then p.admissionApplied v settings (chunks27 body)
    else p.finishStartUp v.kind settings .defaulted 0 0

/-- A read of the loader has ended (R189): without acknowledge, the block under way is a FAULT and leaves the defaults. -/
def Part.loaderRead (p : Part) (v : Loader) (result : Option (List Byte)) : Part :=
  match v.settings, result with
  | none, none => p.settingsJudged v .fault
  | none, some bs => p.settingsRead v (v.got ++ bs)
  | some settings, none => p.finishStartUp v.kind settings .fault 0 0
  | some settings, some bs => p.admissionRead v settings (v.got ++ bs)

/-! ### The two resets (R188) -/

/-- The strap value of the two rate straps (R180). -/
def Straps.rateCode (s : Straps) : Nat := 2 * (if s.rate1 then 1 else 0) + (if s.rate0 then 1 else 0)

/-- The internal slots after a soft reset (R138, R188): a READY slot stays, any other is EMPTY. -/
def ProfileSlot.kept (v : ProfileSlot) : ProfileSlot := if v.state == .ready then v else .empty

/-- A reset with its start-up (R188, R189). The commands that wait are outside the part. The rate straps are read here
(R180), and the store strap too, which then stands until the next reset (DESIGN CHOICE, notes/assumptions/44.md). The count of saves begun is
the model's own and goes on (notes/assumptions/14.md). -/
def State.restart (s : State) (kind : ResetKind) (straps : Straps) (slots : Vector ProfileSlot 16) : State :=
  State.settle
    { s with
      clock := .afterReset
      part := ({ Part.afterReset straps slots with savesBegun := s.part.savesBegun }).startUp kind
      link := .afterReset straps.rateCode }

/-- A power-on reset (R188). -/
def State.powerOn (s : State) (straps : Straps) : State := s.restart .powerOn straps emptySlots

/-- A soft reset (R187, R188). -/
def State.softReset (s : State) (straps : Straps) : State := s.restart .soft straps (s.part.slots.map ProfileSlot.kept)

end Sys2Proof.Machine
end

