-- ==== Sys2Proof/Machine/TreeRequests.lean ====
section
/-!
DEFINITION. Machine/TreeRequests.lean: the requests on the link and on the trees: IDENTIFY, RESET, STORE-SAVE,
TREE-ENABLE, TREE-DISABLE, TREE-SET, TREE-GET (1.2, 1.8, 12.4, 12.7).

Each request has its effect as an `Answer` (the blocks after it, the status, the reply data), its frame as a state
(`serve…`), and its meaning (`exec…`).
-/

namespace Sys2Proof.Machine

/-! ### IDENTIFY (R186) -/

/-- The data of the IDENTIFY reply (R186, 12.10). -/
def identifyData (rateCode : Nat) (store : Bool) : List Byte :=
  be 2 0x4750 ++ be 2 0x0A04 ++ [1#8, byte rateCode, flagByte store, 4#8, 192#8, 64#8] ++ be 2 256 ++ [16#8, 16#8]
    ++ be 2 4096 ++ [64#8, 32#8, 16#8]

/-- The effect of IDENTIFY (R186): the read changes nothing. -/
def identifyAnswer (rateCode : Nat) (_ : Clock) (p : Part) : Answer := okay p (identifyData rateCode p.straps.store)

/-- An IDENTIFY frame passes its CRC. -/
def State.serveIdentify (s : State) (body : List Byte) : State :=
  s.request 0x01#8 (body.length == 0) (identifyAnswer s.link.rateCode)

/-- IDENTIFY (R186). -/
def execIdentify (body : List Byte) (s : State) : Host.Outcome State Fault Refusal := .next (s.serveIdentify body)

/-! ### RESET (R187) -/

/-- A RESET frame passes its CRC (R187): its reply OK stands at the head of the replies waiting, and the soft reset takes
effect when its last byte has been sent. -/
def State.serveReset (s : State) (body : List Byte) : State :=
  let s := s.ready.consumed
  match s.link.verdict s.part.loader.isSome with
  | .discard => s
  | .busy => { s with link := (s.link.answerBusy 0x02#8).kick }
  | .take =>
    if body.length == 0 then { s with link := s.link.answerReset.kick }
    else { s with link := (s.link.answer 0x02#8 .badLength []).kick }

/-- RESET (R187). -/
def execReset (body : List Byte) (s : State) : Host.Outcome State Fault Refusal := .next (s.serveReset body)

/-! ### STORE-SAVE (R191) -/

/-- The effect of STORE-SAVE (R191). -/
def storeSaveAnswer (body : List Byte) (_ : Clock) (p : Part) : Answer :=
  let selector := (byteAt body 0).toNat
  if selector < 1 || 3 < selector then refuse p .badField
  else if !p.straps.store then refuse p .noDevice
  else if p.save.isSome then refuse p .busy
  else okay (p.startSave selector) []

/-- A STORE-SAVE frame passes its CRC. -/
def State.serveStoreSave (s : State) (body : List Byte) : State :=
  s.request 0x03#8 (body.length == 1) (storeSaveAnswer body)

/-- STORE-SAVE (R191). -/
def execStoreSave (body : List Byte) (s : State) : Host.Outcome State Fault Refusal := .next (s.serveStoreSave body)

/-! ### TREE-ENABLE and TREE-DISABLE (R4, R5) -/

/-- The effect of TREE-ENABLE (R4). -/
def treeEnableAnswer (body : List Byte) (_ : Clock) (p : Part) : Answer :=
  match maskAt body 0 with
  | none => refuse p .badField
  | some m => okay ((treesOf m).foldl (fun p t => p.enableTree false t) p) []

/-- A TREE-ENABLE frame passes its CRC. -/
def State.serveTreeEnable (s : State) (body : List Byte) : State :=
  s.request 0x08#8 (body.length == 1) (treeEnableAnswer body)

/-- TREE-ENABLE (R4). -/
def execTreeEnable (body : List Byte) (s : State) : Host.Outcome State Fault Refusal := .next (s.serveTreeEnable body)

/-- The effect of TREE-DISABLE (R5). -/
def treeDisableAnswer (body : List Byte) (_ : Clock) (p : Part) : Answer :=
  match maskAt body 0 with
  | none => refuse p .badField
  | some m => okay ((treesOf m).foldl Part.disableTree p) []

/-- A TREE-DISABLE frame passes its CRC. -/
def State.serveTreeDisable (s : State) (body : List Byte) : State :=
  s.request 0x09#8 (body.length == 1) (treeDisableAnswer body)

/-- TREE-DISABLE (R5). -/
def execTreeDisable (body : List Byte) (s : State) : Host.Outcome State Fault Refusal := .next (s.serveTreeDisable body)

/-! ### TREE-SET and TREE-GET (R17, R19) -/

/-- Whether a TREE-SET is refused with IN-USE (R17, step 2): a tree of the mask is ENABLED and a pair would change its
field 1, 2 or 3. -/
def Part.setInUse (p : Part) (m : TreeMask) (pairs : List (Nat × Int)) : Bool :=
  (treesOf m).any fun t => (p.tree t).enabled && pairs.any (changesLocked (p.tree t).settings)

/-- The pairs are stored on one tree (R17, step 3); a pair that stores guard_mask acts on the guard after
all are stored: a resume timer that starts, and the test of R146 that the end of DARK makes, read resume_delay, fallback,
stall_limit and every other field as the whole request leaves them (R146, R177, R179; DESIGN CHOICE,
notes/assumptions/19.md). -/
def Part.setTree (p : Part) (k : Clock) (pairs : List (Nat × Int)) (t : TreeId) : Part :=
  let p := p.modTree t fun T => { T with settings := storePairs T.settings pairs }
  if pairs.any (·.1 == 23) then p.guardMaskStored k t else p

/-- The effect of TREE-SET (R17). -/
def treeSetAnswer (body : List Byte) (k : Clock) (p : Part) : Answer :=
  match maskAt body 0 with
  | none => refuse p .badField
  | some m =>
    let pairs := pairsOf (body.drop 1)
    if pairs.any fun q => badPair q.1 q.2 then refuse p .badField
    else if p.setInUse m pairs then refuse p .inUse
    else
      let p := (treesOf m).foldl (fun p t => p.setTree k pairs t) p
      okay p (p.tree (highestTree m)).settings.bytes

/-- The lengths of a TREE-SET body: 1 + 5 for each of 0 to 28 pairs (12.10). -/
def treeSetFits (n : Nat) : Bool := 1 ≤ n && (n - 1) % 5 == 0 && n ≤ 141

/-- A TREE-SET frame passes its CRC. -/
def State.serveTreeSet (s : State) (body : List Byte) : State :=
  s.request 0x0A#8 (treeSetFits body.length) (treeSetAnswer body)

/-- TREE-SET (R17). -/
def execTreeSet (body : List Byte) (s : State) : Host.Outcome State Fault Refusal := .next (s.serveTreeSet body)

/-- The data of the TREE-GET reply for one tree (R19, 12.10). -/
def treeGetData (t : TreeId) (T : Tree) : List Byte :=
  [byte (treeNo t)] ++ T.settings.bytes
    ++ [flagByte T.enabled, flagByte T.guard.hush, T.guard.present.code, byte T.scheduler.spread, T.scheduler.number]
    ++ T.counters.bytes

/-- The counters of a tree become 0 (R19). -/
def Part.clearCounters (p : Part) (t : TreeId) : Part := p.modCounters t fun _ => .zero

/-- The effect of TREE-GET (R19); a flag byte other than 0 clears (12.10). -/
def treeGetAnswer (body : List Byte) (_ : Clock) (p : Part) : Answer :=
  match maskAt body 0 with
  | none => refuse p .badField
  | some m =>
    let t := highestTree m
    okay (if byteAt body 1 == 0 then p else (treesOf m).foldl Part.clearCounters p) (treeGetData t (p.tree t))

/-- A TREE-GET frame passes its CRC. -/
def State.serveTreeGet (s : State) (body : List Byte) : State :=
  s.request 0x0B#8 (body.length == 2) (treeGetAnswer body)

/-- TREE-GET (R19). -/
def execTreeGet (body : List Byte) (s : State) : Host.Outcome State Fault Refusal := .next (s.serveTreeGet body)

end Sys2Proof.Machine
end

