-- ==== Sys2Proof/Machine/AdmissionRequests.lean ====
section
/-!
DEFINITION. Machine/AdmissionRequests.lean: the requests on the admission list and the unclaimed list (chapter 5).
-/

namespace Sys2Proof.Machine

/-! ### ADMIT (R69) -/

/-- The effect of ADMIT (R69): FULL, with the count applied, when processing stopped. -/
def admitAnswer (body : List Byte) (_ : Clock) (p : Part) : Answer :=
  let entries := (chunks27 body).map entryOf
  if entries.any Option.isNone then refuse p .badField
  else
    let r := p.applyEntries (entries.filterMap id) 0
    (r.1, if r.2 == entries.length then .ok else .full, [byte r.2])

/-- The lengths of an ADMIT body: 1 to 8 entries of 27 bytes (12.10). -/
def admitFits (n : Nat) : Bool := n % 27 == 0 && 27 ≤ n && n ≤ 216

/-- An ADMIT frame passes its CRC. -/
def State.serveAdmit (s : State) (body : List Byte) : State :=
  s.request 0x10#8 (admitFits body.length) (admitAnswer body)

/-- ADMIT (R69). -/
def execAdmit (body : List Byte) (s : State) : Host.Outcome State Fault Refusal := .next (s.serveAdmit body)

/-! ### UNADMIT (R70) -/

/-- The effect of UNADMIT (R70). -/
def unadmitAnswer (body : List Byte) (_ : Clock) (p : Part) : Answer :=
  let g := tagOf (fieldAt body 0 8)
  match p.entry? g with
  | none => refuse p .notFound
  | some e =>
    if e.bound then refuse p .inUse
    else okay { p with admission := p.admission.filter (·.tag != g) } []

/-- An UNADMIT frame passes its CRC. -/
def State.serveUnadmit (s : State) (body : List Byte) : State :=
  s.request 0x11#8 (body.length == 8) (unadmitAnswer body)

/-- UNADMIT (R70). -/
def execUnadmit (body : List Byte) (s : State) : Host.Outcome State Fault Refusal := .next (s.serveUnadmit body)

/-! ### ADMIT-READ (R71) -/

/-- The entries of a list from a start index, up to a count, each with its index (R71). -/
def listedFrom (list : List AdmitEntry) (start count : Nat) : List Byte :=
  ((((list.drop start).take count).zipIdx start).map fun q => q.1.listed q.2).flatten

/-- The effect of ADMIT-READ (R71): the read changes nothing. -/
def admitReadAnswer (body : List Byte) (_ : Clock) (p : Part) : Answer :=
  let count := (byteAt body 1).toNat
  if count == 0 || 16 < count then refuse p .badField
  else okay p (be 2 p.admission.length ++ listedFrom p.admission (byteAt body 0).toNat count)

/-- An ADMIT-READ frame passes its CRC. -/
def State.serveAdmitRead (s : State) (body : List Byte) : State :=
  s.request 0x12#8 (body.length == 2) (admitReadAnswer body)

/-- ADMIT-READ (R71). -/
def execAdmitRead (body : List Byte) (s : State) : Host.Outcome State Fault Refusal := .next (s.serveAdmitRead body)

/-! ### ADMIT-CLEAR (R72) -/

/-- The effect of ADMIT-CLEAR (R72). -/
def admitClearAnswer (_ : Clock) (p : Part) : Answer :=
  let kept := p.admission.filter (·.bound)
  okay { p with admission := kept } (be 2 (p.admission.length - kept.length))

/-- An ADMIT-CLEAR frame passes its CRC. -/
def State.serveAdmitClear (s : State) (body : List Byte) : State :=
  s.request 0x13#8 (body.length == 0) admitClearAnswer

/-- ADMIT-CLEAR (R72). -/
def execAdmitClear (body : List Byte) (s : State) : Host.Outcome State Fault Refusal := .next (s.serveAdmitClear body)

/-! ### UNCLAIMED-READ and UNCLAIMED-CLEAR (R75, R76) -/

/-- The effect of UNCLAIMED-READ (R75): the read changes nothing. -/
def unclaimedReadAnswer (_ : Clock) (p : Part) : Answer :=
  okay p (byte p.unclaimedTags.length :: (p.unclaimedTags.map UnclaimedEntry.bytes).flatten)

/-- An UNCLAIMED-READ frame passes its CRC. -/
def State.serveUnclaimedRead (s : State) (body : List Byte) : State :=
  s.request 0x14#8 (body.length == 0) unclaimedReadAnswer

/-- UNCLAIMED-READ (R75). -/
def execUnclaimedRead (body : List Byte) (s : State) : Host.Outcome State Fault Refusal :=
  .next (s.serveUnclaimedRead body)

/-- The effect of UNCLAIMED-CLEAR (R76), without a tag or with one. -/
def unclaimedClearAnswer (body : List Byte) (_ : Clock) (p : Part) : Answer :=
  if body.isEmpty then okay { p with unclaimedTags := [] } [byte p.unclaimedTags.length]
  else
    let g := tagOf (fieldAt body 0 8)
    if p.unclaimedTags.any (·.tag == g) then
      okay { p with unclaimedTags := p.unclaimedTags.filter (·.tag != g) } [1]
    else refuse p .notFound

/-- An UNCLAIMED-CLEAR frame passes its CRC. -/
def State.serveUnclaimedClear (s : State) (body : List Byte) : State :=
  s.request 0x15#8 (body.length == 0 || body.length == 8) (unclaimedClearAnswer body)

/-- UNCLAIMED-CLEAR (R76). -/
def execUnclaimedClear (body : List Byte) (s : State) : Host.Outcome State Fault Refusal :=
  .next (s.serveUnclaimedClear body)

end Sys2Proof.Machine
end

