-- ==== Sys2Proof/Machine/TableRequests.lean ====
section
/-!
DEFINITION. Machine/TableRequests.lean: the requests on the terminal table (6.6) and the orders STANDDOWN and LIFT by
request.
-/

namespace Sys2Proof.Machine

/-- The effect of a request that names a record by tree and handle: BAD-FIELD out of range, NOT-FOUND when it is FREE. -/
def withRecord (p : Part) (body : List Byte) (f : TreeId → Nat → Record → Answer) : Answer :=
  match recordAt body 0 with
  | none => refuse p .badField
  | some (t, h) =>
    match p.record? t h with
    | none => refuse p .notFound
    | some r => f t h r

/-! ### TERMINAL-READ, TERMINAL-FIND, TERMINAL-LIST (R97 to R99) -/

/-- The effect of TERMINAL-READ (R97): a FREE record gives NOT-FOUND with the reserved byte. -/
def terminalReadAnswer (body : List Byte) (_ : Clock) (p : Part) : Answer :=
  match recordAt body 0 with
  | none => refuse p .badField
  | some (t, h) =>
    match p.record? t h with
    | none => (p, .notFound, [flagByte (p.reserved t h)])
    | some r => okay p r.bytes

/-- A TERMINAL-READ frame passes its CRC. -/
def State.serveTerminalRead (s : State) (body : List Byte) : State :=
  s.request 0x18#8 (body.length == 2) (terminalReadAnswer body)

/-- TERMINAL-READ (R97). -/
def execTerminalRead (body : List Byte) (s : State) : Host.Outcome State Fault Refusal :=
  .next (s.serveTerminalRead body)

/-- The effect of TERMINAL-FIND (R98): the read changes nothing. -/
def terminalFindAnswer (body : List Byte) (_ : Clock) (p : Part) : Answer :=
  match p.recordOf? (tagOf (fieldAt body 0 8)) with
  | none => refuse p .notFound
  | some r => okay p [byte (treeNo r.tree), byte r.handle, byte r.state.code, byte r.cause.code]

/-- A TERMINAL-FIND frame passes its CRC. -/
def State.serveTerminalFind (s : State) (body : List Byte) : State :=
  s.request 0x19#8 (body.length == 8) (terminalFindAnswer body)

/-- TERMINAL-FIND (R98). -/
def execTerminalFind (body : List Byte) (s : State) : Host.Outcome State Fault Refusal :=
  .next (s.serveTerminalFind body)

/-- Whether a record meets the tests of TERMINAL-LIST (R99). -/
def Record.inList (r : Record) (m : TreeMask) (states : Byte) (start : Nat) : Bool :=
  inMask m r.tree && states.getLsbD r.state.code && start ≤ r.key

/-- The data of the TERMINAL-LIST reply (R99): up to 32 records, the more-follows flag and the next start key. -/
def listData (found : List Record) : List Byte :=
  let carried := found.take 32
  let next := (carried.getLast?.map fun r => r.key + 1).getD 256
  [byte carried.length, flagByte (32 < found.length)] ++ be 2 next
    ++ (carried.map fun r => [byte (treeNo r.tree), byte r.handle, byte r.state.code]).flatten

/-- A state set of TERMINAL-LIST is refused when it names FREE or no state; bit 7 is not read (R99, 12.10). -/
def badStateSet (states : Byte) : Bool := states.getLsbD 0 || states &&& 0x7E#8 == 0

/-- The effect of TERMINAL-LIST (R99): the read changes nothing. -/
def terminalListAnswer (body : List Byte) (_ : Clock) (p : Part) : Answer :=
  match maskAt body 0 with
  | none => refuse p .badField
  | some m =>
    if badStateSet (byteAt body 1) then refuse p .badField
    else okay p (listData (p.records.filter (·.inList m (byteAt body 1) (byteAt body 2).toNat)))

/-- A TERMINAL-LIST frame passes its CRC. -/
def State.serveTerminalList (s : State) (body : List Byte) : State :=
  s.request 0x1A#8 (body.length == 3) (terminalListAnswer body)

/-- TERMINAL-LIST (R99). -/
def execTerminalList (body : List Byte) (s : State) : Host.Outcome State Fault Refusal :=
  .next (s.serveTerminalList body)

/-! ### RETIRE, RELEASE, REALIGN, RELOAD (R100 to R103) -/

/-- Whether a record's terminal holds its handle: ALIGNING, LOADING or IN_SERVICE (R100, R102). -/
def RecState.aligned : RecState → Bool
  | .aligning | .loading | .inService => true
  | .free | .heard | .refind | .held => false

/-- The effect of RETIRE (R100). -/
def retireAnswer (body : List Byte) (k : Clock) (p : Part) : Answer :=
  withRecord p body fun t h r =>
    let q := if r.state.aligned then p.offer t (.relisten h) else p
    okay (q.freeRecord k t h .byRequest) [byte r.state.code]

/-- A RETIRE frame passes its CRC. -/
def State.serveRetire (s : State) (body : List Byte) : State :=
  s.request 0x1B#8 (body.length == 2) (retireAnswer body)

/-- RETIRE (R100). -/
def execRetire (body : List Byte) (s : State) : Host.Outcome State Fault Refusal := .next (s.serveRetire body)

/-- The effect of RELEASE (R101): the conflict mark of the entry is cleared with the freeing. -/
def releaseAnswer (body : List Byte) (k : Clock) (p : Part) : Answer :=
  withRecord p body fun t h r =>
    if r.state == .held then
      okay ((p.modEntry r.tag fun e => { e with conflict := false }).freeRecord k t h .byRequest) []
    else refuse p .wrongState

/-- A RELEASE frame passes its CRC. -/
def State.serveRelease (s : State) (body : List Byte) : State :=
  s.request 0x1C#8 (body.length == 2) (releaseAnswer body)

/-- RELEASE (R101). -/
def execRelease (body : List Byte) (s : State) : Host.Outcome State Fault Refusal := .next (s.serveRelease body)

/-- The effect of REALIGN (R102). -/
def realignAnswer (body : List Byte) (k : Clock) (p : Part) : Answer :=
  withRecord p body fun t h r =>
    if r.state.aligned then okay (p.enterRefind k t h .byRequest) [] else refuse p .wrongState

/-- A REALIGN frame passes its CRC. -/
def State.serveRealign (s : State) (body : List Byte) : State :=
  s.request 0x1D#8 (body.length == 2) (realignAnswer body)

/-- REALIGN (R102). -/
def execRealign (body : List Byte) (s : State) : Host.Outcome State Fault Refusal := .next (s.serveRealign body)

/-- The profile that a record's admission entry names (R65). -/
def Part.profileOf (p : Part) (r : Record) : Nat := ((p.entry? r.tag).map (·.profile)).getD 0

/-- The effect of RELOAD (R103): the state test comes before the profile test. -/
def reloadAnswer (body : List Byte) (k : Clock) (p : Part) : Answer :=
  withRecord p body fun t h r =>
    if r.state != .inService then refuse p .wrongState
    else if p.profileOf r == 0 then refuse p .badField
    else okay (p.enterLoading k t h (p.profileOf r) .byRequest) []

/-- A RELOAD frame passes its CRC. -/
def State.serveReload (s : State) (body : List Byte) : State :=
  s.request 0x1E#8 (body.length == 2) (reloadAnswer body)

/-- RELOAD (R103). -/
def execReload (body : List Byte) (s : State) : Host.Outcome State Fault Refusal := .next (s.serveReload body)

/-! ### STANDDOWN and LIFT (R104, R105) -/

/-- An order is offered on each tree of a mask (R104, R105); a DISABLED tree drops it (R3). -/
def Part.offerOn (p : Part) (m : TreeMask) (o : Order) : Part := (treesOf m).foldl (fun p t => p.offer t o) p

/-- The ENABLED trees of a mask (R104). -/
def Part.enabledOf (p : Part) (m : TreeMask) : TreeMask := maskOf fun t => inMask m t && (p.tree t).enabled

/-- The record of a tag is stood down when its tree is in the mask and it is not HELD (R104). -/
def Part.standRecordDown (p : Part) (k : Clock) (m : TreeMask) (g : Tag) : Part :=
  match p.recordOf? g with
  | none => p
  | some r => if inMask m r.tree && r.state != .held then p.enterHeld k r.tree r.handle .stoodDown else p

/-- The effect of STANDDOWN (R104). -/
def standdownAnswer (body : List Byte) (k : Clock) (p : Part) : Answer :=
  match maskAt body 0 with
  | none => refuse p .badField
  | some m =>
    let g := tagOf (fieldAt body 1 8)
    okay ((p.offerOn m (.standdown g)).standRecordDown k m g) [(p.enabledOf m).setWidth 8]

/-- A STANDDOWN frame passes its CRC. -/
def State.serveStanddown (s : State) (body : List Byte) : State :=
  s.request 0x1F#8 (body.length == 9) (standdownAnswer body)

/-- STANDDOWN (R104). -/
def execStanddown (body : List Byte) (s : State) : Host.Outcome State Fault Refusal := .next (s.serveStanddown body)

/-- The effect of LIFT (R105): no record changes state. -/
def liftAnswer (body : List Byte) (_ : Clock) (p : Part) : Answer :=
  match maskAt body 0 with
  | none => refuse p .badField
  | some m => okay (p.offerOn m (.lift (tagOf (fieldAt body 1 8)))) [(p.enabledOf m).setWidth 8]

/-- A LIFT frame passes its CRC. -/
def State.serveLift (s : State) (body : List Byte) : State := s.request 0x20#8 (body.length == 9) (liftAnswer body)

/-- LIFT (R105). -/
def execLift (body : List Byte) (s : State) : Host.Outcome State Fault Refusal := .next (s.serveLift body)

end Sys2Proof.Machine
end

