-- ==== Sys2Proof/Machine/ProfileRequests.lean ====
section
/-!
DEFINITION. Machine/ProfileRequests.lean: the requests on the internal profile slots and on a streamed push (9.2, 9.5,
9.6).
-/

namespace Sys2Proof.Machine

/-- The effect of a request that names an internal slot: BAD-FIELD outside 1..16. -/
def withSlot (p : Part) (body : List Byte) (f : Nat → Answer) : Answer :=
  match profileSlotAt body with
  | none => refuse p .badField
  | some n => f n

/-- Whether an internal slot is in use (R138). -/
def Part.slotInUse (p : Part) (n : Nat) : Bool := p.slotUsers n != 0

/-! ### PROFILE-OPEN, PROFILE-WRITE, PROFILE-CLOSE, PROFILE-ERASE, PROFILE-INFO (R139 to R143) -/

/-- The effect of PROFILE-OPEN (R139). -/
def profileOpenAnswer (body : List Byte) (_ : Clock) (p : Part) : Answer :=
  withSlot p body fun n =>
    if p.slotInUse n then refuse p .inUse else okay (p.setSlot n ⟨.writing, []⟩) []

/-- A PROFILE-OPEN frame passes its CRC. -/
def State.serveProfileOpen (s : State) (body : List Byte) : State :=
  s.request 0x28#8 (body.length == 1) (profileOpenAnswer body)

/-- PROFILE-OPEN (R139). -/
def execProfileOpen (body : List Byte) (s : State) : Host.Outcome State Fault Refusal := .next (s.serveProfileOpen body)

/-- The effect of PROFILE-WRITE (R140). -/
def profileWriteAnswer (body : List Byte) (_ : Clock) (p : Part) : Answer :=
  withSlot p body fun n =>
    let v := p.slot n
    let data := body.drop 3
    if v.state != .writing || numAt body 1 2 != v.bytes.length || Config.slotBytes < v.bytes.length + data.length then
      refuse p .badField
    else okay (p.setSlot n ⟨.writing, v.bytes ++ data⟩) (be 2 (v.bytes.length + data.length))

/-- A PROFILE-WRITE frame passes its CRC. -/
def State.serveProfileWrite (s : State) (body : List Byte) : State :=
  s.request 0x29#8 (4 ≤ body.length && body.length ≤ 195) (profileWriteAnswer body)

/-- PROFILE-WRITE (R140). -/
def execProfileWrite (body : List Byte) (s : State) : Host.Outcome State Fault Refusal :=
  .next (s.serveProfileWrite body)

/-- The effect of PROFILE-CLOSE (R141). -/
def profileCloseAnswer (body : List Byte) (_ : Clock) (p : Part) : Answer :=
  withSlot p body fun n =>
    let v := p.slot n
    if v.state != .writing then refuse p .wrongState
    else
      let w : ProfileSlot := ⟨if v.bytes.isEmpty then .empty else .ready, v.bytes⟩
      okay (p.setSlot n w) (byte w.state.code :: be 2 w.bytes.length)

/-- A PROFILE-CLOSE frame passes its CRC. -/
def State.serveProfileClose (s : State) (body : List Byte) : State :=
  s.request 0x2A#8 (body.length == 1) (profileCloseAnswer body)

/-- PROFILE-CLOSE (R141). -/
def execProfileClose (body : List Byte) (s : State) : Host.Outcome State Fault Refusal :=
  .next (s.serveProfileClose body)

/-- The effect of PROFILE-ERASE (R142). -/
def profileEraseAnswer (body : List Byte) (_ : Clock) (p : Part) : Answer :=
  withSlot p body fun n => if p.slotInUse n then refuse p .inUse else okay (p.setSlot n .empty) []

/-- A PROFILE-ERASE frame passes its CRC. -/
def State.serveProfileErase (s : State) (body : List Byte) : State :=
  s.request 0x2B#8 (body.length == 1) (profileEraseAnswer body)

/-- PROFILE-ERASE (R142). -/
def execProfileErase (body : List Byte) (s : State) : Host.Outcome State Fault Refusal :=
  .next (s.serveProfileErase body)

/-- The effect of PROFILE-INFO (R143): the read changes nothing. -/
def profileInfoAnswer (body : List Byte) (_ : Clock) (p : Part) : Answer :=
  withSlot p body fun n =>
    let v := p.slot n
    okay p ([byte v.state.code] ++ be 2 v.bytes.length ++ [(p.slotUsers n).setWidth 8])

/-- A PROFILE-INFO frame passes its CRC. -/
def State.serveProfileInfo (s : State) (body : List Byte) : State :=
  s.request 0x2C#8 (body.length == 1) (profileInfoAnswer body)

/-- PROFILE-INFO (R143). -/
def execProfileInfo (body : List Byte) (s : State) : Host.Outcome State Fault Refusal := .next (s.serveProfileInfo body)

/-! ### PUSH-BEGIN and PUSH-DATA (R148, R150) -/

/-- The record of the streamed push that an engine is RESOLVING (R148). -/
def Part.waitingStream (p : Part) (t : TreeId) : Option Record :=
  let e := p.engine t
  if e.state == .resolving && e.profile == 64 then e.serving.bind (p.record? t) else none

/-- The effect of PUSH-BEGIN (R148). One that comes at the instant of the begin timer's expiry, after it, is accepted for the
new attempt when the requeued record has been taken again at once (DESIGN CHOICE, notes/assumptions/47.md). -/
def pushBeginAnswer (body : List Byte) (k : Clock) (p : Part) : Answer :=
  let n := numAt body 1 2
  match treeOf (byteAt body 0).toNat with
  | none => refuse p .badField
  | some t =>
    if n == 0 || Config.slotBytes < n then refuse p .badField
    else
      match p.waitingStream t with
      | none => refuse p .wrongState
      | some r =>
        okay (p.startPreparing k t r.handle .streamed n) (byte r.handle :: tagBytes r.tag ++ be 2 Config.fifoBytes)

/-- A PUSH-BEGIN frame passes its CRC. -/
def State.servePushBegin (s : State) (body : List Byte) : State :=
  s.request 0x2D#8 (body.length == 3) (pushBeginAnswer body)

/-- PUSH-BEGIN (R148). -/
def execPushBegin (body : List Byte) (s : State) : Host.Outcome State Fault Refusal := .next (s.servePushBegin body)

/-- Whether an engine takes bytes of a streamed image (R150). -/
def Engine.takesStream (e : Engine) : Bool :=
  e.source == some .streamed && (e.state == .preparing || e.state == .settling || e.state == .streaming)

/-- The count of bytes that an engine accepts of `n` (R150). -/
def Engine.acceptCount (e : Engine) (n : Nat) : Nat := min n (min e.freeSpace (e.imageLength - e.fillCount))

/-- The effect of PUSH-DATA (R150): a pause ends when the next cell's bytes have entered (R157). -/
def pushDataAnswer (body : List Byte) (k : Clock) (p : Part) : Answer :=
  match treeOf (byteAt body 0).toNat with
  | none => refuse p .badField
  | some t =>
    let e := p.engine t
    let data := body.drop 1
    if e.takesStream then
      let n := e.acceptCount data.length
      let p := (p.modEngine t (·.enter (data.take n))).pauseUpdate k t
      okay p (be 2 n ++ be 2 (p.engine t).fillCount ++ be 2 (p.engine t).freeSpace)
    else refuse p .wrongState

/-- A PUSH-DATA frame passes its CRC. -/
def State.servePushData (s : State) (body : List Byte) : State :=
  s.request 0x2E#8 (2 ≤ body.length && body.length ≤ 257) (pushDataAnswer body)

/-- PUSH-DATA (R150). -/
def execPushData (body : List Byte) (s : State) : Host.Outcome State Fault Refusal := .next (s.servePushData body)

end Sys2Proof.Machine
end

