-- ==== Sys2Proof/Machine/ReportRequests.lean ====
section
/-!
DEFINITION. Machine/ReportRequests.lean: the requests on the report table and the report store (chapter 10).
-/

namespace Sys2Proof.Machine

/-! ### REPORT-TABLE-SET and REPORT-TABLE-GET (R165, R166) -/

/-- The slot that a REPORT-TABLE-SET stores (R165): interval and stale multiple are clamped. -/
def tableSlotOf (body : List Byte) : TableSlot :=
  ⟨byteAt body 1, max 1 (byteAt body 2).toNat, (clampInt 1 15 (byteAt body 3).toNat).toNat, byteAt body 4 == 1⟩

/-- The effect of REPORT-TABLE-SET (R165). -/
def reportTableSetAnswer (body : List Byte) (k : Clock) (p : Part) : Answer :=
  match reportSlotOf (byteAt body 0).toNat with
  | none => refuse p .badField
  | some x =>
    if 1 < (byteAt body 4).toNat then refuse p .badField
    else okay (p.setTableSlot k x (tableSlotOf body)) (byte (slotCode x) :: (tableSlotOf body).bytes)

/-- A REPORT-TABLE-SET frame passes its CRC. -/
def State.serveReportTableSet (s : State) (body : List Byte) : State :=
  s.request 0x30#8 (body.length == 5) (reportTableSetAnswer body)

/-- REPORT-TABLE-SET (R165). -/
def execReportTableSet (body : List Byte) (s : State) : Host.Outcome State Fault Refusal :=
  .next (s.serveReportTableSet body)

/-- The effect of REPORT-TABLE-GET (R166): the read changes nothing. -/
def reportTableGetAnswer (_ : Clock) (p : Part) : Answer :=
  okay p (p.reportTable.a.bytes ++ p.reportTable.b.bytes ++ p.reportTable.c.bytes)

/-- A REPORT-TABLE-GET frame passes its CRC. -/
def State.serveReportTableGet (s : State) (body : List Byte) : State :=
  s.request 0x31#8 (body.length == 0) reportTableGetAnswer

/-- REPORT-TABLE-GET (R166). -/
def execReportTableGet (body : List Byte) (s : State) : Host.Outcome State Fault Refusal :=
  .next (s.serveReportTableGet body)

/-! ### REPORT-READ (R171) -/

/-- The data of the REPORT-READ reply (R171, 12.10). -/
def reportReadData (r : Record) (x : ReportSlot) : List Byte :=
  let v := r.reports.get x
  let s := r.polls.get x
  [byte r.state.code, v.marks, v.kind, byte v.body.length] ++ padTo 24 v.body ++ be 2 v.age
    ++ [r.scheduleMarks x] ++ be 4 ((s.lastPoll.map (·.toNat)).getD 0) ++ be 2 ((s.due.map (·.toNat)).getD 0)

/-- The effect of REPORT-READ (R171): the read changes nothing. -/
def reportReadAnswer (body : List Byte) (_ : Clock) (p : Part) : Answer :=
  match reportSlotOf (byteAt body 2).toNat with
  | none => refuse p .badField
  | some x => withRecord p body fun _ _ r => okay p (reportReadData r x)

/-- A REPORT-READ frame passes its CRC. -/
def State.serveReportRead (s : State) (body : List Byte) : State :=
  s.request 0x32#8 (body.length == 3) (reportReadAnswer body)

/-- REPORT-READ (R171). -/
def execReportRead (body : List Byte) (s : State) : Host.Outcome State Fault Refusal := .next (s.serveReportRead body)

end Sys2Proof.Machine
end

