-- ==== Sys2Proof/Machine/ResetCommands.lean ====
section
/-!
DEFINITION. Machine/ResetCommands.lean: the two resets and the reads of the start-up loader (12.5).
-/

namespace Sys2Proof.Machine

/-- POWER_ON_RESET (R188). -/
def execPowerOnReset (rate0 rate1 store : Bool) (s : State) : Host.Outcome State Fault Refusal :=
  .next (s.powerOn ⟨rate0, rate1, store⟩)

/-- Whether the RESET reply is being sent (R187). -/
def Link.sendsReset (l : Link) : Bool := l.tx.any (·.source == .resetReply)

/-- The last byte of the RESET reply is sent (R187, R188): the soft reset, with the straps as they stand then; nothing
while no RESET reply is being sent (notes/assumptions/2.md and 23.md). -/
def State.resetReplySent (s : State) (straps : Straps) : State :=
  if s.ready.link.sendsReset then s.ready.softReset straps else s

/-- SOFT_RESET (R187, R188). -/
def execSoftReset (rate0 rate1 store : Bool) (s : State) : Host.Outcome State Fault Refusal :=
  .next (s.resetReplySent ⟨rate0, rate1, store⟩)

/-- Whether the result of a read fits the transfer: as many bytes as it asked for, or no acknowledge (R190). -/
def Transfer.fits (x : Transfer) : Option (List Byte) → Bool
  | none => true
  | some bs => bs.length == x.length

/-- The transfer under way, when it is one of a requester and a result fits it. -/
def Part.transferOf (p : Part) (r : Requester) (result : Option (List Byte)) : Option Transfer :=
  p.master.current.filter fun x => x.requester == r && x.fits result

/-- The bus after a transfer of the loader: free, with the requester served last as the reset left it (R190). -/
def Part.loaderDone (p : Part) : Part := { p with master := ⟨none, p.master.last⟩ }

/-- A read of the start-up loader ends (R189); nothing unless such a read is under way. -/
def State.loadReadDone (s : State) (result : Option (List Byte)) : State :=
  match s.ready.part.loader, s.ready.part.transferOf .loader result with
  | some v, some _ => s.ready.withPart (s.ready.part.loaderDone.loaderRead v result)
  | _, _ => s

/-- STORE_LOAD_READ_DONE (R189). -/
def execStoreLoadReadDone (result : Option (List Byte)) (s : State) : Host.Outcome State Fault Refusal :=
  .next (s.loadReadDone result)

end Sys2Proof.Machine
end

