-- ==== Sys2Proof/Machine/CycleCommands.lean ====
section
/-!
DEFINITION. Machine/CycleCommands.lean: the cycle start and the pieces of it that a command may take by itself
(chapters 1, 3, 7, 9, 11). A piece that is not due leaves the state as it is (notes/assumptions/2.md).
-/

namespace Sys2Proof.Machine

/-- CYCLE_START (R1): the open cycle start is finished, or the next one is opened and finished. -/
def execCycleStart (lit : TreeMask) (s : State) : Host.Outcome State Fault Refusal := .next (s.cycleStart lit).settle

/-- A piece of the cycle start is taken when it is due at it. -/
def State.takePiece (s : State) (due : Clock → Part → Bool) (f : Clock → Part → Part) : State :=
  let u := s.startOpen
  if due u.clock u.part then u.withPart (f u.clock u.part) else s

/-- WINDOW_BEGIN (R37, R38): the window timer is increased first. -/
def execWindowBegin (t : TreeId) (s : State) : Host.Outcome State Fault Refusal :=
  .next (s.takePiece (fun _ p => (p.tree t).enabled && (p.tree t).advanceTimer.windowDue)
    fun k p => p.modTree t (·.advanceTimer.beginWindow k.cycle))

/-- CALL (R40). -/
def execCall (t : TreeId) (s : State) : Host.Outcome State Fault Refusal :=
  .next (s.takePiece (fun k p => (p.tree t).enabled && (p.tree t).callDue k.cycle) fun k p => p.callStart k t)

/-- UPKEEP_DUE (R110). -/
def execUpkeepDue (t : TreeId) (h : Nat) (s : State) : Host.Outcome State Fault Refusal :=
  .next (s.takePiece (fun k p => (p.record? t h).any (·.upkeepFallsDue k.cycle))
    fun k p => p.modRecord t h (·.upkeepTest k.cycle))

/-- DARK_ARISES (R175). -/
def execDarkArises (t : TreeId) (s : State) : Host.Outcome State Fault Refusal :=
  .next (s.takePiece (fun _ p => (p.tree t).enabled && !(p.tree t).darkDone && p.darkDue t)
    fun k p => p.darkTest k t)

/-- SPAN_BOUNDARY (R174). -/
def execSpanBoundary (t : TreeId) (s : State) : Host.Outcome State Fault Refusal :=
  .next (s.takePiece (fun k p => (p.tree t).enabled && k.cycle.toNat % 16 == 0 && !(p.tree t).spanDone)
    fun k p => p.spanEnds k t)

/-- SETTLE_END (R153). -/
def execSettleEnd (t : TreeId) (s : State) : Host.Outcome State Fault Refusal :=
  .next (s.takePiece (fun _ p => (p.engine t).state == .settling && (p.engine t).settleLeft ≤ 1)
    fun k p => p.enterStreaming k t)

end Sys2Proof.Machine
end

