-- ==== Sys2Proof/Machine/TenthCommands.lean ====
section
/-!
DEFINITION. Machine/TenthCommands.lean: the tenth boundary and what falls due at it: staleness, polls, the refind
deadline and the timers (R2, chapters 6, 9, 10, 11).
-/

namespace Sys2Proof.Machine

/-- TENTH_BOUNDARY (R2, R170). -/
def execTenthBoundary (s : State) : Host.Outcome State Fault Refusal :=
  .next (if s.atStart.clock.stage = .boundaryDue then s.atStart.takeBoundary.settle else s)

/-- What falls due at a tenth boundary is taken at the one of the open, or else the next, cycle start. -/
def State.takeAtTenth (s : State) (due : Clock → Part → Bool) (f : Clock → Part → Part) : State :=
  let u := s.startOpen
  if decide (u.clock.stage = .boundaryTaken) && due u.clock u.part then u.withPart (f u.clock u.part) else s

/-- REPORT_STALE (R170). -/
def execReportStale (t : TreeId) (h : Nat) (x : ReportSlot) (s : State) : Host.Outcome State Fault Refusal :=
  .next (s.takeAtTenth (fun _ p => (p.record? t h).any (·.staleDue p.reportTable x)) fun _ p => p.staleTest t h x)

/-- POLL_DUE (R167). -/
def execPollDue (t : TreeId) (h : Nat) (x : ReportSlot) (s : State) : Host.Outcome State Fault Refusal :=
  .next (s.takeAtTenth (fun k p => (p.record? t h).any fun r => r.pollDueTest p.reportTable k x != r)
    fun k p => p.modRecord t h (·.pollDueTest p.reportTable k x))

/-- REFIND_DEADLINE (R94). -/
def execRefindDeadline (t : TreeId) (h : Nat) (s : State) : Host.Outcome State Fault Refusal :=
  .next (s.takeAtTenth (fun k p => (p.record? t h).any (·.deadlineReached k.tenth)) fun k p => p.deadlineTest k t h)

/-- RESUME_TIMER_EXPIRY (R177). -/
def execResumeTimerExpiry (t : TreeId) (s : State) : Host.Outcome State Fault Refusal :=
  .next (s.takeAtTenth (fun k p => (p.tree t).guard.hush && k.expiredTimer (p.tree t).guard.resume)
    fun k p => p.leaveHush k t)

/-- PREPARE_TIMEOUT (R152). -/
def execPrepareTimeout (t : TreeId) (s : State) : Host.Outcome State Fault Refusal :=
  .next (s.takeAtTenth (fun k p => (p.engine t).state == .preparing && k.expiredTimer (p.engine t).prepareTimer)
    fun k p => p.failAttempt k t .noReady 0 true)

/-- BEGIN_TIMEOUT (R148). -/
def execBeginTimeout (t : TreeId) (s : State) : Host.Outcome State Fault Refusal :=
  .next (s.takeAtTenth (fun k p => (p.engine t).state == .resolving && k.expiredTimer (p.engine t).beginTimer)
    fun k p => p.failAttempt k t .stall 0 true)

/-- STALL_TIMEOUT (R157). -/
def execStallTimeout (t : TreeId) (s : State) : Host.Outcome State Fault Refusal :=
  .next (s.takeAtTenth (fun k p => (p.engine t).state == .streaming && k.expiredTimer (p.engine t).stallTimer)
    fun k p => p.failAttempt k t .stall 0 true)

/-- COMMIT_TIMEOUT (R158). -/
def execCommitTimeout (t : TreeId) (s : State) : Host.Outcome State Fault Refusal :=
  .next (s.takeAtTenth (fun k p => (p.engine t).state == .committing && k.expiredTimer (p.engine t).commitTimer)
    fun k p => p.failAttempt k t .noCommit 0 true)

end Sys2Proof.Machine
end

