-- ==== Sys2Proof/Machine/UpstreamCommands.lean ====
section
/-!
DEFINITION. Machine/UpstreamCommands.lean: what happens at the upstream ports, in the decoder, at the dispatcher, in the
arrival arithmetic unit and in the activation controller (chapters 1, 3 to 7). An event that cannot happen now leaves the
state as it is (notes/assumptions/2.md).
-/

namespace Sys2Proof.Machine

/-- A change of one tree of the state, at its clock. -/
def State.onTree (s : State) (t : TreeId) (f : Tree → Tree) : State := s.withPart (s.part.modTree t f)

/-- An event at a position of the current cycle: nothing when that position lies behind. -/
def State.eventAt (s : State) (pos : Nat) (f : State → Option State) : State := ((s.passTo pos).bind f).getD s

/-- Light comes to an upstream port (R11, R13, R175); a DISABLED tree ignores its port (R3). -/
def State.lightOnset (s : State) (t : TreeId) (dark : Nat) : State :=
  if (s.part.tree t).enabled then
    s.withPart ((s.part.modTree t (·.lightComes s.clock.treeTime dark)).onsetEndsDark s.clock t)
  else s

/-- LIGHT_ONSET (R11). -/
def execLightOnset (t : TreeId) (pos dark : Nat) (s : State) : Host.Outcome State Fault Refusal :=
  .next (s.eventAt pos fun u => some (u.lightOnset t dark))

/-- The position at which an instant of the current cycle falls, or the present one for an instant gone by; none for an
instant of a later cycle. -/
def Clock.positionOf (k : Clock) (instant : TreeTime) : Option Nat :=
  let d := timeDiff instant k.treeTime
  if d ≤ 0 then some k.pos
  else if k.pos + d.toNat < Config.cycleSteps then some (k.pos + d.toNat) else none

/-- The oldest open seek period of a tree ends (R11), at 2000 steps after it opened. -/
def State.seekEnds (s : State) (t : TreeId) (lit : Bool) : Option State :=
  match (s.part.tree t).seeks with
  | [] => none
  | q :: rest =>
    (s.clock.positionOf q.ends).map fun pos =>
      { s with clock := { s.clock with pos := pos } }.onTree t (·.seekEnds q rest lit)

/-- SEEK_PERIOD_END (R11). -/
def execSeekPeriodEnd (t : TreeId) (lit : Bool) (s : State) : Host.Outcome State Fault Refusal :=
  .next ((s.ready.seekEnds t lit).getD s)

/-- A delimiter is found in the youngest seek period that is still open (R11). -/
def State.delimiterFound (s : State) (t : TreeId) : Option State :=
  ((s.part.tree t).seekFor s.clock.treeTime).map fun q =>
    s.onTree t (·.delimiter s.clock.treeTime s.clock.pos q)

/-- DELIMITER_FOUND (R11). -/
def execDelimiterFound (t : TreeId) (pos : Nat) (s : State) : Host.Outcome State Fault Refusal :=
  .next (s.eventAt pos (·.delimiterFound t))

/-- The oldest burst that has not ended ends (R11). -/
def State.burstEnds (s : State) (t : TreeId) (endCode lit : Bool) : Option State :=
  if (s.part.tree t).bursts.any (·.ended.isNone) then
    some (s.onTree t (·.burstEnds s.clock.treeTime endCode lit))
  else none

/-- BURST_END (R11). -/
def execBurstEnd (t : TreeId) (pos : Nat) (endCode lit : Bool) (s : State) : Host.Outcome State Fault Refusal :=
  .next (s.eventAt pos (·.burstEnds t endCode lit))

/-- The steps within which a cell is always decoded: less than 3 quarters (R12). -/
def decodeSteps : Nat := 3 * Config.quarterSteps

/-- The decoder finishes a cell (R12, R51). -/
def State.cellDecoded (s : State) (t : TreeId) (n : Nat) (cell : List Byte) : Option State :=
  match (s.part.tree t).undecoded n with
  | some b =>
    if elapsed s.clock.treeTime b.found < decodeSteps then
      some (s.onTree t (·.decoded s.clock.quarter n cell))
    else none
  | none => none

/-- CELL_DECODED (R12). -/
def execCellDecoded (t : TreeId) (n pos : Nat) (cell : List Byte) (s : State) : Host.Outcome State Fault Refusal :=
  .next (s.eventAt pos (·.cellDecoded t n cell))

/-- The dispatcher takes the next arrival (R14). -/
def State.arrivalDispatch (s : State) (t : TreeId) : Option State :=
  ((s.part.tree t).nextArrival s.clock.treeTime).map fun a => s.withPart (s.part.dispatch s.clock t a)

/-- ARRIVAL_DISPATCH (R14). -/
def execArrivalDispatch (t : TreeId) (s : State) : Host.Outcome State Fault Refusal :=
  .next ((s.ready.arrivalDispatch t).getD s)

/-- The entry whose expiry point is passed expires (R116). -/
def State.expectationExpiry (s : State) (t : TreeId) : Option State :=
  ((s.part.tree t).expired s.clock.treeTime).map fun x => s.withPart (s.part.expire s.clock t x)

/-- EXPECTATION_EXPIRY (R116). -/
def execExpectationExpiry (t : TreeId) (pos : Nat) (s : State) : Host.Outcome State Fault Refusal :=
  .next (s.eventAt pos (·.expectationExpiry t))

/-- The window whose span end is passed closes (R44). -/
def State.windowClose (s : State) (t : TreeId) : Option State :=
  ((s.part.tree t).closing s.clock.treeTime).map fun win => s.withPart (s.part.closeWindow s.clock t win)

/-- WINDOW_CLOSE (R44). -/
def execWindowClose (t : TreeId) (pos : Nat) (s : State) : Host.Outcome State Fault Refusal :=
  .next (s.eventAt pos (·.windowClose t))

/-- The arrival arithmetic unit takes the next hello of a tree (R53). -/
def State.helloArithmetic (s : State) (t : TreeId) : Option State :=
  match (s.part.tree t).hellos with
  | [] => none
  | m :: rest => some (s.withPart ((s.part.modTree t fun T => { T with hellos := rest }).takeStamps t m))

/-- HELLO_ARITHMETIC (R53). -/
def execHelloArithmetic (t : TreeId) (s : State) : Host.Outcome State Fault Refusal :=
  .next ((s.ready.helloArithmetic t).getD s)

/-- The activation controller takes the next measured hello of a tree (R83). -/
def State.measuredHello (s : State) (t : TreeId) : Option State :=
  match (s.part.tree t).measured with
  | [] => none
  | m :: rest =>
    some (s.withPart ((s.part.modTree t fun T => { T with measured := rest }).takeHello s.clock t m))

/-- MEASURED_HELLO_TAKEN (R83). -/
def execMeasuredHelloTaken (t : TreeId) (s : State) : Host.Outcome State Fault Refusal :=
  .next ((s.ready.measuredHello t).getD s)

end Sys2Proof.Machine
end

