-- ==== Sys2Proof/Machine/BusCommands.lean ====
section
/-!
DEFINITION. Machine/BusCommands.lean: the ends of two-wire transfers outside start-up (R144, R147, R159, R190, R191).
-/

namespace Sys2Proof.Machine

/-- A transfer of a fetcher has ended: its bytes are taken by `f`, or the attempt fails with STORE_FAULT (R159), unless its
push has ended before; then the next transfer is given (R190). That a transfer whose push has ended before (R144) fails no
attempt either when it ends without acknowledge is a DESIGN CHOICE (notes/assumptions/48.md). -/
def Part.fetchEnds (p : Part) (k : Clock) (t : TreeId) (x : Transfer) (result : Option (List Byte))
    (f : Part → List Byte → Part) : Part :=
  let p := p.endTransfer
  let p :=
    if x.discard then p
    else
      match result with
      | some bs => f p bs
      | none => p.failAttempt k t .storeFault 0 false
  p.serveBus

/-- The directory read of a fetcher ends (R147). -/
def State.directoryDone (s : State) (t : TreeId) (result : Option (List Byte)) : Option State :=
  ((s.part.transferOf (.fetcher t) result).filter (·.kind == .directory)).map fun x =>
    s.withPart (s.part.fetchEnds s.clock t x result fun p bs => p.directoryRead s.clock t bs)

/-- FETCH_DIRECTORY_DONE (R147). -/
def execFetchDirectoryDone (t : TreeId) (result : Option (List Byte)) (s : State) :
    Host.Outcome State Fault Refusal :=
  .next ((s.ready.directoryDone t result).getD s)

/-- The data read of a fetcher ends (R144). -/
def State.dataDone (s : State) (t : TreeId) (result : Option (List Byte)) : Option State :=
  ((s.part.transferOf (.fetcher t) result).filter (·.kind == .data)).map fun x =>
    s.withPart (s.part.fetchEnds s.clock t x result fun p bs => p.dataRead s.clock t bs)

/-- FETCH_DATA_DONE (R144). -/
def execFetchDataDone (t : TreeId) (result : Option (List Byte)) (s : State) : Host.Outcome State Fault Refusal :=
  .next ((s.ready.dataDone t result).getD s)

/-- The page write of the save writer ends (R191). -/
def State.pageDone (s : State) (ack : Bool) : Option State :=
  match s.part.save, s.part.transferOf .saver none with
  | some v, some x => some (s.withPart (s.part.pageWritten v x.address ack))
  | _, _ => none

/-- SAVE_PAGE_DONE (R191). -/
def execSavePageDone (ack : Bool) (s : State) : Host.Outcome State Fault Refusal := .next ((s.ready.pageDone ack).getD s)

end Sys2Proof.Machine
end

