-- ==== Sys2Proof/Machine/LinkCommands.lean ====
section
/-!
DEFINITION. Machine/LinkCommands.lean: the end of a frame sent, bytes that end a bad frame, and requests of an unknown
kind (12.1 to 12.3).
-/

namespace Sys2Proof.Machine

/-- The last byte of the frame being sent is sent (R184, R185). The last byte of the RESET reply is no such end: it is the
soft reset (R187), which comes as SOFT_RESET, with the straps (notes/assumptions/23.md). -/
def State.frameSent (s : State) : State :=
  match s.ready.link.tx with
  | none => s
  | some x => if x.source == .resetReply then s else { s.ready with link := (s.ready.link.endFrame x).kick }

/-- FRAME_SENT (R184). -/
def execFrameSent (s : State) : Host.Outcome State Fault Refusal := .next s.frameSent

/-- A frame of a kind that is no request kind passes its CRC (R181): UNKNOWN. -/
def State.serveUnknown (s : State) (kind : Byte) : State := s.request kind true fun _ p => refuse p .unknown

/-- UNKNOWN_REQUEST (R181); nothing for a request kind, whose frame is a command of its own. -/
def execUnknownRequest (kind : Byte) (_ : List Byte) (s : State) : Host.Outcome State Fault Refusal :=
  .next (if requestKinds.contains kind then s else s.serveUnknown kind)

/-- A frame passes its CRC, of whatever kind (12.6). -/
def State.serveFrame (s : State) (kind : Byte) (body : List Byte) : State :=
  match kind.toNat with
  | 0x01 => s.serveIdentify body
  | 0x02 => s.serveReset body
  | 0x03 => s.serveStoreSave body
  | 0x08 => s.serveTreeEnable body
  | 0x09 => s.serveTreeDisable body
  | 0x0A => s.serveTreeSet body
  | 0x0B => s.serveTreeGet body
  | 0x10 => s.serveAdmit body
  | 0x11 => s.serveUnadmit body
  | 0x12 => s.serveAdmitRead body
  | 0x13 => s.serveAdmitClear body
  | 0x14 => s.serveUnclaimedRead body
  | 0x15 => s.serveUnclaimedClear body
  | 0x18 => s.serveTerminalRead body
  | 0x19 => s.serveTerminalFind body
  | 0x1A => s.serveTerminalList body
  | 0x1B => s.serveRetire body
  | 0x1C => s.serveRelease body
  | 0x1D => s.serveRealign body
  | 0x1E => s.serveReload body
  | 0x1F => s.serveStanddown body
  | 0x20 => s.serveLift body
  | 0x28 => s.serveProfileOpen body
  | 0x29 => s.serveProfileWrite body
  | 0x2A => s.serveProfileClose body
  | 0x2B => s.serveProfileErase body
  | 0x2C => s.serveProfileInfo body
  | 0x2D => s.servePushBegin body
  | 0x2E => s.servePushData body
  | 0x30 => s.serveReportTableSet body
  | 0x31 => s.serveReportTableGet body
  | 0x32 => s.serveReportRead body
  | _ => s.serveUnknown kind

/-- Bytes come in on the link (R181): the receiver hunts on through the bytes it keeps. A good frame that starts at a sync
byte inside a lost one is a request like any other. -/
def State.bytesIn (s : State) (bytes : List Byte) : State :=
  let all := s.ready.link.rx ++ bytes
  let (frames, kept) := hunt all.length all
  let u := frames.foldl (fun s f => s.serveFrame f.1 f.2) s.ready
  { u with link := { u.link with rx := kept } }

/-- BAD_FRAME (R181). -/
def execBadFrame (bytes : List Byte) (s : State) : Host.Outcome State Fault Refusal := .next (s.bytesIn bytes)

end Sys2Proof.Machine
end

