-- ==== Sys2Proof/Machine/Dispatch.lean ====
section
/-!
DEFINITION. Machine/Dispatch.lean: the meaning of each command.
-/

namespace Sys2Proof.Machine

def exec (i : Instr) (s : State) : Host.Outcome State Fault Refusal :=
  match i with
  | .powerOnReset a b c => Sys2Proof.Machine.execPowerOnReset a b c s
  | .softReset a b c => Sys2Proof.Machine.execSoftReset a b c s
  | .storeLoadReadDone r => Sys2Proof.Machine.execStoreLoadReadDone r s
  | .cycleStart lit => Sys2Proof.Machine.execCycleStart lit s
  | .windowBegin t => Sys2Proof.Machine.execWindowBegin t s
  | .call t => Sys2Proof.Machine.execCall t s
  | .upkeepDue t h => Sys2Proof.Machine.execUpkeepDue t h s
  | .darkArises t => Sys2Proof.Machine.execDarkArises t s
  | .spanBoundary t => Sys2Proof.Machine.execSpanBoundary t s
  | .settleEnd t => Sys2Proof.Machine.execSettleEnd t s
  | .tenthBoundary => Sys2Proof.Machine.execTenthBoundary s
  | .reportStale t h x => Sys2Proof.Machine.execReportStale t h x s
  | .pollDue t h x => Sys2Proof.Machine.execPollDue t h x s
  | .refindDeadline t h => Sys2Proof.Machine.execRefindDeadline t h s
  | .resumeTimerExpiry t => Sys2Proof.Machine.execResumeTimerExpiry t s
  | .prepareTimeout t => Sys2Proof.Machine.execPrepareTimeout t s
  | .beginTimeout t => Sys2Proof.Machine.execBeginTimeout t s
  | .stallTimeout t => Sys2Proof.Machine.execStallTimeout t s
  | .commitTimeout t => Sys2Proof.Machine.execCommitTimeout t s
  | .lightOnset t pos dark => Sys2Proof.Machine.execLightOnset t pos dark s
  | .seekPeriodEnd t lit => Sys2Proof.Machine.execSeekPeriodEnd t lit s
  | .delimiterFound t pos => Sys2Proof.Machine.execDelimiterFound t pos s
  | .cellDecoded t n pos cell => Sys2Proof.Machine.execCellDecoded t n pos cell s
  | .arrivalDispatch t => Sys2Proof.Machine.execArrivalDispatch t s
  | .expectationExpiry t pos => Sys2Proof.Machine.execExpectationExpiry t pos s
  | .helloArithmetic t => Sys2Proof.Machine.execHelloArithmetic t s
  | .measuredHelloTaken t => Sys2Proof.Machine.execMeasuredHelloTaken t s
  | .windowClose t pos => Sys2Proof.Machine.execWindowClose t pos s
  | .fetchDirectoryDone t r => Sys2Proof.Machine.execFetchDirectoryDone t r s
  | .fetchDataDone t r => Sys2Proof.Machine.execFetchDataDone t r s
  | .savePageDone ack => Sys2Proof.Machine.execSavePageDone ack s
  | .frameSent => Sys2Proof.Machine.execFrameSent s
  | .badFrame bytes => Sys2Proof.Machine.execBadFrame bytes s
  | .unknownRequest kind body => Sys2Proof.Machine.execUnknownRequest kind body s
  | .identify body => Sys2Proof.Machine.execIdentify body s
  | .reset body => Sys2Proof.Machine.execReset body s
  | .storeSave body => Sys2Proof.Machine.execStoreSave body s
  | .treeEnable body => Sys2Proof.Machine.execTreeEnable body s
  | .treeDisable body => Sys2Proof.Machine.execTreeDisable body s
  | .treeSet body => Sys2Proof.Machine.execTreeSet body s
  | .treeGet body => Sys2Proof.Machine.execTreeGet body s
  | .admitTags body => Sys2Proof.Machine.execAdmit body s
  | .unadmit body => Sys2Proof.Machine.execUnadmit body s
  | .admitRead body => Sys2Proof.Machine.execAdmitRead body s
  | .admitClear body => Sys2Proof.Machine.execAdmitClear body s
  | .unclaimedRead body => Sys2Proof.Machine.execUnclaimedRead body s
  | .unclaimedClear body => Sys2Proof.Machine.execUnclaimedClear body s
  | .terminalRead body => Sys2Proof.Machine.execTerminalRead body s
  | .terminalFind body => Sys2Proof.Machine.execTerminalFind body s
  | .terminalList body => Sys2Proof.Machine.execTerminalList body s
  | .retire body => Sys2Proof.Machine.execRetire body s
  | .release body => Sys2Proof.Machine.execRelease body s
  | .realign body => Sys2Proof.Machine.execRealign body s
  | .reload body => Sys2Proof.Machine.execReload body s
  | .standdown body => Sys2Proof.Machine.execStanddown body s
  | .lift body => Sys2Proof.Machine.execLift body s
  | .profileOpen body => Sys2Proof.Machine.execProfileOpen body s
  | .profileWrite body => Sys2Proof.Machine.execProfileWrite body s
  | .profileClose body => Sys2Proof.Machine.execProfileClose body s
  | .profileErase body => Sys2Proof.Machine.execProfileErase body s
  | .profileInfo body => Sys2Proof.Machine.execProfileInfo body s
  | .pushBegin body => Sys2Proof.Machine.execPushBegin body s
  | .pushData body => Sys2Proof.Machine.execPushData body s
  | .reportTableSet body => Sys2Proof.Machine.execReportTableSet body s
  | .reportTableGet body => Sys2Proof.Machine.execReportTableGet body s
  | .reportRead body => Sys2Proof.Machine.execReportRead body s
  | .burstEnd t pos endCode lit => Sys2Proof.Machine.execBurstEnd t pos endCode lit s

end Sys2Proof.Machine
end

