-- ==== Sys2Proof/Machine/Step.lean ====
section
/-!
DEFINITION. Machine/Step.lean: one step: the command at the front of the queue, or the tick of the clock.
-/

namespace Sys2Proof.Machine

/-- The tick that passes while no command waits (notes/assumptions/1.md): an open cycle start is finished; else one step
of the timebase passes, and at the end of a cycle the next one starts with the light that the monitors hold (R1). -/
def State.tick (s : State) : State :=
  if s.clock.stage ≠ .closed then s.ready
  else if s.clock.pos + 1 < Config.cycleSteps then { s with clock := { s.clock with pos := s.clock.pos + 1 } }
  else (s.cycleStart s.part.litMask).settle

/-- One step: the command at the front of the queue with the queue's rest, or the tick. -/
def step (s : State) : Host.Outcome State Fault Refusal :=
  match s.pending with
  | [] => .next s.tick
  | c :: rest => exec c { s with pending := rest }

/-- The state with the command that a word spells at the front of its queue, and itself where it spells none. -/
def State.withFetchWord (s : State) (nbits w : Nat) : State :=
  match decodeTableWord nbits w with
  | some c => { s with pending := c :: s.pending }
  | none => s

end Sys2Proof.Machine
end

