-- ==== Sys2Proof/Safety.lean ====
section
/-!
DEFINITION. Safety.lean: the terms that statements use: a run that does not stop, the invariants of the timebase, of the
link and of the stored data, what a request that is taken finds and leaves, and what falls due for a record at a cycle
start.
-/

namespace Sys2Proof.Machine

/-- A step that goes on: neither a fault nor a refusal. -/
def goesOn (o : Host.Outcome State Fault Refusal) : Prop := ∃ s, o = .next s

/-! ### Invariants -/

/-- The timebase is in its ranges (R1, R2), and a cycle start that is open stands at position 0. -/
abbrev Clock.Ok (k : Clock) : Prop :=
  k.pos < Config.cycleSteps ∧ k.cycleInTenth < Config.tenthCycles ∧ (k.stage ≠ .closed → k.pos = 0)
    ∧ (k.stage = .boundaryDue → k.cycleInTenth = 762) ∧ (k.stage = .boundaryTaken → k.cycleInTenth = 0)

/-- Whether a frame being sent is a notice. -/
def Tx.isNotice (x : Tx) : Bool := x.source == .notice

/-- The link holds what R183 to R185 let it hold: at most 64 notices and 8 replies, one reply from the request slot while
it is occupied and none otherwise, a notice being sent still in its queue, and a transmitter that is busy while a reply or
a notice waits. -/
abbrev Link.Ok (l : Link) : Prop :=
  l.notices.length ≤ Config.maxNotices ∧ l.replies.length ≤ Config.maxReplies
    ∧ (l.replies.filter (·.fromSlot)).length = (if l.slotBusy then 1 else 0)
    ∧ (l.tx = none → l.replies = [] ∧ l.notices = [])
    ∧ (l.tx.any Tx.isNotice = true → l.notices ≠ [])

/-- The link is in its bounds and has taken every notice raised (notes/assumptions/20.md). -/
abbrev State.LinkOk (s : State) : Prop := s.link.Ok ∧ s.part.raised = []

/-- The numeric settings lie in their ranges (1.8). -/
abbrev Settings.Ok (s : Settings) : Prop :=
  (20000 ≤ s.reachDepth ∧ s.reachDepth ≤ 250000 ∧ s.reachDepth % 4 = 0)
    ∧ (-8192 ≤ s.treeOffset ∧ s.treeOffset ≤ 8191)
    ∧ (1 ≤ s.slotsPerCycle ∧ s.slotsPerCycle ≤ 4)
    ∧ (16 ≤ s.windowInterval ∧ s.windowInterval ≤ 65535)
    ∧ (s.spreadMin = 8 ∨ s.spreadMin = 16 ∨ s.spreadMin = 32 ∨ s.spreadMin = 64)
    ∧ (16 ≤ s.alignTolerance ∧ s.alignTolerance ≤ 1024)
    ∧ s.deadband ≤ 256
    ∧ (4 ≤ s.raiseThreshold ∧ s.raiseThreshold ≤ 1024)
    ∧ s.lowerThreshold ≤ s.raiseThreshold
    ∧ (4 ≤ s.slew ∧ s.slew ≤ 4096 ∧ s.slew % 4 = 0)
    ∧ (s.alignTolerance ≤ s.driftLimit ∧ s.driftLimit ≤ 2048)
    ∧ (1 ≤ s.missLimit ∧ s.missLimit ≤ 255)
    ∧ s.errorLimit ≤ 255
    ∧ (1 ≤ s.refindTime ∧ s.refindTime ≤ 255)
    ∧ (1 ≤ s.prepareTimeout ∧ s.prepareTimeout ≤ 255)
    ∧ s.settleCycles ≤ 1023
    ∧ (1 ≤ s.commitTimeout ∧ s.commitTimeout ≤ 255)
    ∧ (1 ≤ s.stallLimit ∧ s.stallLimit ≤ 255)
    ∧ s.pushRetries ≤ 7
    ∧ (1 ≤ s.strayThreshold ∧ s.strayThreshold ≤ 16)
    ∧ (8 ≤ s.darkCycles ∧ s.darkCycles ≤ 4096)
    ∧ (1 ≤ s.stormThreshold ∧ s.stormThreshold ≤ 255)
    ∧ (1 ≤ s.resumeDelay ∧ s.resumeDelay ≤ 255)

/-- An internal slot holds at most 4096 bytes, none while EMPTY and at least one while READY (R138, R140, R141). -/
abbrev ProfileSlot.Ok (v : ProfileSlot) : Prop :=
  v.bytes.length ≤ Config.slotBytes ∧ (v.state = .empty → v.bytes = []) ∧ (v.state = .ready → v.bytes ≠ [])

/-- A slot of the report table lies in its ranges (R164, R165). -/
abbrev TableSlot.Ok (s : TableSlot) : Prop := 1 ≤ s.interval ∧ s.interval ≤ 255 ∧ 1 ≤ s.multiple ∧ s.multiple ≤ 15

/-- What the host stores in the part is in its ranges: settings, internal slots, report table (1.8, R138, R164). -/
def State.StoredOk (s : State) : Prop :=
  (∀ t, (s.part.tree t).settings.Ok) ∧ (∀ n, 1 ≤ n → n ≤ 16 → (s.part.slot n).Ok)
    ∧ ∀ x, (s.part.reportTable.get x).Ok

/-- The table and the admission list agree (R64, R66, R77, R99): no tag twice on the admission list, no tag and no handle of
a tree twice among the records, at most 192 records with handles 1..64, in ascending order of their keys, and at most 256
entries, and an entry bound exactly when a record carries its tag, every record carrying the tag of an entry. -/
def Part.TableOk (p : Part) : Prop :=
  (p.admission.map (·.tag)).Nodup ∧ (p.records.map (·.tag)).Nodup
    ∧ (p.records.map fun r => (r.tree, r.handle)).Nodup
    ∧ p.records.length ≤ Config.maxRecords ∧ p.admission.length ≤ Config.maxAdmission
    ∧ (∀ r ∈ p.records, 1 ≤ r.handle ∧ r.handle ≤ Config.maxHandles)
    ∧ (p.records.map Record.key).Pairwise (· < ·)
    ∧ ∀ g, (∃ e ∈ p.admission, e.tag = g ∧ e.bound = true) ↔ ∃ r ∈ p.records, r.tag = g

/-! ### Who writes what -/

/-- The commands that may end in a reset, serve a request found among the bytes of a bad frame, or restart the part. -/
def mayRestart : Instr → Bool
  | .powerOnReset _ _ _ | .softReset _ _ _ | .badFrame _ => true
  | _ => false

/-- The commands that may write a tree's settings: TREE_SET, the reads of start-up, and a restart. -/
def mayWriteSettings (c : Instr) : Bool :=
  mayRestart c || match c with
    | .treeSet _ | .storeLoadReadDone _ => true
    | _ => false

/-- The commands that may enable or disable a tree: TREE_ENABLE, TREE_DISABLE, the reads of start-up, and a restart. -/
def mayWriteEnabled (c : Instr) : Bool :=
  mayRestart c || match c with
    | .treeEnable _ | .treeDisable _ | .storeLoadReadDone _ => true
    | _ => false

/-- The commands that may write an internal profile slot: the four requests on the slots, and a restart. -/
def mayWriteSlots (c : Instr) : Bool :=
  mayRestart c || match c with
    | .profileOpen _ | .profileWrite _ | .profileClose _ | .profileErase _ => true
    | _ => false

/-- The commands that may write the report table: REPORT_TABLE_SET, the reads of start-up, and a restart. -/
def mayWriteReportTable (c : Instr) : Bool :=
  mayRestart c || match c with
    | .reportTableSet _ | .storeLoadReadDone _ => true
    | _ => false

/-! ### Changes of one place -/

/-- `q` is `p` but for the record of tree `t` and handle `h`. -/
def Part.onlyRecord (p q : Part) (t : TreeId) (h : Nat) : Prop :=
  q = { p with records := q.records } ∧ ∀ t' h', (t', h') ≠ (t, h) → q.record? t' h' = p.record? t' h'

/-- What the freeing of a record whose push is not being served leaves of the part (R96): its entry unbound, its orders
withdrawn, its expectation an orphan, its place in the push queue and the tree's turned-away mark gone. -/
def Part.freed (p : Part) (t : TreeId) (h : Nat) (g : Tag) : Part :=
  { p.modTree t fun T =>
      { T with
        queue := T.queue.filter fun o => !o.isOfFreed h
        heldOrders := T.heldOrders.filter fun o => !o.isOfFreed h
        expectations := T.expectations.map fun e => if e.handle == h then { e with orphan := true } else e
        pushQueue := T.pushQueue.filter (· != h)
        turnedAway := false } with
    records := p.records.filter fun r => !r.named t h
    admission := p.admission.map fun e => if e.tag == g then { e with bound := false } else e }

/-- What an engine leaves of the part as it lets go of the push of a record on a timer's end (R161): the LOAD-STATUS entry
it awaits an orphan, PREPARE and COMMIT withdrawn, the read requested withdrawn and one under way discarded, the engine IDLE. -/
def Part.letGo (p : Part) (t : TreeId) (h : Nat) : Part :=
  { p.modTree t fun T =>
      { T with
        expectations := T.expectations.map fun e =>
          if T.engine.awaiting && e.handle == h && e.purpose == .loadStatus then { e with orphan := true } else e
        queue := T.queue.filter fun o => !o.isPush h
        heldOrders := T.heldOrders.filter fun o => !o.isPush h
        fetchWait := none
        engine := .idle } with
    master :=
      match p.master.current with
      | some x => if x.requester == .fetcher t then ⟨some { x with discard := true }, p.master.last⟩ else p.master
      | none => p.master }

/-- What the entry of a record to REFIND, its push not being served, leaves of the part but for the record (R93): a
RELISTEN offered, its expectation an orphan, its place in the push queue gone. -/
def Part.relistened (p : Part) (t : TreeId) (h : Nat) : Part :=
  (p.offer t (.relisten h)).modTree t fun T =>
    { T with
      expectations := T.expectations.map fun e => if e.handle == h then { e with orphan := true } else e
      pushQueue := T.pushQueue.filter (· != h) }

/-- A record as its entry to REFIND leaves it (R93). -/
def Record.refound (r : Record) (cause : Cause) (deadline : Tenth) : Record :=
  { r with
    state := .refind
    cause := cause
    load := none
    refind := some deadline
    upkeepDue := false
    check := .none }

/-- What the entry of a record to HELD, its push not being served, leaves of the part but for the record (R95): its
expectation an orphan, its place in the push queue gone. -/
def Part.heldBack (p : Part) (t : TreeId) (h : Nat) : Part :=
  p.modTree t fun T =>
    { T with
      expectations := T.expectations.map fun e => if e.handle == h then { e with orphan := true } else e
      pushQueue := T.pushQueue.filter (· != h) }

/-- A record as its entry to HELD leaves it (R95). -/
def Record.heldFor (r : Record) (cause : Cause) : Record :=
  { r with
    state := .held
    cause := cause
    load := none
    refind := none
    held := some 0
    upkeepDue := false
    check := .none }

/-- An expectation entry but for its orphan mark. -/
def Expectation.unmarked (x : Expectation) : Expectation := { x with orphan := false }

/-- A record but for its report store. -/
def Record.unreported (r : Record) : Record := { r with reports := ⟨.empty, .empty, .empty⟩ }

/-- The schedule of a report slot as a tenth boundary leaves it (R167): due once the interval has passed since its last poll. -/
def PollSchedule.fallenDue (v : PollSchedule) (slot : TableSlot) (k : Clock) : PollSchedule :=
  if slot.kind ≠ 0 ∧ v.due = none ∧ v.lastPoll.any (fun l => decide (slot.interval ≤ tenthsSince k.tenth l)) = true then
    { v with due := some k.cycle }
  else v

/-- A record of the tree `T` as the tests of the cycle start `k` leave it for the arbiter: a CHECK becomes eligible two cycles
after its LAG was sent, or once its reply is judged, no entry and no LAG for it being left (R109); the upkeep-due mark is set
once its interval has passed (R110); at a tenth boundary polls of an IN_SERVICE record fall due (R167). -/
def Record.fallenDue (r : Record) (T : Tree) (table : PerSlot TableSlot) (k : Clock) (boundary : Bool) : Record :=
  { r with
    check :=
      if r.check = .afterLag ∧ r.lagSentCycle = some (k.cycle - 2)
          ∨ r.check = .afterReply ∧ (∀ x ∈ T.expectations, x.handle ≠ r.handle)
            ∧ (∀ o ∈ T.queue ++ T.heldOrders, o.isLag r.handle = false) then
        .eligible k.cycle
      else r.check
    upkeepDue :=
      r.upkeepDue
        || decide ((r.state = .inService ∨ r.state = .loading)
          ∧ upkeepInterval r.level ≤ cyclesSince k.cycle r.lastUpkeepGrant)
    polls :=
      if boundary = true ∧ r.state = .inService then
        ⟨r.polls.a.fallenDue table.a k, r.polls.b.fallenDue table.b k, r.polls.c.fallenDue table.c k⟩
      else r.polls }

/-- `q` is `p` with the trees enabled that start-up enables: those with auto_start on that are DISABLED (R189, R4). -/
def Part.autoStarted (p q : Part) : Prop :=
  q = { p with trees := q.trees }
    ∧ ∀ t, q.tree t =
      if (p.tree t).settings.autoStart = true ∧ (p.tree t).enabled = false then
        { p.tree t with
          enabled := true
          scheduler := ⟨.idle, 0, (p.tree t).settings.spreadMin, (p.tree t).scheduler.number⟩
          guard := .clear
          darkCount := 0
          lit := false
          lightSeen := false }
      else p.tree t

/-- The notices of the end of start-up (R189): START-UP, then TREE for each tree that it enables. -/
def Part.startUpNotices (p : Part) (kind : ResetKind) (settings admission : StartResult) (applied skipped : Nat) :
    List Notice :=
  .startUp kind settings admission applied skipped (maskOf fun t => (p.tree t).settings.autoStart)
    :: (allTrees.filter fun t => (p.tree t).settings.autoStart && !(p.tree t).enabled).map fun t => .tree t true 0 true

/-! ### Requests and events -/

/-- A request that passes its CRC now is taken (R183): no cycle start is open, fewer than 8 replies wait, the slot is
free, no RESET is armed and start-up does not run. -/
abbrev State.Taking (s : State) : Prop :=
  s.clock.stage = .closed ∧ s.link.replies.length < Config.maxReplies ∧ s.link.slotBusy = false
    ∧ s.link.resetArmed = false ∧ s.part.loader = none ∧ s.part.raised = []

/-- Between commands: no cycle start is open, and the link has taken every notice raised. -/
abbrev State.Settled (s : State) : Prop := s.clock.stage = .closed ∧ s.part.raised = []

/-- The link after a request of a kind is taken and answered, its effect having raised the notices `ns` (R182 to R185). -/
def Link.afterRequest (l : Link) (ns : List Notice) (kind : Byte) (status : Status) (data : List Byte) : Link :=
  ((({ l with rx := [] }).notifyAll ns).answer kind status data).kick

/-- The link after an event has raised the notices `ns` (R184, R185). -/
def Link.afterEvent (l : Link) (ns : List Notice) : Link := (l.notifyAll ns).kick

/-- The frame, kind and body, of a command that is a request (12.6). -/
def requestOf : Instr → Option (Byte × List Byte)
  | .identify b => some (0x01#8, b)
  | .reset b => some (0x02#8, b)
  | .storeSave b => some (0x03#8, b)
  | .treeEnable b => some (0x08#8, b)
  | .treeDisable b => some (0x09#8, b)
  | .treeSet b => some (0x0A#8, b)
  | .treeGet b => some (0x0B#8, b)
  | .admitTags b => some (0x10#8, b)
  | .unadmit b => some (0x11#8, b)
  | .admitRead b => some (0x12#8, b)
  | .admitClear b => some (0x13#8, b)
  | .unclaimedRead b => some (0x14#8, b)
  | .unclaimedClear b => some (0x15#8, b)
  | .terminalRead b => some (0x18#8, b)
  | .terminalFind b => some (0x19#8, b)
  | .terminalList b => some (0x1A#8, b)
  | .retire b => some (0x1B#8, b)
  | .release b => some (0x1C#8, b)
  | .realign b => some (0x1D#8, b)
  | .reload b => some (0x1E#8, b)
  | .standdown b => some (0x1F#8, b)
  | .lift b => some (0x20#8, b)
  | .profileOpen b => some (0x28#8, b)
  | .profileWrite b => some (0x29#8, b)
  | .profileClose b => some (0x2A#8, b)
  | .profileErase b => some (0x2B#8, b)
  | .profileInfo b => some (0x2C#8, b)
  | .pushBegin b => some (0x2D#8, b)
  | .pushData b => some (0x2E#8, b)
  | .reportTableSet b => some (0x30#8, b)
  | .reportTableGet b => some (0x31#8, b)
  | .reportRead b => some (0x32#8, b)
  | _ => none

/-- Whether a body of a request kind has a length that its fields add up to (12.10). -/
def bodyLengthOk (kind : Byte) (n : Nat) : Bool :=
  match kind.toNat with
  | 0x01 | 0x02 | 0x13 | 0x14 | 0x31 => n == 0
  | 0x03 | 0x08 | 0x09 | 0x28 | 0x2A | 0x2B | 0x2C => n == 1
  | 0x0B | 0x12 | 0x18 | 0x1B | 0x1C | 0x1D | 0x1E => n == 2
  | 0x1A | 0x2D | 0x32 => n == 3
  | 0x30 => n == 5
  | 0x11 | 0x19 => n == 8
  | 0x1F | 0x20 => n == 9
  | 0x15 => n == 0 || n == 8
  | 0x0A => (List.range 29).any fun k => n == 1 + 5 * k
  | 0x10 => (List.range 8).any fun k => n == 27 * (k + 1)
  | 0x29 => 4 ≤ n && n ≤ 195
  | 0x2E => 2 ≤ n && n ≤ 257
  | _ => true

/-- The state after a request that leaves the part as `p`: its notices, then its reply. -/
def State.afterRequest (s : State) (p : Part) (ns : List Notice) (kind : Byte) (status : Status) (data : List Byte) :
    State :=
  { s with part := p, link := s.link.afterRequest ns kind status data }

/-- The state after an event that leaves the part as `p` and raised the notices `ns`. -/
def State.afterEvent (s : State) (p : Part) (ns : List Notice) : State :=
  { s with part := p, link := s.link.afterEvent ns }

/-- A request changed nothing but the link, which holds its reply (R181). -/
def State.answered (s : State) (kind : Byte) (status : Status) (data : List Byte) : State :=
  s.afterRequest s.part [] kind status data

/-- The state at a position of the current cycle. -/
def State.atPos (s : State) (pos : Nat) : State := { s with clock := { s.clock with pos := pos } }

end Sys2Proof.Machine
end

