-- ==== Sys2Proof/Certificates/Slice0/Obligations.lean ====
section
/-!
DEFINITION. Certificates/Slice0/Obligations.lean: the statements for the provers. A request's statement supposes that the
request is taken (`State.Taking`); an event's, that what it waits for has come. `s.afterRequest p ns kind status data` and
`s.afterEvent p ns` leave everything of `s` but the part and the link as it is.
-/

open Sys2Proof Sys2Proof.Machine

/-! ### The machine -/

/-- R183, notes/assumptions/27.md: a step runs the command at the front of the queue on the state with the queue's rest. -/
def Obligations.StepRunsFront : Prop :=
  ∀ (s : State) (c : Instr) (rest : List Instr), s.pending = c :: rest → step s = exec c { s with pending := rest }

/-- Every command has a next state, in every state, and leaves the queue of waiting commands as it is (the part names
nothing that stops it; the queue lies outside it: notes/assumptions/27.md). -/
def Obligations.CommandsKeepQueue : Prop :=
  ∀ (c : Instr) (s : State), ∃ t, exec c s = .next t ∧ t.pending = s.pending

/-- R1 and R2 through the tick that an empty queue lets pass (the model's choice, notes/assumptions/1.md): tree time
advances by one; within a cycle nothing else changes; at its end the cycle number, the cycle-in-tenth count and the tenth
count follow R1 and R2. -/
def Obligations.TickAdvancesTime : Prop :=
  ∀ s : State, s.pending = [] → s.clock.Ok → s.clock.stage = .closed →
    ∃ t, step s = .next t ∧ t.pending = [] ∧ t.clock.treeTime = s.clock.treeTime + 1 ∧ t.clock.stage = .closed
      ∧ (s.clock.pos < 131071 → t = s.atPos (s.clock.pos + 1))
      ∧ (s.clock.pos = 131071 →
          t.clock.cycle = s.clock.cycle + 1 ∧ t.clock.pos = 0
            ∧ t.clock.cycleInTenth = (if s.clock.cycleInTenth = 762 then 0 else s.clock.cycleInTenth + 1)
            ∧ t.clock.tenth = (if s.clock.cycleInTenth = 762 then s.clock.tenth + 1 else s.clock.tenth))

/-- The invariants below hold right after reset (R1, R2, R64, R77, R138, R164, R183, R185, 1.8). -/
def Obligations.ResetMeetsInvariants : Prop :=
  State.reset.clock.Ok ∧ State.reset.LinkOk ∧ State.reset.StoredOk ∧ State.reset.part.TableOk

/-- R1 and R2: every step keeps the timebase in its ranges. -/
def Obligations.StepKeepsClockOk : Prop :=
  ∀ s t : State, s.clock.Ok → step s = .next t → t.clock.Ok

/-- R183 to R185: every step keeps the bounds of the notice queue and of the replies waiting, the one reply of the request
slot, and a transmitter that is busy while anything waits. -/
def Obligations.StepKeepsLinkOk : Prop :=
  ∀ s t : State, s.LinkOk → step s = .next t → t.LinkOk

/-- 1.8, R138, R164: every step keeps the settings, the internal profile slots and the report table in their ranges. -/
def Obligations.StepKeepsStoredOk : Prop :=
  ∀ s t : State, s.StoredOk → step s = .next t → t.StoredOk

/-- The law of R66 with R64, R77 and R99: every step keeps an entry bound exactly while one record carries its tag, every record
the record of an entry, the records in ascending order of their keys, and tags and handles distinct and within the
capacities. -/
def Obligations.StepKeepsTableOk : Prop :=
  ∀ s t : State, s.part.TableOk → step s = .next t → t.part.TableOk

/-- R5, R17, R138, R164: only the commands named write settings, lifecycle states, internal slots and the report table. -/
def Obligations.OnlyHostWritesStored : Prop :=
  ∀ (c : Instr) (s t : State), exec c s = .next t →
    (mayWriteSettings c = false → ∀ u, (t.part.tree u).settings = (s.part.tree u).settings)
      ∧ (mayWriteEnabled c = false → ∀ u, (t.part.tree u).enabled = (s.part.tree u).enabled)
      ∧ (mayWriteSlots c = false → t.part.slots = s.part.slots)
      ∧ (mayWriteReportTable c = false → t.part.reportTable = s.part.reportTable)

/-! ### Arrival arithmetic, windows, corrections -/

/-- R51 and R52: when the decode ends less than 3 quarters after the delimiter, reconciliation gives back the tree time of
the delimiter exactly, across the wrap too. -/
def Obligations.ReconcileExact : Prop :=
  ∀ d e : Clock, d.pos < 131072 → e.pos < 131072 → elapsed e.treeTime d.treeTime < 98304 →
    reconcile d.pos e.quarter = d.treeTime

/-- R54 inverts the landing of a hello (2.2): a delimiter 24 000 + 1600 x slice + r + O steps after the start of the CALL
cycle gives the round trip r, across the wrap too. R55 to R59: the class of a hello, its lag and how the lag rounds. -/
def Obligations.HelloArithmetic : Prop :=
   (∀ (m : Hello) (offset r : Int), -4294967296 ≤ 24000 + 1600 * (m.slice : Int) + r + offset →
      24000 + 1600 * (m.slice : Int) + r + offset < 4294967296 →
      m.arrival = startOf m.w + BitVec.ofInt 33 (24000 + 1600 * (m.slice : Int) + r + offset) → m.rtt offset = r)
    ∧ (∀ (m : Hello) (s : Settings), s.Ok →
         (m.measure s).rtt = m.rtt s.treeOffset
           ∧ ((m.measure s).cls = .negative ↔ m.rtt s.treeOffset < -64)
           ∧ ((m.measure s).cls = .near ↔ -64 ≤ m.rtt s.treeOffset ∧ m.rtt s.treeOffset ≤ -1)
           ∧ ((m.measure s).cls = .inReach ↔ 0 ≤ m.rtt s.treeOffset ∧ m.rtt s.treeOffset ≤ s.reachDepth)
           ∧ ((m.measure s).cls = .far ↔ (s.reachDepth : Int) < m.rtt s.treeOffset)
           ∧ (m.measure s).lag % 4 = 0 ∧ (m.measure s).lag ≤ s.reachDepth
           ∧ ((m.measure s).cls = .far → (m.measure s).lag = 0)
           ∧ ((m.measure s).cls = .near → (m.measure s).lag = s.reachDepth)
           ∧ ((m.measure s).cls = .inReach →
               ((m.measure s).lag : Int) - ((s.reachDepth : Int) - m.rtt s.treeOffset) =
                 if ((s.reachDepth : Int) - m.rtt s.treeOffset) % 4 = 0 then 0
                 else if ((s.reachDepth : Int) - m.rtt s.treeOffset) % 4 = 1 then -1
                 else if ((s.reachDepth : Int) - m.rtt s.treeOffset) % 4 = 2 then 2
                 else 1))

/-- R41: an arrival `d` steps after the start of the CALL cycle lies inside the hello span exactly between its two ends. -/
def Obligations.SpanGeometry : Prop :=
  ∀ (s : Settings) (w : CycleNo) (S c h : Nat) (d : Int), s.Ok → (S = 8 ∨ S = 16 ∨ S = 32 ∨ S = 64) →
    -2147483648 ≤ d → d ≤ 2147483647 →
    ((⟨w, S, spanStartOf s w, spanStopOf s w S, c, h⟩ : Window).contains (startOf w + BitVec.ofInt 33 d) = true ↔
      24000 + s.treeOffset - 64 ≤ d
        ∧ d ≤ 24000 + (s.reachDepth : Int) + s.treeOffset + ((S : Int) - 1) * 1600 + 1200 + 64)

/-- R130: a correction is the multiple of 4 nearest to e, the one nearer to zero of two, and the corrected lag is the lag less
it, or exactly 0 or D where that lies outside 0..D; R132 and R110: the ladder, and the interval of each level. What the
upkeep unit, handed the outcome of a CHECK or an UPKEEP, makes of the record: R129 confirms it (R92), corrects its lag with a
LAG by handle or finds DRIFT (R93); R131 counts the CHECK attempts up to CHECK_FAIL; R132 to R135 move the ladder, find
DRIFT, nudge the lag and settle the nudge-pending mark; R136 raises the ladder; R126 lets LAPSED be. An entry to REFIND is
stated for a record whose push is not being served (StanddownLift, RetireRelease and ExpectationExpires have the others).
That DRIFT leaves the nudge-pending mark and that only ANSWERED settles it is the model's reading
(notes/assumptions/17.md, notes/assumptions/18.md); that a confirmed record's TERMINAL notice comes before those of the take
that its joining brings is the model's order (notes/assumptions/20.md); that slot A of a confirmed record is due since the
present cycle also when its attention mark is set is the model's choice (notes/assumptions/49.md). -/
def Obligations.UpkeepArithmetic : Prop :=
   ((∀ e : Int, correctionOf e % 4 = 0 ∧ (e - correctionOf e).natAbs ≤ 2
        ∧ ((e - correctionOf e).natAbs = 2 → (correctionOf e).natAbs < e.natAbs))
      ∧ ∀ (lag depth : Nat) (e : Int), lag % 4 = 0 → depth % 4 = 0 → lag ≤ depth →
          correctedLag lag (correctionOf e) depth % 4 = 0 ∧ correctedLag lag (correctionOf e) depth ≤ depth
            ∧ (0 ≤ (lag : Int) - correctionOf e → (lag : Int) - correctionOf e ≤ depth →
                (correctedLag lag (correctionOf e) depth : Int) = lag - correctionOf e)
            ∧ ((lag : Int) - correctionOf e < 0 → correctedLag lag (correctionOf e) depth = 0)
            ∧ ((depth : Int) < lag - correctionOf e → correctedLag lag (correctionOf e) depth = depth))
    ∧ (∀ (s : Settings) (r : Record) (e : Int), s.Ok → r.level ≤ 3 →
         (r.impaired = true → ladderAfter s r e = 3)
           ∧ (r.impaired = false → s.raiseThreshold < e.natAbs → ladderAfter s r e = min 3 (r.level + 1))
           ∧ (r.impaired = false → e.natAbs < s.lowerThreshold → ladderAfter s r e = r.level - 1)
           ∧ (r.impaired = false → s.lowerThreshold ≤ e.natAbs → e.natAbs ≤ s.raiseThreshold → ladderAfter s r e = r.level)
           ∧ upkeepInterval 0 = 1024 ∧ upkeepInterval 1 = 256 ∧ upkeepInterval 2 = 64 ∧ upkeepInterval 3 = 16)
    ∧ (∀ (p : Part) (k : Clock) (t : TreeId) (x : Expectation) (r judged : Record) (S : Settings) (deadline : Tenth),
         x.purpose = .check → p.record? t x.handle = some r → S = (p.tree t).settings →
         deadline = k.tenth + BitVec.ofNat 32 (10 * S.refindTime) →
         judged = { r with check := if r.check = .granted then .afterReply else r.check } →
         (∀ (e : Int) (flag : Bool) (body : ReplyBody) (en : AdmitEntry), e.natAbs ≤ S.alignTolerance →
             p.entry? r.tag = some en →
             (en.profile = 0 →
                 ∃ v, p.ownerOutcome k t x (.answered e flag body) =
                     { v with raised := p.raised ++ [.terminal t x.handle r.tag r.state .inService .confirmed] }
                   ∧ p.onlyRecord v t x.handle
                   ∧ v.record? t x.handle =
                       some { r with
                         state := .inService
                         cause := .confirmed
                         level := if r.impaired then 3 else 2
                         lastUpkeepGrant := x.grantCycle
                         load := none
                         check := .none
                         polls :=
                           ⟨if p.reportTable.a.kind = 0 then r.polls.a else { r.polls.a with due := some k.cycle },
                            if p.reportTable.b.kind = 0 then r.polls.b else { r.polls.b with due := some k.cycle },
                            if p.reportTable.c.kind = 0 then r.polls.c else { r.polls.c with due := some k.cycle }⟩ })
               ∧ (en.profile ≠ 0 →
                 p.ownerOutcome k t x (.answered e flag body) =
                   ({ (p.modTree t fun T => { T with pushQueue := T.pushQueue ++ [x.handle] }).modRecord t x.handle fun q =>
                        { q with
                          state := .loading
                          cause := .confirmed
                          level := if q.impaired then 3 else 2
                          lastUpkeepGrant := x.grantCycle
                          load := some ⟨en.profile, .queued, 0, none⟩
                          check := .none } with
                      raised := p.raised ++ [.terminal t x.handle r.tag r.state .loading .confirmed] } : Part).takeTest k t))
           ∧ (∀ (o : MatchOutcome) (lag : Nat),
             ((∃ e flag body, o = .answered e flag body ∧ S.alignTolerance < e.natAbs ∧ e.natAbs ≤ S.driftLimit
                 ∧ lag = correctedLag r.lag (correctionOf e) S.reachDepth)
               ∨ ((∃ flag, o = .errored flag) ∨ o = .missed) ∧ lag = r.lag) →
             ∀ q : Part, q = (if lag = r.lag then p else p.offer t (.lagByHandle x.handle (lag / 4))) →
             (r.checkAttempts + 1 < 4 →
                 q.onlyRecord (p.ownerOutcome k t x o) t x.handle
                   ∧ (p.ownerOutcome k t x o).record? t x.handle =
                     some { judged with
                       lag := lag
                       checkAttempts := r.checkAttempts + 1 })
               ∧ (3 ≤ r.checkAttempts → (p.engine t).serving ≠ some x.handle →
                 ∃ v, p.ownerOutcome k t x o =
                     { v with raised := p.raised ++ [.terminal t x.handle r.tag r.state .refind .checkFail] }
                   ∧ (q.relistened t x.handle).onlyRecord v t x.handle
                   ∧ v.record? t x.handle =
                     some ({ r with
                       lag := lag
                       checkAttempts := r.checkAttempts + 1 }.refound .checkFail deadline)))
           ∧ (∀ (e : Int) (flag : Bool) (body : ReplyBody), S.alignTolerance < e.natAbs → S.driftLimit < e.natAbs →
             (p.engine t).serving ≠ some x.handle →
             ∃ v, p.ownerOutcome k t x (.answered e flag body) =
                 { v with raised := p.raised ++ [.terminal t x.handle r.tag r.state .refind .drift] }
               ∧ (p.relistened t x.handle).onlyRecord v t x.handle
               ∧ v.record? t x.handle = some (r.refound .drift deadline))
           ∧ p.onlyRecord (p.ownerOutcome k t x .lapsed) t x.handle
           ∧ (p.ownerOutcome k t x .lapsed).record? t x.handle = some judged)
    ∧ ∀ (p : Part) (k : Clock) (t : TreeId) (x : Expectation) (r : Record) (S : Settings),
        x.purpose = .upkeep → p.record? t x.handle = some r → S = (p.tree t).settings →
        (∀ (e : Int) (flag : Bool) (body : ReplyBody), S.driftLimit < e.natAbs → (p.engine t).serving ≠ some x.handle →
            ∃ v, p.ownerOutcome k t x (.answered e flag body) =
                { v with raised := p.raised ++ [.terminal t x.handle r.tag r.state .refind .drift] }
              ∧ (p.relistened t x.handle).onlyRecord v t x.handle
              ∧ v.record? t x.handle =
                some ({ r with level := ladderAfter S r e }.refound .drift
                  (k.tenth + BitVec.ofNat 32 (10 * S.refindTime))))
          ∧ (∀ (e : Int) (flag : Bool) (body : ReplyBody) (settled : Bool) (lag : Nat), e.natAbs ≤ S.driftLimit →
            (settled = true ↔ ∀ m, r.nudgePending = some m →
              2 ≤ cyclesSince x.grantCycle m ∧ cyclesSince x.grantCycle m ≤ 32767) →
            lag = (if settled = true ∧ p.hasOrder t (Order.isLag x.handle) = false ∧ S.deadband < e.natAbs then
              correctedLag r.lag (correctionOf (max (-(S.slew : Int)) (min S.slew e))) S.reachDepth else r.lag) →
            (if lag = r.lag then p else p.offer t (.lagByHandle x.handle (lag / 4))).onlyRecord
                (p.ownerOutcome k t x (.answered e flag body)) t x.handle
              ∧ (p.ownerOutcome k t x (.answered e flag body)).record? t x.handle =
                some { r with
                  level := ladderAfter S r e
                  lag := lag
                  nudgePending := if settled then none else r.nudgePending })
          ∧ (∀ o, (o = .missed ∨ ∃ flag, o = .errored flag) →
            p.onlyRecord (p.ownerOutcome k t x o) t x.handle
              ∧ (p.ownerOutcome k t x o).record? t x.handle =
                some { r with level := if r.impaired then 3 else min 3 (r.level + 1) })
          ∧ p.ownerOutcome k t x .lapsed = p

/-! ### Cells, frames, stored blocks -/

/-- R12, R21, R31 to R35: a reply cell of each kind with a good CRC is read as its fields say; bytes beyond the fields are
not read, nor is the handle byte of a HELLO, whose handle is 0; a REPORT length above 24 is read as 24, and a LOAD-STATUS
code above 4 as FAIL with code 0; a wrong CRC or another kind gives no reply. -/
def Obligations.ReplyCellsDecode : Prop :=
  (∀ (h f number slice : Byte) (tag : Tag) (maker : Maker) (pad : List Byte), pad.length = 13 →
      decodeReply (withCrc16 ([0x41#8, h, f, number, slice] ++ tagBytes tag ++ be 4 maker.toNat ++ pad)) =
        some ⟨0, f.getLsbD 0, .hello number slice.toNat tag maker⟩)
    ∧ (∀ (h f : Byte) (pad : List Byte), pad.length = 27 →
        decodeReply (withCrc16 ([0x42#8, h, f] ++ pad)) = some ⟨h.toNat, f.getLsbD 0, .echo⟩)
    ∧ (∀ (h f status : Byte) (value : Nat) (pad : List Byte), value < 65536 → pad.length = 24 →
        decodeReply (withCrc16 ([0x43#8, h, f, status] ++ be 2 value ++ pad)) =
          some ⟨h.toNat, f.getLsbD 0, .loadStatus
            (if status = 0 then .notReady
            else if status = 1 then .ready
            else if status = 2 then .receiving value
            else if status = 3 then .done
            else if status = 4 then .fail (value % 256)
            else .fail 0)⟩)
    ∧ (∀ (h f kind len : Byte) (data pad : List Byte), data.length = min 24 len.toNat →
        pad.length = 25 - data.length →
        decodeReply (withCrc16 ([0x44#8, h, f, kind, len] ++ data ++ pad)) =
          some ⟨h.toNat, f.getLsbD 0, .report kind data⟩)
    ∧ (∀ body crc : List Byte, body.length = 30 → crc ≠ be 2 (crc16 body).toNat → decodeReply (body ++ crc) = none)
    ∧ ∀ body : List Byte, body.length = 30 →
        byteAt body 0 ≠ 0x41#8 → byteAt body 0 ≠ 0x42#8 → byteAt body 0 ≠ 0x43#8 → byteAt body 0 ≠ 0x44#8 →
        decodeReply (withCrc16 body) = none

/-- R181: after bytes that hold no sync byte the receiver finds a whole frame, and goes on behind it. -/
def Obligations.HuntFindsFrame : Prop :=
  ∀ (junk rest body : List Byte) (kind : Byte) (n : Nat), Config.syncByte ∉ junk → body.length ≤ 513 →
    hunt (junk.length + 1 + n) (junk ++ frameBytes kind body ++ rest) =
      ((kind, body) :: (hunt n rest).1, (hunt n rest).2)

/-- 12.8, R191, R189: the settings block that a save writes passes start-up's judgement, and applying it gives back every
tree's settings and the report table. -/
def Obligations.SavedSettingsReload : Prop :=
  ∀ (s : State) (p : Part), s.StoredOk →
    settingsBlockGood s.part.settingsBlock = true
      ∧ (∀ t, ((p.applySettings (fieldAt s.part.settingsBlock 5 460)).tree t).settings = (s.part.tree t).settings)
      ∧ (p.applySettings (fieldAt s.part.settingsBlock 5 460)).reportTable = s.part.reportTable

/-- 12.8, R64, R69: the 27 bytes of an entry, as ADMIT carries it and a save writes it, give back the entry, its marks clear,
without a sighting, and a tree mask of 0 as 15; several in a row are taken apart in order. -/
def Obligations.EntriesReload : Prop :=
  (∀ e : AdmitEntry, e.profile ≤ 64 → e.label.length ≤ 16 →
      entryOf e.stored =
        some { e with
          mask := if e.mask = 0 then 15#4 else e.mask
          bound := false
          conflict := false
          sighting := none })
    ∧ ∀ es : List AdmitEntry, (∀ e ∈ es, e.label.length ≤ 16) →
        chunks27 (es.map AdmitEntry.stored).flatten = es.map AdmitEntry.stored

/-! ### Orders and grants -/

/-- R3, R9 and R10: where an order offered to a tree goes; a withdrawal takes the matching orders out of the queue and of the
held orders, the others keeping their order; the round of held orders moves them to the queue oldest first while places
remain; no other tree changes. -/
def Obligations.OrderQueueRules : Prop :=
   (∀ (p : Part) (t : TreeId) (o : Order),
      ((p.tree t).enabled = false → p.offer t o = p)
        ∧ ((p.tree t).enabled = true → (p.tree t).queue.length < 32 → (p.tree t).heldOrders = [] →
            (p.offer t o).tree t = { p.tree t with queue := (p.tree t).queue ++ [o] })
        ∧ ((p.tree t).enabled = true → (32 ≤ (p.tree t).queue.length ∨ (p.tree t).heldOrders ≠ []) →
            (o.isByTag = true → ((p.tree t).heldOrders.filter Order.isByTag).length < 64) →
            (p.offer t o).tree t = { p.tree t with heldOrders := (p.tree t).heldOrders ++ [o] })
        ∧ ((p.tree t).enabled = true → (32 ≤ (p.tree t).queue.length ∨ (p.tree t).heldOrders ≠ []) →
            o.isByTag = true → 64 ≤ ((p.tree t).heldOrders.filter Order.isByTag).length →
            (p.offer t o).tree t = p.tree t)
        ∧ ∀ u, u ≠ t → (p.offer t o).tree u = p.tree u)
    ∧ (∀ (p : Part) (t : TreeId) (f : Order → Bool),
         (p.withdraw t f).tree t =
             { p.tree t with
               queue := (p.tree t).queue.filter fun o => !f o
               heldOrders := (p.tree t).heldOrders.filter fun o => !f o }
           ∧ ∀ u, u ≠ t → (p.withdraw t f).tree u = p.tree u)
    ∧ (∀ (p : Part) (t : TreeId),
         (p.reoffer t).tree t =
             { p.tree t with
               queue := (p.tree t).queue ++ (p.tree t).heldOrders.take (32 - (p.tree t).queue.length)
               heldOrders := (p.tree t).heldOrders.drop (32 - (p.tree t).queue.length) }
           ∧ ∀ u, u ≠ t → (p.reoffer t).tree u = p.tree u)

/-- R7, R8: the four control field positions, in order, take the oldest orders and fill cells where the queue is empty;
positions 3 and 4 are offered first to the push engine, which supplies a LOAD cell while R154 holds, pausing where the next
cell's bytes are wanting (R157). Each order taken is reported to its producer: a LAG by tag moves the LAG sent cycle and
takes a HEARD record to ALIGNING (R91), a LAG by handle sets the nudge-pending mark (R135; in REFIND and HELD too, the
model's choice, notes/assumptions/39.md), a PREPARE or COMMIT of the push starts its timer and raises an ask (R152, R158). A
STREAMING engine raises the ask of R155 when it may (R111). -/
def Obligations.FieldTakesOldest : Prop :=
  (∀ (p : Part) (k : Clock) (t : TreeId), (p.engine t).state = .idle →
      ((p.fillField k t).tree t).field =
          ((p.tree t).queue.map Cell.order ++ List.replicate 4 Cell.fill).take 4
        ∧ ((p.fillField k t).tree t).queue = (p.tree t).queue.drop 4)
    ∧ (∀ (p p1 p2 p3 p4 : Part) (c1 c2 c3 c4 : Cell) (k : Clock) (t : TreeId), p.orderCell k t = (p1, c1) →
        p1.orderCell k t = (p2, c2) → p2.loadOrOrderCell k t = (p3, c3) → p3.loadOrOrderCell k t = (p4, c4) →
        p.fillField k t = p4.modTree t fun T => { T with field := [c1, c2, c3, c4] })
    ∧ (∀ (p : Part) (k : Clock) (t : TreeId),
        ((p.tree t).queue = [] → p.orderCell k t = (p, .fill))
          ∧ ∀ o rest, (p.tree t).queue = o :: rest →
            p.orderCell k t = ((p.modTree t fun T => { T with queue := rest }).reportSent k t o, .order o))
    ∧ (∀ (p : Part) (k : Clock) (t : TreeId) (e after : Engine) (n : Nat), e = p.engine t →
        n = min 40 (e.imageLength - e.sendPointer) →
        after =
          { e with
            sendPointer := e.sendPointer + n
            cellCount := e.cellCount + 1 } →
        (e.state = .streaming ∧ 0 < n ∧ e.sendPointer + n ≤ e.ackPoint + e.fifo.length
            ∧ e.sendPointer - e.ackPoint ≤ 1240 ∧ e.sendPointer - e.ackPoint + n ≤ 1280 →
          (p.loadOrOrderCell k t).2 =
              .load (e.serving.getD 0) e.sendPointer ((e.fifo.drop (e.sendPointer - e.ackPoint)).take n)
            ∧ (after.paused = false →
              (p.loadOrOrderCell k t).1 = p.modEngine t fun _ => { after with stallTimer := none })
            ∧ (after.paused = true → e.stallTimer = none →
              (p.loadOrOrderCell k t).1 =
                { p.modEngine t fun _ => { after with stallTimer := some ⟨k.tenth, (p.tree t).settings.stallLimit⟩ } with
                  raised := p.raised ++
                    if e.source = some .streamed then
                      [.pushHungry t (e.serving.getD 0) e.imageLength (e.ackPoint + e.fifo.length) (2048 - e.fifo.length)]
                    else [] }))
          ∧ (¬(e.state = .streaming ∧ 0 < n ∧ e.sendPointer + n ≤ e.ackPoint + e.fifo.length
              ∧ e.sendPointer - e.ackPoint ≤ 1240 ∧ e.sendPointer - e.ackPoint + n ≤ 1280) →
            p.loadOrOrderCell k t = p.orderCell k t))
    ∧ (∀ (p : Part) (k : Clock) (t : TreeId) (h : Nat),
        (∀ g lag4,
          ((∀ r, p.record? t h = some r → r.tag ≠ g) → p.reportSent k t (.lagByTag g h lag4) = p)
            ∧ ∀ r, p.record? t h = some r → r.tag = g →
              ∃ v, p.reportSent k t (.lagByTag g h lag4) =
                  { v with raised := p.raised ++ if r.state = .heard then [.terminal t h g .heard .aligning .lagSent] else [] }
                ∧ p.onlyRecord v t h
                ∧ v.record? t h =
                  some { r with
                    state := if r.state = .heard then .aligning else r.state
                    cause := if r.state = .heard then .lagSent else r.cause
                    lagSentCycle := some k.cycle
                    check := if r.state = .heard ∨ r.state = .aligning then .afterLag else r.check })
          ∧ (∀ r lag4, p.record? t h = some r →
            p.onlyRecord (p.reportSent k t (.lagByHandle h lag4)) t h
              ∧ (p.reportSent k t (.lagByHandle h lag4)).record? t h =
                some { r with
                  lagSentCycle := some k.cycle
                  nudgePending := some k.cycle
                  check := if r.state = .aligning then .afterLag else r.check })
          ∧ (∀ e n profile crc, e = p.engine t →
            (e.state ≠ .preparing ∨ e.serving ≠ some h → p.reportSent k t (.prepare h n profile) = p)
              ∧ (e.state ≠ .committing ∨ e.serving ≠ some h → p.reportSent k t (.commit h crc) = p)
              ∧ (e.serving = some h → e.awaiting = false → e.ask = none →
                (∀ x ∈ (p.tree t).expectations, x.handle = h → x.purpose ≠ .loadStatus) →
                (e.state = .preparing →
                    p.reportSent k t (.prepare h n profile) =
                      p.modEngine t fun _ =>
                        { e with
                          prepareTimer := some ⟨k.tenth, (p.tree t).settings.prepareTimeout⟩
                          ask := some k.nextStart
                          askDeferred := false })
                  ∧ (e.state = .committing →
                    p.reportSent k t (.commit h crc) =
                      p.modEngine t fun _ =>
                        { e with
                          commitTimer :=
                            if e.commitTimer = none then some ⟨k.tenth, (p.tree t).settings.commitTimeout⟩ else e.commitTimer
                          ask := some k.nextStart
                          askDeferred := false })))
          ∧ p.reportSent k t (.relisten h) = p ∧ ∀ g, p.reportSent k t (.standdown g) = p ∧ p.reportSent k t (.lift g) = p)
    ∧ ∀ (p : Part) (k : Clock) (t : TreeId) (e : Engine) (h : Nat), e = p.engine t → e.serving = some h →
        (e.state ≠ .streaming
            ∨ (e.cellCount < 16 ∧ (e.sendPointer ≠ e.imageLength ∨ e.ackPoint = e.imageLength) ∧ e.lastBad = false)
            ∨ e.awaiting = true ∨ e.ask ≠ none → p.streamAsk k t = p)
          ∧ (e.state = .streaming →
            (16 ≤ e.cellCount ∨ (e.sendPointer = e.imageLength ∧ e.ackPoint ≠ e.imageLength) ∨ e.lastBad = true) →
            e.awaiting = false → e.ask = none →
            p.streamAsk k t =
              p.modEngine t fun _ =>
                if (p.tree t).expectations.any fun x => x.handle == h && x.purpose == .loadStatus then
                  { e with askDeferred := true }
                else
                  { e with
                    ask := some k.nextStart
                    askDeferred := false })

/-- R108 and R109: which records are candidates in a class, and since which cycle: none with an entry in the list; for CHECK an
eligible ALIGNING record, outside HUSH and with no LAG for it queued or held; for LOAD-STATUS the record of the engine's ask;
for UPKEEP an IN_SERVICE or LOADING record with its mark set; for POLL an IN_SERVICE record, with its slot due longest, the
first of equals (R167). R112: a slot goes to the first class, in the order of its number, that has a candidate, and within it
to the one that waits longest, the first in ascending order of handle of several; it stays unused only when no class has
one. -/
def Obligations.ArbiterChoice : Prop :=
  (∀ (p : Part) (k : Clock) (t : TreeId) (n : BitVec 16),
    (classOrder n =
        if n.toNat % 8 = 7 then [.upkeep, .poll, .check, .loadStatus] else [.check, .loadStatus, .upkeep, .poll])
      ∧ (p.choose k t n = none ↔ ∀ u, p.candidates k t u = [])
      ∧ ∀ x, p.choose k t n = some x →
          ∃ before u after pre post, classOrder n = before ++ u :: after ∧ (∀ v ∈ before, p.candidates k t v = [])
            ∧ p.candidates k t u = pre ++ x :: post
            ∧ (∀ y ∈ pre, cyclesSince k.cycle y.since < cyclesSince k.cycle x.since)
            ∧ ∀ y ∈ post, cyclesSince k.cycle y.since ≤ cyclesSince k.cycle x.since)
    ∧ ∀ (p : Part) (k : Clock) (t : TreeId) (u : Purpose),
      (p.TableOk → ((p.candidates k t u).map (·.handle)).Pairwise (· < ·))
        ∧ ∀ y : Candidate, y ∈ p.candidates k t u ↔
          ∃ r ∈ p.records, r.tree = t ∧ r.handle = y.handle ∧ y.purpose = u
            ∧ (∀ x ∈ (p.tree t).expectations, x.handle ≠ r.handle)
            ∧ match u with
              | .check =>
                y.report = none ∧ r.state = .aligning ∧ r.check = .eligible y.since ∧ (p.tree t).guard.hush = false
                  ∧ ∀ o ∈ (p.tree t).queue ++ (p.tree t).heldOrders, o.isLag r.handle = false
              | .loadStatus =>
                y.report = none ∧ (p.engine t).serving = some r.handle ∧ (p.engine t).ask = some y.since
              | .upkeep =>
                y.report = none ∧ (r.state = .inService ∨ r.state = .loading) ∧ r.upkeepDue = true
                  ∧ y.since = r.lastUpkeepGrant + BitVec.ofNat 16 (upkeepInterval r.level)
              | .poll =>
                r.state = .inService ∧ ∃ x : ReportSlot, y.report = some (x, (p.reportTable.get x).kind)
                  ∧ (p.reportTable.get x).kind ≠ 0 ∧ (r.polls.get x).due = some y.since
                  ∧ ∀ (z : ReportSlot) (d : CycleNo), (p.reportTable.get z).kind ≠ 0 → (r.polls.get z).due = some d →
                    cyclesSince k.cycle d ≤ cyclesSince k.cycle y.since
                      ∧ (slotCode z < slotCode x → cyclesSince k.cycle d < cyclesSince k.cycle y.since)

/-- R113 and R114: a grant appends one expectation, with its expected arrival; a LOAD-STATUS grant takes the engine's send
pointer as its sent mark and satisfies the ask. What it does to the granted record: a CHECK is granted, and no longer eligible
(R109); an UPKEEP grant clears the upkeep-due mark and sets the last upkeep grant cycle (R110); a POLL grant sets the slot's
last poll tenth and clears its due mark, and for slot A the attention mark too (R168). Nothing else of the part changes. -/
def Obligations.GrantMakesExpectation : Prop :=
  ∀ (p : Part) (k : Clock) (t : TreeId) (slot : Nat) (x : Candidate),
    ((p.issueGrant k t slot x).tree t).expectations =
        (p.tree t).expectations ++
          [⟨x.handle, x.purpose, x.report, k.cycle, slot,
            startOf k.cycle + BitVec.ofInt 33 (24000 + ((p.tree t).settings.reachDepth : Int)
              + (p.tree t).settings.treeOffset + 98304 + 8192 * (slot : Int)),
            if x.purpose = .loadStatus then some (p.engine t).sendPointer else none, false⟩]
      ∧ (x.purpose = .loadStatus → (p.issueGrant k t slot x).engine t =
          { p.engine t with
            ask := none
            awaiting := true
            cellCount := 0 })
      ∧ (x.purpose ≠ .loadStatus → (p.issueGrant k t slot x).engine t = p.engine t)
      ∧ p.issueGrant k t slot x =
        { p.modTree t fun T =>
            { T with
              expectations := ((p.issueGrant k t slot x).tree t).expectations
              engine := (p.issueGrant k t slot x).engine t } with
          records := (p.issueGrant k t slot x).records }
      ∧ ∀ after : Record → Record,
        ((x.purpose = .check ∧ after = fun r => { r with check := .granted })
          ∨ (x.purpose = .loadStatus ∧ after = fun r => r)
          ∨ (x.purpose = .upkeep ∧ after = fun r =>
            { r with
              lastUpkeepGrant := k.cycle
              upkeepDue := false })
          ∨ (∃ kind, x.purpose = .poll ∧ x.report = some (.a, kind) ∧ after = fun r =>
            { r with
              polls := { r.polls with a := ⟨some k.tenth, none⟩ }
              attentionMark := none })
          ∨ (∃ y kind, x.purpose = .poll ∧ x.report = some (y, kind) ∧ y ≠ .a ∧ after = fun r =>
            { r with polls := r.polls.set y ⟨some k.tenth, none⟩ })) →
        (p.issueGrant k t slot x).records =
          p.records.map fun r => if r.tree = t ∧ r.handle = x.handle then after r else r

/-! ### Resets, start-up, the cycle start and the tenth boundary -/

/-- R180, R187, R188, R189: what each reset leaves: a power-on reset whatever the state, a soft reset at the end of the
RESET reply. With the store strap low start-up ends at once, its START-UP notice being sent; with it high the loader reads
the first page of the settings block. A soft reset keeps the READY slots. The rate straps read give the link's rate. While
no RESET reply is being sent SOFT_RESET changes nothing (the model's choice, notes/assumptions/2.md). The header and the
light at the reset instant are the model's choices (notes/assumptions/34.md, notes/assumptions/35.md), and so are the order
in which the loader reads (notes/assumptions/13.md), the reading of the store strap at resets alone
(notes/assumptions/44.md) and that the receiver loses the bytes of an unfinished frame (notes/assumptions/46.md). The model's own count of saves begun
goes on (notes/assumptions/14.md). -/
def Obligations.ResetLeaves : Prop :=
  ∀ (s : State) (r0 r1 : Bool),
    exec (.powerOnReset r0 r1 false) s =
        .next { State.reset with
          part := { Part.afterReset ⟨r0, r1, false⟩ emptySlots with savesBegun := s.part.savesBegun }
          link := { State.reset.link with rateCode := 2 * r1.toNat + r0.toNat }
          pending := s.pending }
      ∧ exec (.powerOnReset r0 r1 true) s =
        .next { State.reset with
          part :=
            { Part.afterReset ⟨r0, r1, true⟩ emptySlots with
              savesBegun := s.part.savesBegun
              loader := some ⟨.powerOn, none, []⟩
              master := ⟨some ⟨.loader, .block, 0, 64, false⟩, .saver⟩ }
          link := Link.afterReset (2 * r1.toNat + r0.toNat)
          pending := s.pending }
      ∧ (∀ x, s.link.tx = some x → x.source = .resetReply →
        exec (.softReset r0 r1 false) s =
            .next { State.reset with
              part :=
                { Part.afterReset ⟨r0, r1, false⟩ (s.part.slots.map fun v => if v.state = .ready then v else .empty) with
                  savesBegun := s.part.savesBegun }
              link :=
                { Link.afterReset (2 * r1.toNat + r0.toNat) with
                  tx := some ⟨.notice, 0x40#8, [0x02#8, 2#8, 3#8, 3#8, 0#8, 0#8, 0#8, 0#8, 0#8]⟩
                  notices := [⟨.startUp .soft .noDevice .noDevice 0 0 0, false⟩] }
              pending := s.pending }
          ∧ exec (.softReset r0 r1 true) s =
            .next { State.reset with
              part :=
                { Part.afterReset ⟨r0, r1, true⟩ (s.part.slots.map fun v => if v.state = .ready then v else .empty) with
                  savesBegun := s.part.savesBegun
                  loader := some ⟨.soft, none, []⟩
                  master := ⟨some ⟨.loader, .block, 0, 64, false⟩, .saver⟩ }
              link := Link.afterReset (2 * r1.toNat + r0.toNat)
              pending := s.pending })
      ∧ (∀ store, s.clock.stage = .closed → (∀ x, s.link.tx = some x → x.source ≠ .resetReply) →
        exec (.softReset r0 r1 store) s = .next s)
      ∧ (Link.afterReset (2 * r1.toNat + r0.toNat)).baud =
        if r1 then (if r0 then 2000000 else 921600) else if r0 then 460800 else 115200

/-- R189, R64 and 12.8: what the end of a read of the start-up loader does. Without acknowledge the settings block is a
FAULT and the loader goes on to the admission block, or start-up ends; while bytes of a block are wanting it reads on; the
whole settings block is applied when it passes, and passed over when it does not; an admission block whose marker, count or
CRC is wrong is DEFAULTED; the entries of one that passes are applied as by ADMIT, those that ADMIT would refuse being
skipped and counted. Start-up ends with the START-UP notice and then the trees with auto_start on being enabled, each with
its TREE notice. That the loader reads in transfers of at most 64 bytes, and when it judges, is the model's choice
(notes/assumptions/13.md). -/
def Obligations.LoaderReadEnds : Prop :=
  ∀ (s : State) (v : Loader) (a n : Nat), s.Settled → s.part.loader = some v →
    s.part.master = ⟨some ⟨.loader, .block, a, n, false⟩, .saver⟩ →
    (v.settings = none →
        exec (.storeLoadReadDone none) s =
          .next (s.afterEvent
            { s.part with
              loader := some ⟨v.kind, some .fault, []⟩
              master := ⟨some ⟨.loader, .block, 1024, 64, false⟩, .saver⟩ } []))
      ∧ (∀ bs, v.settings = none → bs.length = n → (v.got ++ bs).length < 465 →
        exec (.storeLoadReadDone (some bs)) s =
          .next (s.afterEvent
            { s.part with
              loader := some ⟨v.kind, none, v.got ++ bs⟩
              master :=
                ⟨some ⟨.loader, .block, (v.got ++ bs).length, min 64 (465 - (v.got ++ bs).length), false⟩, .saver⟩ }
            []))
      ∧ (∀ bs, v.settings = none → bs.length = n → 465 ≤ (v.got ++ bs).length →
        exec (.storeLoadReadDone (some bs)) s =
          .next (s.afterEvent
            { (if settingsBlockGood (v.got ++ bs) then s.part.applySettings (fieldAt (v.got ++ bs) 5 460) else s.part) with
              loader := some ⟨v.kind, some (if settingsBlockGood (v.got ++ bs) then .loaded else .defaulted), []⟩
              master := ⟨some ⟨.loader, .block, 1024, 64, false⟩, .saver⟩ } []))
      ∧ (∀ result, v.settings = some result →
        (∃ q, ({ s.part with
              loader := none
              master := ⟨none, .saver⟩ } : Part).autoStarted q
            ∧ exec (.storeLoadReadDone none) s = .next (s.afterEvent q (s.part.startUpNotices v.kind result .fault 0 0)))
          ∧ ∀ bs : List Byte, bs.length = n →
            ((∃ m c1 c2 more, v.got ++ bs = m :: c1 :: c2 :: more ∧ (m ≠ 0xC4#8 ∨ 256 < c1.toNat * 256 + c2.toNat)) →
                ∃ q, ({ s.part with
                      loader := none
                      master := ⟨none, .saver⟩ } : Part).autoStarted q
                  ∧ exec (.storeLoadReadDone (some bs)) s =
                    .next (s.afterEvent q (s.part.startUpNotices v.kind result .defaulted 0 0)))
              ∧ ∀ c1 c2 d1 d2 body, v.got ++ bs = 0xC4#8 :: c1 :: c2 :: d1 :: d2 :: body →
                c1.toNat * 256 + c2.toNat ≤ 256 →
                (body.length < 27 * (c1.toNat * 256 + c2.toNat) →
                    exec (.storeLoadReadDone (some bs)) s =
                      .next (s.afterEvent
                        { s.part with
                          loader := some ⟨v.kind, some result, v.got ++ bs⟩
                          master :=
                            ⟨some ⟨.loader, .block, 1024 + 5 + body.length,
                              min 64 (27 * (c1.toNat * 256 + c2.toNat) - body.length), false⟩, .saver⟩ } []))
                  ∧ ∀ blocks : List (List Byte), ∀ rest, body = blocks.flatten ++ rest → (∀ b ∈ blocks, b.length = 27) →
                    blocks.length = c1.toNat * 256 + c2.toNat →
                    ([d1, d2] ≠ be 2 (crc16 blocks.flatten).toNat →
                        ∃ q, ({ s.part with
                              loader := none
                              master := ⟨none, .saver⟩ } : Part).autoStarted q
                          ∧ exec (.storeLoadReadDone (some bs)) s =
                            .next (s.afterEvent q (s.part.startUpNotices v.kind result .defaulted 0 0)))
                      ∧ ([d1, d2] = be 2 (crc16 blocks.flatten).toNat →
                        ∃ q, ({ (s.part.applyEntries (blocks.filterMap entryOf) 0).1 with
                              loader := none
                              master := ⟨none, .saver⟩ } : Part).autoStarted q
                          ∧ exec (.storeLoadReadDone (some bs)) s =
                            .next (s.afterEvent q
                              (s.part.startUpNotices v.kind result .loaded
                                (s.part.applyEntries (blocks.filterMap entryOf) 0).2
                                (blocks.filter fun b =>
                                  decide (64 < (byteAt b 8).toNat ∨ 15 < (byteAt b 9).toNat ∨ 16 < (byteAt b 10).toNat)).length))))

/-- R1, R2, R3, R6, R107: a cycle start advances the timebase, and every tree's header carries the new cycle number: a DISABLED
tree's carries no CALL and N unused entries over four fill cells. On an ENABLED tree the light monitor counts the cycle just
ended (R13, R175); the window timer advances (R37); the CALL stands in the CALL cycle's header alone (R20, R40); a lead-in
begins when it is due (R38); QUIET is released after the CALL cycle (R16); a lead-in ends where DARK enters HUSH (R46). In a
window cycle every entry is unused, the slot counter stands and no expectation is made; in any other the entries are the
arbiter's choices slot by slot, the counter going up with each, with the marks that fall due at this cycle start set before
(`Record.fallenDue`). Then the settling count (R153), the control field (FieldTakesOldest), the held orders (OrderQueueRules),
the ask of R155 and the DARK test follow. That one command carries the whole cycle start, in this order, is the model's choice
(notes/assumptions/3.md, notes/assumptions/4.md), and so is that a full list draws no grant (notes/assumptions/10.md).
`Part.TableOk`, an invariant (StepKeepsTableOk), rules out two records of one handle. -/
def Obligations.CycleStartSendsHeaders : Prop :=
  (∀ (lit : TreeMask) (s : State), s.clock.stage = .closed → s.clock.Ok →
    ∃ t, exec (.cycleStart lit) s = .next t ∧ t.pending = s.pending
      ∧ t.clock =
          ⟨s.clock.cycle + 1, 0, if s.clock.cycleInTenth = 762 then 0 else s.clock.cycleInTenth + 1,
            if s.clock.cycleInTenth = 762 then s.clock.tenth + 1 else s.clock.tenth, .closed⟩
      ∧ ∀ u,
          ((s.part.tree u).enabled = false →
              (t.part.tree u).header =
                  ⟨s.clock.cycle + 1, none, List.replicate (s.part.tree u).settings.slotsPerCycle ⟨0, none, 0⟩⟩
                ∧ (t.part.tree u).field = [.fill, .fill, .fill, .fill])
            ∧ ((s.part.tree u).enabled = true →
              (t.part.tree u).header.cycle = s.clock.cycle + 1
                ∧ (t.part.tree u).header.entries.length = (s.part.tree u).settings.slotsPerCycle
                ∧ (t.part.tree u).field.length = 4)
            ∧ ∀ (T U after : Tree) (c : CycleNo) (timer dark spread : Nat) (call : Option CallField)
              (window dims cancel boundary : Bool) (k : Clock),
              s.part.TableOk → T = s.part.tree u → U = t.part.tree u → T.enabled = true → c = s.clock.cycle + 1 →
              T.timerDone = false → T.windowBegun = false → T.darkDone = false → (∀ win, T.scheduler.phase = .listening win → win.w ≠ c) →
              boundary = decide (s.clock.cycleInTenth = 762) →
              k = { t.clock with stage := if boundary then .boundaryTaken else .opened } →
              timer = min 65535 (T.scheduler.timer + 1) →
              spread = (if T.settings.rawStamps then T.settings.spreadMin else max T.scheduler.spread T.settings.spreadMin) →
              dark = (if T.lightSeen then 0 else min 65535 (T.darkCount + 1)) →
              (T.scheduler.phase = .leadIn c ∧ window = true ∧ call = some ⟨T.scheduler.number + 1, spread⟩
                  ∧ after = { T with
                    scheduler :=
                      ⟨.listening ⟨c, spread, spanStartOf T.settings c, spanStopOf T.settings c spread, 0, 0⟩, 0, spread,
                        T.scheduler.number + 1⟩
                    counters := { T.counters with windows := T.counters.windows + 1 }
                    rawCount := 0 }
                ∨ (∃ w, T.scheduler.phase = .leadIn w ∧ w ≠ c) ∧ window = true ∧ call = none
                  ∧ after = { T with scheduler := { T.scheduler with timer := timer } }
                ∨ T.scheduler.phase = .idle ∧ T.settings.windowInterval ≤ timer ∧ T.guard.hush = false ∧ window = true
                  ∧ call = none
                  ∧ after = { T with
                    scheduler := { T.scheduler with
                      phase := .leadIn (c + BitVec.ofNat 16 (leadInLength T.settings.reachDepth))
                      timer := timer }
                    quiet := true
                    windowBegun := true }
                ∨ ((∃ win, T.scheduler.phase = .listening win)
                    ∨ T.scheduler.phase = .idle ∧ (timer < T.settings.windowInterval ∨ T.guard.hush = true))
                  ∧ window = false ∧ call = none
                  ∧ after = { T with
                    scheduler := { T.scheduler with timer := timer }
                    quiet := false }) →
              (dims = true ↔ T.guard.hush = false ∧ T.settings.guardMask.dark = true ∧ T.guard.present.dark = false
                ∧ T.settings.darkCycles ≤ dark
                ∧ ∃ r ∈ s.part.records, r.tree = u ∧ (r.state = .loading ∨ r.state = .inService)) →
              (cancel = true ↔ dims = true ∧ ∃ w, after.scheduler.phase = .leadIn w) →
              (U.darkCount = dark ∧ U.lit = inMask lit u ∧ U.lightSeen = inMask lit u)
                ∧ U.scheduler =
                  (if cancel then { after.scheduler with
                    phase := .idle
                    timer := 0 }
                  else after.scheduler)
                ∧ U.quiet = (!cancel && after.quiet)
                ∧ U.header.call = call
                ∧ (window = true →
                  U.header.entries = List.replicate T.settings.slotsPerCycle ⟨0, none, 0⟩ ∧ U.slotCounter = T.slotCounter
                    ∧ U.expectations.map (·.unmarked) = T.expectations.map (·.unmarked))
                ∧ (window = false → U.slotCounter = T.slotCounter + BitVec.ofNat 16 T.settings.slotsPerCycle)
                ∧ ∃ q v w : Part,
                  q.reportTable = s.part.reportTable
                    ∧ q.tree u =
                      { after with
                        darkCount := dark
                        lit := inMask lit u
                        lightSeen := inMask lit u
                        guard := (q.tree u).guard
                        timerDone := true
                        spanDone := (q.tree u).spanDone }
                    ∧ (q.tree u).guard.hush = T.guard.hush ∧ (c.toNat % 16 ≠ 0 → (q.tree u).guard = T.guard)
                    ∧ (∀ due : List Record,
                      due =
                        (s.part.recordsOf u).map (fun r =>
                          if call = none then r.fallenDue T s.part.reportTable k boundary
                          else { r.fallenDue T s.part.reportTable k boundary with heardWindow := none }) →
                      (q.recordsOf u).map (·.unreported) = due.map (·.unreported)
                        ∧ (boundary = false → q.recordsOf u = due))
                    ∧ (window = true → v = q.modTree u fun X => { X with header := U.header })
                    ∧ (window = false →
                      v = (q.settleSlots k u 0 T.settings.slotsPerCycle).1.modTree u (fun X => { X with header := U.header })
                        ∧ U.header.entries = (q.settleSlots k u 0 T.settings.slotsPerCycle).2
                        ∧ U.expectations.map (·.unmarked) = (v.tree u).expectations.map (·.unmarked))
                    ∧ w =
                      ((((v.settleStep t.clock u).fillField t.clock u).reoffer u).streamAsk t.clock u).darkStep t.clock u
                    ∧ U.field = (w.tree u).field
                    ∧ (boundary = false →
                      U =
                          { w.tree u with
                            timerDone := false
                            windowBegun := false
                            spanDone := false
                            darkDone := false }
                        ∧ t.part.recordsOf u = w.recordsOf u))
    ∧ ∀ (p : Part) (k : Clock) (t : TreeId) (slot : Nat),
      p.settleSlots k t slot 0 = (p, [])
        ∧ (∀ n, p.settleSlots k t slot (n + 1) =
          (((p.settleSlot k t slot).1.settleSlots k t (slot + 1) n).1,
            (p.settleSlot k t slot).2 :: ((p.settleSlot k t slot).1.settleSlots k t (slot + 1) n).2))
        ∧ (∀ choice : Option Candidate,
          choice = (if (p.tree t).expectations.length < 16 then p.choose k t (p.tree t).slotCounter else none) →
          (choice = none →
              p.settleSlot k t slot = (p.modTree t fun T => { T with slotCounter := T.slotCounter + 1 }, ⟨0, none, 0⟩))
            ∧ ∀ x, choice = some x →
              p.settleSlot k t slot =
                ((p.issueGrant k t slot x).modTree t fun T => { T with slotCounter := T.slotCounter + 1 },
                  ⟨x.handle, some x.purpose,
                    match x.report with
                    | some (_, kind) => kind
                    | none => 0⟩))
        ∧ ((p.engine t).state ≠ .settling → p.settleStep k t = p)
        ∧ ((p.engine t).state = .settling → 2 ≤ (p.engine t).settleLeft →
          p.settleStep k t = p.modEngine t fun e => { e with settleLeft := e.settleLeft - 1 })
        ∧ ((p.engine t).state = .settling → (p.engine t).settleLeft ≤ 1 → p.settleStep k t = p.enterStreaming k t)

/-- R37, R38 and R40: the window timer, which has not advanced yet at this cycle start, is increased and a window begins with a
lead-in of 2 or 3 cycles and QUIET; its CALL settles the spread, counts the window,
opens the hello span, takes the timer to 0, and makes the heard window of every record of the tree absent. -/
def Obligations.WindowBeginsAndCalls : Prop :=
  (∀ depth, 20000 ≤ depth → depth ≤ 131072 → leadInLength depth = 2)
    ∧ (∀ depth, 131072 < depth → depth ≤ 250000 → leadInLength depth = 3)
    ∧ ∀ (s : State) (t : TreeId), s.part.raised = [] → (s.startOpen.part.tree t).enabled = true →
      (∀ timer, (s.startOpen.part.tree t).scheduler.phase = .idle →
          timer =
            (if (s.startOpen.part.tree t).timerDone then (s.startOpen.part.tree t).scheduler.timer
              else min 65535 ((s.startOpen.part.tree t).scheduler.timer + 1)) →
          (s.startOpen.part.tree t).settings.windowInterval ≤ timer → (s.startOpen.part.tree t).guard.hush = false →
          exec (.windowBegin t) s =
            .next (s.startOpen.afterEvent
              (s.startOpen.part.modTree t fun T =>
                { T with
                  scheduler :=
                    { T.scheduler with
                      phase := .leadIn (s.startOpen.clock.cycle + BitVec.ofNat 16 (leadInLength T.settings.reachDepth))
                      timer := timer }
                  quiet := true
                  timerDone := true
                  windowBegun := true }) []))
        ∧ ((s.startOpen.part.tree t).scheduler.phase = .leadIn s.startOpen.clock.cycle →
          exec (.call t) s =
            .next (s.startOpen.afterEvent
              { s.startOpen.part.modTree t fun T =>
                  { T with
                    scheduler :=
                      ⟨.listening
                        ⟨s.startOpen.clock.cycle,
                          if T.settings.rawStamps then T.settings.spreadMin
                            else max T.scheduler.spread T.settings.spreadMin,
                          spanStartOf T.settings s.startOpen.clock.cycle,
                          spanStopOf T.settings s.startOpen.clock.cycle
                            (if T.settings.rawStamps then T.settings.spreadMin
                              else max T.scheduler.spread T.settings.spreadMin), 0, 0⟩,
                        0,
                        if T.settings.rawStamps then T.settings.spreadMin
                          else max T.scheduler.spread T.settings.spreadMin,
                        T.scheduler.number + 1⟩
                    counters := { T.counters with windows := T.counters.windows + 1 }
                    rawCount := 0
                    timerDone := true } with
                records := s.startOpen.part.records.map fun r => if r.tree == t then { r with heardWindow := none } else r }
              []))

/-- R110: at a cycle start the upkeep-due mark of an IN_SERVICE or LOADING record is set once its interval has passed since
its last upkeep grant, and nothing else changes. -/
def Obligations.UpkeepFallsDue : Prop :=
  ∀ (s : State) (t : TreeId) (h : Nat) (r : Record), s.part.raised = [] → s.startOpen.part.record? t h = some r →
    (r.state = .inService ∨ r.state = .loading) → r.upkeepDue = false →
    upkeepInterval r.level ≤ cyclesSince s.startOpen.clock.cycle r.lastUpkeepGrant →
    ∃ v, exec (.upkeepDue t h) s = .next (s.startOpen.afterEvent v []) ∧ s.startOpen.part.onlyRecord v t h
      ∧ v.record? t h = some { r with upkeepDue := true }

/-- R174, R175 and R177: DARK arises at a cycle start, entering HUSH from CLEAR with a notice, or joining the factors of a
HUSH under way; a span boundary ends STRAY after a span below the threshold, starting the resume timer when HUSH is left
with no factor, and begins the count anew. R37 and R46: a HUSH that DARK_ARISES takes before the window scheduler's part of a cycle
start cancels the lead-in and takes the window timer to 0, and what is left of that cycle start then increases it to 1, with
no CALL and the arbiter's grants in the header (taken last, as CYCLE_START by itself takes it, the timer stays 0:
CycleStartSendsHeaders). That the commands take these two orders is the model's choice (notes/assumptions/3.md). -/
def Obligations.GuardTestsAtCycleStart : Prop :=
  ∀ (s : State) (t : TreeId), s.part.raised = [] → (s.startOpen.part.tree t).enabled = true →
    ((s.startOpen.part.tree t).darkDone = false → (s.startOpen.part.tree t).timerDone = false →
        (s.startOpen.part.tree t).windowBegun = false → s.startOpen.part.darkDue t = true →
        (s.startOpen.part.tree t).guard.hush = false → (∃ w, (s.startOpen.part.tree t).scheduler.phase = .leadIn w) →
        ∃ u, exec (.darkArises t) s = .next u
          ∧ (u.part.tree t).scheduler =
            { (s.startOpen.part.tree t).scheduler with
              phase := .idle
              timer := 0 }
          ∧ (u.part.tree t).quiet = false
          ∧ ∀ lit, ∃ v, exec (.cycleStart lit) u = .next v
            ∧ (v.part.tree t).scheduler =
              { (s.startOpen.part.tree t).scheduler with
                phase := .idle
                timer := 1 }
            ∧ (v.part.tree t).quiet = false ∧ (v.part.tree t).header.call = none
            ∧ (v.part.tree t).slotCounter =
              (s.startOpen.part.tree t).slotCounter
                + BitVec.ofNat 16 (s.startOpen.part.tree t).settings.slotsPerCycle)
      ∧ ((s.startOpen.part.tree t).darkDone = false → s.startOpen.part.darkDue t = true →
        (s.startOpen.part.tree t).guard.hush = false →
        exec (.darkArises t) s =
          .next (s.startOpen.afterEvent
            (s.startOpen.part.modTree t fun T =>
              ({ T with
                 darkDone := true
                 guard := ⟨true, { T.guard.present with dark := true }, ⟨false, true, false⟩, T.guard.strayCount, none⟩
               } : Tree).cancelLeadIn)
            [.hush t true ⟨false, true, false⟩ ⟨false, true, false⟩ (s.startOpen.part.tree t).darkCount
              s.startOpen.clock.cycle s.startOpen.clock.tenth]))
      ∧ ((s.startOpen.part.tree t).darkDone = false → s.startOpen.part.darkDue t = true →
        (s.startOpen.part.tree t).guard.hush = true →
        exec (.darkArises t) s =
          .next (s.startOpen.afterEvent
            (s.startOpen.part.modTree t fun T =>
              { T with
                darkDone := true
                guard :=
                  ⟨true, { T.guard.present with dark := true }, { T.guard.seen with dark := true }, T.guard.strayCount,
                    none⟩ }) []))
      ∧ (s.startOpen.clock.cycle.toNat % 16 = 0 → (s.startOpen.part.tree t).spanDone = false →
        ((s.startOpen.part.tree t).guard.present.stray = false
          ∨ (s.startOpen.part.tree t).settings.strayThreshold ≤ (s.startOpen.part.tree t).guard.strayCount) →
        exec (.spanBoundary t) s =
          .next (s.startOpen.afterEvent
            (s.startOpen.part.modTree t fun T =>
              { T with
                guard := { T.guard with strayCount := 0 }
                spanDone := true }) []))
      ∧ (s.startOpen.clock.cycle.toNat % 16 = 0 → (s.startOpen.part.tree t).spanDone = false →
        (s.startOpen.part.tree t).guard.present.stray = true →
        (s.startOpen.part.tree t).guard.strayCount < (s.startOpen.part.tree t).settings.strayThreshold →
        exec (.spanBoundary t) s =
          .next (s.startOpen.afterEvent
            (s.startOpen.part.modTree t fun T =>
              { T with
                guard :=
                  { T.guard with
                    present := { T.guard.present with stray := false }
                    strayCount := 0
                    resume :=
                      if T.guard.hush = true ∧ T.guard.present.dark = false ∧ T.guard.present.storm = false then
                        some ⟨s.startOpen.clock.tenth, T.settings.resumeDelay⟩
                      else T.guard.resume }
                spanDone := true }) []))

/-- R153 and R157: at the last cycle start of SETTLING the engine and its record enter STREAMING with a cell count of 0. When
the FIFO does not hold the next cell's bytes the pause begins with its stall timer, and PUSH-HUNGRY is queued for a streamed
source. -/
def Obligations.SettlingEnds : Prop :=
  ∀ (s : State) (t : TreeId) (h : Nat) (r : Record) (l : Load), s.part.raised = [] →
    (s.startOpen.part.engine t).state = .settling → (s.startOpen.part.engine t).settleLeft ≤ 1 →
    (s.startOpen.part.engine t).serving = some h → (s.startOpen.part.engine t).stallTimer = none →
    s.startOpen.part.record? t h = some r → r.load = some l →
    ∃ v, exec (.settleEnd t) s =
        .next (s.startOpen.afterEvent v
          (if (s.startOpen.part.engine t).paused = true ∧ (s.startOpen.part.engine t).source = some .streamed then
            [.pushHungry t h (s.startOpen.part.engine t).imageLength (s.startOpen.part.engine t).fillCount
              (s.startOpen.part.engine t).freeSpace]
          else []))
      ∧ v.record? t h = some { r with load := some { l with sub := .streaming } }
      ∧ v = { s.startOpen.part.modEngine t fun e =>
                { e with
                  state := .streaming
                  cellCount := 0
                  lastBad := false
                  settleLeft := 0
                  stallTimer :=
                    if e.paused then some ⟨s.startOpen.clock.tenth, (s.startOpen.part.tree t).settings.stallLimit⟩ else none }
              with records := v.records }

/-- R2, R167 and R170: the tenth boundary advances the tenth count and ages the valid reports of the IN_SERVICE records whose
table slot is on, stopping at 65 535; there a report whose age has reached the stale limit becomes stale once, with a notice,
losing its valid mark when the slot says so, and a slot whose interval has passed since its last poll falls due. -/
def Obligations.TenthBoundaryReports : Prop :=
   ((∀ s : State, s.part.raised = [] → s.atStart.clock.stage = .boundaryDue →
        exec .tenthBoundary s =
          .next ({ s.atStart with
            clock := { s.atStart.clock with
              cycleInTenth := 0
              tenth := s.atStart.clock.tenth + 1
              stage := .boundaryTaken } }.afterEvent
            { s.atStart.part with records := s.atStart.part.records.map fun (r : Record) => r.ageReports s.atStart.part.reportTable } []))
      ∧ ∀ (r : Record) (table : PerSlot TableSlot) (x : ReportSlot),
        (r.ageReports table).reports.get x =
            (if r.state = .inService ∧ (r.reports.get x).valid = true ∧ (table.get x).kind ≠ 0 then
              { r.reports.get x with age := min 65535 ((r.reports.get x).age + 1) }
            else r.reports.get x)
          ∧ r.ageReports table = { r with reports := (r.ageReports table).reports })
    ∧ (∀ (s : State) (t : TreeId) (h : Nat) (x : ReportSlot) (r : Record), s.part.raised = [] →
         s.startOpen.clock.stage = .boundaryTaken → s.startOpen.part.record? t h = some r →
         r.state = .inService → (s.startOpen.part.reportTable.get x).kind ≠ 0 →
         ((r.reports.get x).valid = true → (r.reports.get x).stale = false →
             (s.startOpen.part.reportTable.get x).multiple
                 * (s.startOpen.part.reportTable.get x).interval ≤ (r.reports.get x).age →
             ∃ v, exec (.reportStale t h x) s =
                 .next (s.startOpen.afterEvent v
                   [.stale t h r.tag x (r.reports.get x).kind (r.reports.get x).age
                     (s.startOpen.part.reportTable.get x).clearOnStale])
               ∧ s.startOpen.part.onlyRecord v t h
               ∧ v.record? t h =
                   some { r with
                     reports := r.reports.set x
                       { r.reports.get x with
                         stale := true
                         valid := !(s.startOpen.part.reportTable.get x).clearOnStale } })
           ∧ ∀ l, (r.polls.get x).due = none → (r.polls.get x).lastPoll = some l →
             (s.startOpen.part.reportTable.get x).interval
               ≤ tenthsSince s.startOpen.clock.tenth l →
             ∃ v, exec (.pollDue t h x) s = .next (s.startOpen.afterEvent v [])
               ∧ s.startOpen.part.onlyRecord v t h
               ∧ v.record? t h =
                   some { r with polls := r.polls.set x ⟨some l, some s.startOpen.clock.cycle⟩ })

/-- R94, R96 and R177: at a tenth boundary a REFIND record whose deadline the tenth count has reached is freed with the cause
GONE, and a guard whose resume timer has expired leaves HUSH, each with its notice. The guard keeps the factors seen as it
leaves HUSH, and the LEFT notice carries them, no factor present and the measure 0 (the model's reading,
notes/assumptions/32.md). That a deadline passed stays due until it is taken is the model's reading too
(notes/assumptions/28.md). -/
def Obligations.DeadlineAndResume : Prop :=
  ∀ (s : State) (t : TreeId), s.part.raised = [] → s.startOpen.clock.stage = .boundaryTaken →
    (∀ h r d, s.startOpen.part.record? t h = some r → r.state = .refind → r.refind = some d →
        tenthsSince s.startOpen.clock.tenth d < 2147483648 →
        (s.startOpen.part.engine t).serving ≠ some h →
        exec (.refindDeadline t h) s =
          .next (s.startOpen.afterEvent (s.startOpen.part.freed t h r.tag)
            [.terminal t h r.tag .refind .free .gone]))
      ∧ ∀ start length, (s.startOpen.part.tree t).guard.hush = true →
        (s.startOpen.part.tree t).guard.resume = some ⟨start, length⟩ →
        length ≤ tenthsSince s.startOpen.clock.tenth start →
        exec (.resumeTimerExpiry t) s =
          .next (s.startOpen.afterEvent
            (s.startOpen.part.modGuard t fun g =>
              { g with
                hush := false
                resume := none })
            [.hush t false ⟨false, false, false⟩ (s.startOpen.part.tree t).guard.seen 0
              s.startOpen.clock.cycle s.startOpen.clock.tenth])

/-- R148, R152, R157, R158, R161: an expired push timer fails the attempt: the engine lets the push go, a LOAD-STATUS entry it
awaits becoming an orphan, the attempt is charged unless DARK is present, the record waits again at the tail of the push
queue or is HELD with LOAD_FAIL, a PUSH-FAIL notice tells it, and the engine takes its next record. A failure without a timer
does the same, its live entry staying as it is. That a timer passed stays due until it is taken is the model's reading
(notes/assumptions/28.md), and so is that the entry to HELD makes a live entry an orphan even after STORE_FAULT
(notes/assumptions/40.md). -/
def Obligations.PushTimersFail : Prop :=
  (∀ (s : State) (t : TreeId) (h : Nat) (r : Record) (l : Load) (c : Instr) (state : EngineState) (timer : Option Timer)
    (reason : FailReason) (start : Tenth) (length used : Nat),
    s.part.raised = [] → s.startOpen.clock.stage = .boundaryTaken →
    ((c = .prepareTimeout t ∧ state = .preparing ∧ timer = (s.startOpen.part.engine t).prepareTimer
          ∧ reason = .noReady)
      ∨ (c = .beginTimeout t ∧ state = .resolving ∧ timer = (s.startOpen.part.engine t).beginTimer
          ∧ reason = .stall)
      ∨ (c = .stallTimeout t ∧ state = .streaming ∧ timer = (s.startOpen.part.engine t).stallTimer
          ∧ reason = .stall)
      ∨ (c = .commitTimeout t ∧ state = .committing ∧ timer = (s.startOpen.part.engine t).commitTimer
          ∧ reason = .noCommit)) →
    (s.startOpen.part.engine t).state = state → timer = some ⟨start, length⟩ →
    length ≤ tenthsSince s.startOpen.clock.tenth start →
    (s.startOpen.part.engine t).serving = some h → s.startOpen.part.record? t h = some r →
    r.load = some l →
    used = (if (s.startOpen.part.tree t).guard.present.dark then l.used else l.used + 1) →
    (used ≤ (s.startOpen.part.tree t).settings.pushRetries →
        exec c s =
          .next (s.startOpen.withPart
            (({ ((s.startOpen.part.letGo t h).modTree t fun T =>
                  { T with pushQueue := T.pushQueue ++ [h] }).modRecord t h fun r =>
                    { r with load := some ⟨l.profile, .queued, used, none⟩ } with
                raised :=
                  [.pushFail t h r.tag l.profile (s.startOpen.part.engine t).source reason 0
                    (s.startOpen.part.engine t).ackPoint used
                    (!(s.startOpen.part.tree t).guard.present.dark) false] } : Part).takeTest
              s.startOpen.clock t)))
      ∧ ((s.startOpen.part.tree t).settings.pushRetries < used →
        exec c s =
          .next (s.startOpen.withPart
            (({ ((s.startOpen.part.letGo t h).modExpectations t (·.map fun e =>
                  if e.handle == h then { e with orphan := true } else e)).modRecord t h (·.heldFor .loadFail) with
                raised :=
                  [.pushFail t h r.tag l.profile (s.startOpen.part.engine t).source reason 0
                    (s.startOpen.part.engine t).ackPoint used
                    (!(s.startOpen.part.tree t).guard.present.dark) true,
                   .terminal r.tree r.handle r.tag r.state .held .loadFail] } : Part).takeTest
              s.startOpen.clock t))))
    ∧ ∀ (p : Part) (k : Clock) (t : TreeId) (h code used : Nat) (r : Record) (l : Load) (reason : FailReason),
        (p.engine t).serving = some h → p.record? t h = some r → r.load = some l →
        used = (if (p.tree t).guard.present.dark then l.used else l.used + 1) →
        (used ≤ (p.tree t).settings.pushRetries →
            p.failAttempt k t reason code false =
              ({ (((p.modEngine t fun e => { e with awaiting := false }).letGo t h).modTree t fun T =>
                    { T with pushQueue := T.pushQueue ++ [h] }).modRecord t h fun r =>
                      { r with load := some ⟨l.profile, .queued, used, none⟩ } with
                  raised := p.raised ++
                    [.pushFail t h r.tag l.profile (p.engine t).source reason code (p.engine t).ackPoint used
                      (!(p.tree t).guard.present.dark) false] } : Part).takeTest k t)
          ∧ ((p.tree t).settings.pushRetries < used →
            p.failAttempt k t reason code false =
              ({ (((p.modEngine t fun e => { e with awaiting := false }).letGo t h).modExpectations t (·.map fun e =>
                    if e.handle == h then { e with orphan := true } else e)).modRecord t h (·.heldFor .loadFail) with
                  raised := p.raised ++
                    [.pushFail t h r.tag l.profile (p.engine t).source reason code (p.engine t).ackPoint used
                      (!(p.tree t).guard.present.dark) true,
                     .terminal t h r.tag r.state .held .loadFail] } : Part).takeTest k t)

/-- R146 to R148: an IDLE engine takes no record while DARK is present or while every record of its push queue is IMPAIRED;
else it takes the oldest that is not: with a READY internal slot it is PREPARING at once, its PREPARE offered; with profile 64
it is RESOLVING and asks the host for the image; with 17 to 63 and an EEPROM it is RESOLVING and has the directory entry read;
with an unavailable profile it is PREPARING with the ROM default, or the record is HELD NO_PROFILE and the engine takes the
next. R151, R152, R156, R158: how an engine takes the outcome of its ask for status: it discards one that it does not await
(one of another record too, notes/assumptions/16.md), asks again after none, and else does what its state and the status
call for; the failures are those of PushTimersFail. That a go-back that brings back the next cell's bytes ends a pause is the
model's choice (notes/assumptions/50.md), and that slot A of a record entering IN_SERVICE is due since the present cycle
also when its attention mark is set (notes/assumptions/49.md). -/
def Obligations.EngineTakes : Prop :=
  (∀ (p : Part) (k : Clock) (t : TreeId),
    (((p.engine t).state ≠ .idle ∨ (p.tree t).guard.present.dark = true
        ∨ ∀ h ∈ (p.tree t).pushQueue, ∀ r, p.record? t h = some r → r.impaired = true) →
      p.takeTest k t = p)
    ∧ ∀ (before after : List Nat) (h : Nat) (r : Record) (l : Load), (p.engine t).state = .idle →
      (p.tree t).guard.present.dark = false → (p.tree t).pushQueue = before ++ h :: after →
      (∀ x ∈ before, ∀ q, p.record? t x = some q → q.impaired = true) → p.record? t h = some r → r.impaired = false →
      r.load = some l →
      (∀ (source : Source) (bytes : List Byte) (number : Nat),
        ((1 ≤ l.profile ∧ l.profile ≤ 16 ∧ (p.slot l.profile).state = .ready ∧ source = .internal
            ∧ bytes = (p.slot l.profile).bytes ∧ number = l.profile)
          ∨ ((1 ≤ l.profile ∧ l.profile ≤ 16 ∧ (p.slot l.profile).state ≠ .ready
              ∨ 17 ≤ l.profile ∧ l.profile ≤ 63 ∧ p.straps.store = false)
            ∧ (p.tree t).settings.fallback = .useDefault ∧ source = .default
            ∧ bytes = (List.range 256).map Config.romByte ∧ number = 0)) →
          (p.takeTest k t).engine t =
              { Engine.idle with
                state := .preparing
                serving := some h
                profile := l.profile
                source := some source
                imageLength := bytes.length
                fifo := bytes.take (min 2048 bytes.length)
                crc := crc32Feed 0xFFFFFFFF#32 (bytes.take (min 2048 bytes.length)) }
            ∧ (p.takeTest k t).record? t h =
                some { r with load := some { l with
                  sub := .preparing
                  source := some source } }
            ∧ ((p.takeTest k t).tree t).pushQueue = (p.tree t).pushQueue.filter (· != h)
            ∧ (p.takeTest k t).raised = p.raised
            ∧ ((p.tree t).enabled = true → (p.tree t).accepts = true →
                ((p.takeTest k t).tree t).queue = (p.tree t).queue ++ [.prepare h bytes.length number]))
        ∧ ((1 ≤ l.profile ∧ l.profile ≤ 16 ∧ (p.slot l.profile).state ≠ .ready
            ∨ 17 ≤ l.profile ∧ l.profile ≤ 63 ∧ p.straps.store = false) →
          (p.tree t).settings.fallback = .hold →
          p.takeTest k t =
            ({ ((p.modEngine t fun _ => .idle).heldBack t h).modRecord t h (·.heldFor .noProfile) with
                raised := p.raised ++ [.terminal t h r.tag r.state .held .noProfile] } : Part).takeTest k t)
        ∧ (17 ≤ l.profile → l.profile ≤ 63 → p.straps.store = true →
          p.takeTest k t =
            (p.modTree t fun T =>
              { T with
                pushQueue := T.pushQueue.filter (· != h)
                engine :=
                  { Engine.idle with
                    state := .resolving
                    serving := some h
                    profile := l.profile }
                fetchWait := some ⟨.fetcher t, .directory, 15360 + 4 * (l.profile - 17), 4, false⟩ }).serveBus)
        ∧ (l.profile = 64 →
          p.takeTest k t =
            { p.modTree t fun T =>
                { T with
                  pushQueue := T.pushQueue.filter (· != h)
                  engine :=
                    { Engine.idle with
                      state := .resolving
                      serving := some h
                      profile := 64
                      beginTimer := some ⟨k.tenth, T.settings.stallLimit⟩ } } with
              raised := p.raised ++ [.pushStart t h r.tag (l.used + 1)] }))
    ∧ ∀ (p : Part) (k : Clock) (t : TreeId) (x : Expectation) (e : Engine) (mark : Nat), e = p.engine t →
        x.purpose = .loadStatus → x.sentMark = some mark →
        (e.serving ≠ some x.handle ∨ e.awaiting = false → ∀ o, p.ownerOutcome k t x o = p)
          ∧ (e.serving = some x.handle → e.awaiting = true →
            (∀ o, e.ask = none → (∀ y ∈ (p.tree t).expectations, y.handle = x.handle → y.purpose ≠ .loadStatus) →
              ((o = .missed ∨ o = .lapsed ∨ ∃ flag, o = .errored flag)
                  ∧ (e.state = .preparing ∨ e.state = .streaming ∨ e.state = .committing)
                ∨ (∃ err flag, o = .answered err flag (.loadStatus .notReady)) ∧ e.state = .preparing) →
              p.ownerOutcome k t x o =
                p.modEngine t fun _ =>
                  { e with
                    awaiting := false
                    lastBad := e.lastBad || e.state == .streaming
                    ask := some k.nextStart
                    askDeferred := false })
            ∧ (∀ err flag, e.state = .preparing → (p.tree t).settings.settleCycles ≠ 0 →
              ∀ r l, p.record? t x.handle = some r → r.load = some l →
              (p.modEngine t fun _ =>
                  { e with
                    awaiting := false
                    state := .settling
                    prepareTimer := none
                    settleLeft := (p.tree t).settings.settleCycles }).onlyRecord
                  (p.ownerOutcome k t x (.answered err flag (.loadStatus .ready))) t x.handle
                ∧ (p.ownerOutcome k t x (.answered err flag (.loadStatus .ready))).record? t x.handle =
                  some { r with load := some { l with sub := .settling } })
            ∧ (∀ err flag, e.state = .preparing → (p.tree t).settings.settleCycles = 0 →
              ∀ r l, p.record? t x.handle = some r → r.load = some l →
              ∀ after : Engine, after =
                  { e with
                    awaiting := false
                    state := .streaming
                    prepareTimer := none
                    cellCount := 0
                    lastBad := false
                    settleLeft := 0 } →
              after.paused = false →
              (p.modEngine t fun _ => { after with stallTimer := none }).onlyRecord
                  (p.ownerOutcome k t x (.answered err flag (.loadStatus .ready))) t x.handle
                ∧ (p.ownerOutcome k t x (.answered err flag (.loadStatus .ready))).record? t x.handle =
                  some { r with load := some { l with sub := .streaming } })
            ∧ (∀ err flag st reason code,
              ((∃ c, st = .fail c ∧ reason = .terminal ∧ code = c
                    ∧ (e.state = .preparing ∨ e.state = .streaming ∨ e.state = .committing))
                ∨ (st = .done ∧ reason = .protocol ∧ code = 0 ∧ (e.state = .preparing ∨ e.state = .streaming))
                ∨ ((∃ n, st = .receiving n) ∧ reason = .protocol ∧ code = 0 ∧ e.state = .preparing)
                ∨ (st = .notReady ∧ reason = .lost ∧ code = 0 ∧ (e.state = .streaming ∨ e.state = .committing))
                ∨ (st = .ready ∧ reason = .protocol ∧ code = 0 ∧ e.state = .committing)
                ∨ (∃ n, st = .receiving n ∧ n ≠ e.imageLength ∧ reason = .protocol ∧ code = 0 ∧ e.state = .committing)) →
              p.ownerOutcome k t x (.answered err flag (.loadStatus st)) =
                (p.modEngine t fun _ => { e with awaiting := false }).failAttempt k t reason code false)
            ∧ (∀ err flag st n after, (st = .receiving n ∨ st = .ready ∧ n = 0) → e.state = .streaming →
              after =
                { e with
                  awaiting := false
                  lastBad := false
                  fifo := e.fifo.drop (n - e.ackPoint)
                  ackPoint := n
                  sendPointer := if n < mark then n else e.sendPointer } →
              ((n < e.ackPoint ∨ mark < n ∨ (n % 40 ≠ 0 ∧ n ≠ e.imageLength)) →
                  p.ownerOutcome k t x (.answered err flag (.loadStatus st)) =
                    (p.modEngine t fun _ =>
                      { e with
                        awaiting := false
                        lastBad := false }).failAttempt k t .protocol 0 false)
                ∧ (e.ackPoint ≤ n → n ≤ mark → (n % 40 = 0 ∨ n = e.imageLength) →
                  (n ≠ e.imageLength →
                      p.ownerOutcome k t x (.answered err flag (.loadStatus st)) =
                        ((p.modEngine t fun _ => after).refill k t).streamAsk k t)
                    ∧ (n = e.imageLength → ∀ r l, p.record? t x.handle = some r → r.load = some l →
                      ((p.modEngine t fun _ =>
                            { after with
                              state := .committing
                              stallTimer := none }).offer t (.commit x.handle (~~~e.crc))).onlyRecord
                          (p.ownerOutcome k t x (.answered err flag (.loadStatus st))) t x.handle
                        ∧ (p.ownerOutcome k t x (.answered err flag (.loadStatus st))).record? t x.handle =
                          some { r with load := some { l with sub := .committing } })))
            ∧ (∀ err flag, e.state = .committing →
              p.ownerOutcome k t x (.answered err flag (.loadStatus (.receiving e.imageLength))) =
                if p.hasOrder t (Order.isCommit x.handle) then p.modEngine t fun _ => { e with awaiting := false }
                else (p.modEngine t fun _ => { e with awaiting := false }).offer t (.commit x.handle (~~~e.crc)))
            ∧ (∀ err flag r, e.state = .committing → p.record? t x.handle = some r →
              p.ownerOutcome k t x (.answered err flag (.loadStatus .done)) =
                ({ (p.modEngine t fun _ => .idle).modRecord t x.handle fun q =>
                      { q with
                        state := .inService
                        cause := .loaded
                        load := none
                        check := .none
                        polls :=
                          ⟨if p.reportTable.a.kind = 0 then q.polls.a else { q.polls.a with due := some k.cycle },
                           if p.reportTable.b.kind = 0 then q.polls.b else { q.polls.b with due := some k.cycle },
                           if p.reportTable.c.kind = 0 then q.polls.c else { q.polls.c with due := some k.cycle }⟩ } with
                    raised := p.raised ++ [.terminal t x.handle r.tag r.state .inService .loaded] } : Part).takeTest k t))

/-! ### The upstream side -/

/-- R3, R11, R13 and R175: a light onset opens a seek period, with a quiet lead after 256 dark steps, and ends DARK, at whose
end the resume timer of a HUSH left with no factor starts (R177) and the engine may take a record (R146); a DISABLED tree
ignores its port. A seek period that ends in light is a light-only arrival and opens the next one. That an onset leaves an
earlier seek period open is the model's reading (notes/assumptions/11.md). -/
def Obligations.LightAndSeek : Prop :=
  ∀ (s : State) (t : TreeId) (pos dark : Nat), s.Settled → s.clock.pos ≤ pos → pos < 131072 →
    ((s.part.tree t).enabled = false → exec (.lightOnset t pos dark) s = .next (s.atPos pos))
      ∧ ((s.part.tree t).enabled = true → (s.part.tree t).guard.present.dark = false →
        exec (.lightOnset t pos dark) s =
          .next ((s.atPos pos).afterEvent
            (s.part.modTree t fun T =>
              { T with
                seeks := T.seeks ++ [⟨(s.atPos pos).clock.treeTime, decide (256 ≤ dark)⟩]
                lit := true
                lightSeen := true }) []))
      ∧ ((s.part.tree t).enabled = true → (s.part.tree t).guard.present.dark = true →
        exec (.lightOnset t pos dark) s =
          .next ((s.atPos pos).withPart
            ((s.part.modTree t fun T =>
              { T with
                seeks := T.seeks ++ [⟨(s.atPos pos).clock.treeTime, decide (256 ≤ dark)⟩]
                lit := true
                lightSeen := true
                guard :=
                  { T.guard with
                    present := { T.guard.present with dark := false }
                    resume :=
                      if T.guard.hush = true ∧ T.guard.present.stray = false ∧ T.guard.present.storm = false then
                        some ⟨s.clock.tenth, T.settings.resumeDelay⟩
                      else T.guard.resume } }).takeTest (s.atPos pos).clock t)))
      ∧ ∀ q rest, (s.part.tree t).seeks = q :: rest → (s.atPos pos).clock.treeTime = q.opened + 2000#33 →
        exec (.seekPeriodEnd t true) s =
            .next ((s.atPos pos).afterEvent
              (s.part.modTree t fun T =>
                { T with
                  seeks := rest ++ [⟨q.opened + 2000#33, false⟩]
                  arrivals := T.arrivals ++ [⟨q.opened, q.opened, .lightOnly⟩]
                  lit := true
                  lightSeen := true }) [])
          ∧ exec (.seekPeriodEnd t false) s =
            .next ((s.atPos pos).afterEvent
              (s.part.modTree t fun T =>
                { T with
                  seeks := rest
                  lit := false }) [])

/-- R11, R12 and R51: a delimiter captures the fine stamp and makes a burst of the youngest seek period; the burst's
end and the end of its decode, in either order, make an arrival, valid only with a quiet lead, an end code and a reply
that decodes. Which seek period a delimiter belongs to and the order of the two ends are the model's reading
(notes/assumptions/11.md, notes/assumptions/12.md). -/
def Obligations.BurstReceived : Prop :=
  ∀ (s : State) (t : TreeId) (pos : Nat), s.Settled → s.clock.pos ≤ pos → pos < 131072 →
    (∀ q, (s.part.tree t).seeks.getLast? = some q → elapsed (s.atPos pos).clock.treeTime q.opened ≤ 2000 →
        exec (.delimiterFound t pos) s =
          .next ((s.atPos pos).afterEvent
            (s.part.modTree t fun T =>
              { T with
                seeks := T.seeks.erase q
                bursts := T.bursts ++ [⟨q.opened, q.quietLead, (s.atPos pos).clock.treeTime, pos, none, none⟩] }) []))
      ∧ ∀ (b : Burst) (rest : List Burst), (s.part.tree t).bursts = b :: rest →
        (∀ x ∈ rest, x.ended = none ∨ x.decoded = none) →
        (∀ (endCode lit : Bool), b.ended = none →
          exec (.burstEnd t pos endCode lit) s =
            .next ((s.atPos pos).afterEvent
              (s.part.modTree t fun T =>
                { T with
                  bursts := if b.decoded = none then { b with ended := some endCode } :: rest else rest
                  arrivals := T.arrivals ++
                    match b.decoded with
                    | none => []
                    | some (coarse, reply) =>
                      [⟨reconcile b.fine coarse, b.opened,
                        match reply with
                        | some r => if b.quietLead = true ∧ endCode = true then .valid b.fine coarse r else .errored
                        | none => .errored⟩]
                  seeks := if lit then T.seeks ++ [⟨(s.atPos pos).clock.treeTime, false⟩] else T.seeks
                  lit := lit
                  lightSeen := T.lightSeen || lit }) []))
          ∧ ∀ cell, b.decoded = none → elapsed (s.atPos pos).clock.treeTime b.found < 98304 →
            exec (.cellDecoded t 0 pos cell) s =
              .next ((s.atPos pos).afterEvent
                (s.part.modTree t fun T =>
                  { T with
                    bursts :=
                      if b.ended = none then
                        { b with decoded := some ((s.atPos pos).clock.quarter, decodeReply cell) } :: rest
                      else rest
                    arrivals := T.arrivals ++
                      match b.ended with
                      | none => []
                      | some endCode =>
                        [⟨reconcile b.fine (s.atPos pos).clock.quarter, b.opened,
                          match decodeReply cell with
                          | some r =>
                            if b.quietLead = true ∧ endCode = true then .valid b.fine (s.atPos pos).clock.quarter r
                            else .errored
                          | none => .errored⟩] }) [])

/-- R14: the dispatcher takes the arrival of the earliest arrival time, once no seek period open and no burst undecoded is
earlier; R15: the settled time is the present when nothing is open, and else the earliest opening of what is not
dispatched. -/
def Obligations.DispatchOrder : Prop :=
  ∀ (T : Tree) (now : TreeTime),
    (∀ a, T.nextArrival now = some a ↔
        ∃ pre post, T.arrivals = pre ++ a :: post
          ∧ (∀ x ∈ pre, elapsed now x.time < elapsed now a.time) ∧ (∀ x ∈ post, elapsed now x.time ≤ elapsed now a.time)
          ∧ (∀ q ∈ T.seeks, elapsed now q.opened ≤ elapsed now a.time)
          ∧ ∀ b ∈ T.bursts, elapsed now b.found ≤ elapsed now a.time)
      ∧ (T.seeks = [] → T.bursts = [] → T.arrivals = [] → T.settledTime now = now)
      ∧ (∀ x, (x ∈ T.seeks.map (·.opened) ∨ x ∈ T.bursts.map (·.opened) ∨ x ∈ T.arrivals.map (·.opened)) →
          elapsed now x ≤ elapsed now (T.settledTime now))
      ∧ (T.settledTime now = now ∨ T.settledTime now ∈ T.seeks.map (·.opened)
          ∨ T.settledTime now ∈ T.bursts.map (·.opened) ∨ T.settledTime now ∈ T.arrivals.map (·.opened))

/-- R14, R42, R43, R115 to R118 and R174: an arrival inside the hello span is the window's: a collision, a hello handed on, or
a stale hello; outside it the entry within whose 2048 steps it lies takes it, an orphan with no outcome, a live one with
ANSWERED, ERRORED or, for a foreign reply, MISSED; else it is a stray, and STRAY arises at the threshold, entering HUSH or joining it. What follows from a
live entry's outcome: it is counted (R122 to R128), and unless the counting sends the record to REFIND the owner takes it, the
test of R146 for a record that recovers last (the model's order, notes/assumptions/38.md); a deferred ask may follow (R111).
CHECK and UPKEEP are judged as UpkeepArithmetic says, LOAD-STATUS as EngineTakes says, and POLL by R168 as said here. That an
attention rise sets slot A's due mark, and that its mark keeps the first rise's cycle, is the model's reading
(notes/assumptions/21.md); that the reply of the wrong kind is counted before its attention flag is taken, so that the HEALTH
notice IMPAIRED shows the flag as it was, and that slot A after a POLL not answered is due since the present cycle also when
its attention mark is set, are the model's choices (notes/assumptions/45.md, notes/assumptions/49.md). -/
def Obligations.DispatchGivesOwner : Prop :=
  (∀ (s : State) (t : TreeId) (a : Arrival), s.Settled →
    (s.part.tree t).nextArrival s.clock.treeTime = some a →
    (∀ win, (s.part.tree t).scheduler.phase = .listening win → win.contains a.time = true →
        ((∀ f q h at' number slice tag maker, a.content ≠ .valid f q ⟨h, at', .hello number slice tag maker⟩) →
          exec (.arrivalDispatch t) s =
            .next (s.afterEvent
              (s.part.modTree t fun T =>
                { T with
                  arrivals := T.arrivals.erase a
                  counters := { T.counters with collisions := T.counters.collisions + 1 }
                  scheduler := { T.scheduler with phase := .listening { win with c := min 65535 (win.c + 1) } } }) []))
          ∧ ∀ f q h at' number slice tag maker, a.content = .valid f q ⟨h, at', .hello number slice tag maker⟩ →
            (number = (s.part.tree t).scheduler.number →
              exec (.arrivalDispatch t) s =
                .next (s.afterEvent
                  (s.part.modTree t fun T =>
                    { T with
                      arrivals := T.arrivals.erase a
                      counters := { T.counters with hellos := T.counters.hellos + 1 }
                      scheduler := { T.scheduler with phase := .listening { win with h := min 65535 (win.h + 1) } }
                      hellos := T.hellos ++ [⟨f, q, a.time, slice, tag, maker, number, win.w⟩] }) []))
              ∧ (number ≠ (s.part.tree t).scheduler.number →
                exec (.arrivalDispatch t) s =
                  .next (s.afterEvent
                    (s.part.modTree t fun T =>
                      { T with
                        arrivals := T.arrivals.erase a
                        counters := { T.counters with
                          hellos := T.counters.hellos + 1
                          implausible := T.counters.implausible + 1 } }) [])))
      ∧ ((∀ win, (s.part.tree t).scheduler.phase = .listening win → win.contains a.time = false) →
        (∀ before x after, (s.part.tree t).expectations = before ++ x :: after →
            (∀ y ∈ before, 2048 < (timeDiff a.time y.expected).natAbs) →
            (timeDiff a.time x.expected).natAbs ≤ 2048 →
            (x.orphan = true → (s.part.engine t).askDeferred = false →
                exec (.arrivalDispatch t) s =
                  .next (s.afterEvent
                    (s.part.modTree t fun T =>
                      { T with
                        arrivals := T.arrivals.erase a
                        expectations := before ++ after
                        counters :=
                          { T.counters with
                            foreign :=
                              match a.content with
                              | .valid _ _ reply =>
                                if reply.handle = x.handle then T.counters.foreign else T.counters.foreign + 1
                              | _ => T.counters.foreign } }) []))
              ∧ ∀ (o : MatchOutcome) (foreign : BitVec 32), x.orphan = false →
                ((∃ f q reply, a.content = .valid f q reply ∧ reply.handle ≠ x.handle ∧ o = .missed ∧ foreign = 1)
                  ∨ (∃ f q reply, a.content = .valid f q reply ∧ reply.handle = x.handle ∧ foreign = 0
                    ∧ (reply.body = .echo ∧ (x.purpose = .check ∨ x.purpose = .upkeep)
                      ∨ (∃ st, reply.body = .loadStatus st) ∧ x.purpose = .loadStatus
                      ∨ (∃ kind data, reply.body = .report kind data) ∧ x.purpose = .poll)
                    ∧ o = .answered (timeDiff a.time x.expected) reply.attention reply.body)
                  ∨ (∃ f q reply, a.content = .valid f q reply ∧ reply.handle = x.handle ∧ foreign = 0
                    ∧ (reply.body = .echo → x.purpose ≠ .check ∧ x.purpose ≠ .upkeep)
                    ∧ (∀ st, reply.body = .loadStatus st → x.purpose ≠ .loadStatus)
                    ∧ (∀ kind data, reply.body = .report kind data → x.purpose ≠ .poll)
                    ∧ o = .errored (some reply.attention))
                  ∨ ((a.content = .errored ∨ a.content = .lightOnly) ∧ o = .errored none ∧ foreign = 0)) →
                exec (.arrivalDispatch t) s =
                  .next (s.withPart
                    ((s.part.modTree t fun T =>
                      { T with
                        arrivals := T.arrivals.erase a
                        expectations := before ++ after
                        counters := { T.counters with foreign := T.counters.foreign + foreign } }).takeOutcome
                      s.clock t x o)))
          ∧ ((∀ x ∈ (s.part.tree t).expectations, 2048 < (timeDiff a.time x.expected).natAbs) →
            (((s.part.tree t).settings.guardMask.stray = false ∨ (s.part.tree t).guard.present.stray = true
                ∨ min 255 ((s.part.tree t).guard.strayCount + 1) < (s.part.tree t).settings.strayThreshold) →
              exec (.arrivalDispatch t) s =
                .next (s.afterEvent
                  (s.part.modTree t fun T =>
                    { T with
                      arrivals := T.arrivals.erase a
                      counters := { T.counters with stray := T.counters.stray + 1 }
                      guard := { T.guard with strayCount := min 255 (T.guard.strayCount + 1) } }) []))
              ∧ ((s.part.tree t).settings.guardMask.stray = true → (s.part.tree t).guard.present.stray = false →
                (s.part.tree t).settings.strayThreshold ≤ min 255 ((s.part.tree t).guard.strayCount + 1) →
                (s.part.tree t).guard.hush = false →
                exec (.arrivalDispatch t) s =
                  .next (s.afterEvent
                    (s.part.modTree t fun T =>
                      ({ T with
                         arrivals := T.arrivals.erase a
                         counters := { T.counters with stray := T.counters.stray + 1 }
                         guard :=
                           ⟨true, { T.guard.present with stray := true }, ⟨true, false, false⟩,
                             min 255 (T.guard.strayCount + 1), none⟩ } : Tree).cancelLeadIn)
                    [.hush t true ⟨true, false, false⟩ ⟨true, false, false⟩
                      (min 255 ((s.part.tree t).guard.strayCount + 1)) s.clock.cycle s.clock.tenth]))
              ∧ ((s.part.tree t).settings.guardMask.stray = true → (s.part.tree t).guard.present.stray = false →
                (s.part.tree t).settings.strayThreshold ≤ min 255 ((s.part.tree t).guard.strayCount + 1) →
                (s.part.tree t).guard.hush = true →
                exec (.arrivalDispatch t) s =
                  .next (s.afterEvent
                    (s.part.modTree t fun T =>
                      { T with
                        arrivals := T.arrivals.erase a
                        counters := { T.counters with stray := T.counters.stray + 1 }
                        guard :=
                          ⟨true, { T.guard.present with stray := true }, { T.guard.seen with stray := true },
                            min 255 (T.guard.strayCount + 1), none⟩ }) [])))))
    ∧ (∀ (p q : Part) (k : Clock) (t : TreeId) (x : Expectation) (o : MatchOutcome) (r u : Record),
        q = p.countOutcome k t x.handle o → x.orphan = false → p.record? t x.handle = some r →
        q.record? t x.handle = some u →
        (u.state = .refind → (r.impaired = false ∨ u.impaired = true) → p.takeOutcome k t x o = q.settleAsk k t)
          ∧ (u.state ≠ .refind → (r.impaired = false ∨ u.impaired = true) →
            p.takeOutcome k t x o = (q.ownerOutcome k t x o).settleAsk k t)
          ∧ (u.state ≠ .refind → r.impaired = true → u.impaired = false →
            p.takeOutcome k t x o = ((q.ownerOutcome k t x o).takeTest k t).settleAsk k t))
    ∧ (∀ (p : Part) (k : Clock) (t : TreeId) (e : Engine), e = p.engine t →
        (e.askDeferred = false → p.settleAsk k t = p)
          ∧ ∀ h, e.askDeferred = true → e.serving = some h → e.awaiting = false → e.ask = none →
            (∀ y ∈ (p.tree t).expectations, y.handle = h → y.purpose ≠ .loadStatus) →
            p.settleAsk k t =
              p.modEngine t fun _ =>
                { e with
                  askDeferred := false
                  ask :=
                    if e.state = .preparing ∨ e.state = .committing ∨ (e.state = .streaming ∧
                        (16 ≤ e.cellCount ∨ (e.sendPointer = e.imageLength ∧ e.ackPoint ≠ e.imageLength) ∨ e.lastBad = true)) then
                      some k.nextStart
                    else none })
    ∧ (∀ (p : Part) (k : Clock) (t : TreeId) (h n : Nat) (r : Record) (S : Settings),
        p.record? t h = some r → S = (p.tree t).settings →
        (∀ (o : MatchOutcome) (flag : Option Bool) (mid : Record) (ns : List Notice) (rise : Bool),
            ((∃ e value body, o = .answered e value body ∧ flag = some value
                ∧ (r.impaired = true ∧ S.errorLimit ≤ r.errorCount
                    ∧ mid = { r with
                      missCount := 0
                      impaired := false
                      errorCount := 0 }
                    ∧ ns = [.health t h r.tag .recovered r.state r.level 0 r.errorCount r.attention k.tenth]
                  ∨ (r.impaired = false ∨ r.errorCount < S.errorLimit) ∧ mid = { r with missCount := 0 } ∧ ns = []))
              ∨ o = .errored flag ∧ n = (if S.errorLimit ≤ r.errorCount then r.errorCount else r.errorCount + 1)
                ∧ (S.errorLimit ≠ 0 ∧ S.errorLimit ≤ n ∧ r.impaired = false
                    ∧ mid = { r with
                      errorCount := n
                      impaired := true
                      level := 3 }
                    ∧ ns = [.health t h r.tag .impaired r.state 3 r.missCount n r.attention k.tenth]
                  ∨ (S.errorLimit = 0 ∨ n < S.errorLimit ∨ r.impaired = true) ∧ mid = { r with errorCount := n }
                    ∧ ns = [])) →
            (rise = true ↔ flag = some true ∧ r.attention = false) →
            ∃ v, p.countOutcome k t h o =
                { v with raised := p.raised ++ ns ++
                    if rise then
                      [.health t h r.tag .attention mid.state mid.level mid.missCount mid.errorCount true k.tenth]
                    else [] }
              ∧ p.onlyRecord v t h
              ∧ v.record? t h =
                some (if rise then
                  { mid with
                    attention := true
                    attentionMark := some (r.attentionMark.getD k.cycle)
                    polls :=
                      if p.reportTable.a.kind ≠ 0 ∧ r.polls.a.due = none then
                        { r.polls with a := { r.polls.a with due := some k.cycle } }
                      else r.polls }
                else { mid with attention := flag.getD r.attention }))
          ∧ (n = (if S.missLimit ≤ r.missCount then r.missCount else r.missCount + 1) →
            ((r.state ≠ .loading ∧ r.state ≠ .inService ∨ n < S.missLimit) →
                p.onlyRecord (p.countOutcome k t h .missed) t h
                  ∧ (p.countOutcome k t h .missed).record? t h = some { r with missCount := n })
              ∧ ((r.state = .loading ∨ r.state = .inService) → S.missLimit ≤ n → (p.engine t).serving ≠ some h →
                ∃ v, p.countOutcome k t h .missed =
                    { v with raised := p.raised ++ [.terminal t h r.tag r.state .refind .misses] }
                  ∧ (p.relistened t h).onlyRecord v t h
                  ∧ v.record? t h =
                    some ({ r with missCount := n }.refound .misses
                      (k.tenth + BitVec.ofNat 32 (10 * S.refindTime)))))
          ∧ p.countOutcome k t h .lapsed = p)
    ∧ ∀ (p : Part) (k : Clock) (t : TreeId) (x : Expectation) (r : Record) (slot : ReportSlot) (polled : Byte),
        x.purpose = .poll → x.report = some (slot, polled) → p.record? t x.handle = some r →
        (∀ e flag kind data, ∀ v, v = p.ownerOutcome k t x (.answered e flag (.report kind data)) →
            p.onlyRecord v t x.handle
              ∧ v.record? t x.handle =
                some (if (p.reportTable.get slot).kind = polled ∧ kind = polled
                    ∧ (r.state = .inService ∨ r.state = .loading) then
                  { r with reports := r.reports.set slot ⟨true, kind, data, 0, false⟩ }
                else r))
          ∧ ∀ o, (o = .missed ∨ o = .lapsed ∨ ∃ flag, o = .errored flag) → ∀ v, v = p.ownerOutcome k t x o →
            p.onlyRecord v t x.handle
              ∧ v.record? t x.handle =
                some (if r.state = .inService then
                  { r with polls := r.polls.set slot { r.polls.get slot with due := some k.cycle } }
                else r)

/-- R116 to R118, R124, R126, R131, R136, R151, R152, R155, R158, R168, R93: an entry whose expiry point is passed leaves the
list. An orphan does nothing else; a live one gives MISSED, or LAPSED under DARK, taken as DispatchGivesOwner says. Purpose by
purpose: under DARK nothing is counted, a CHECK may be granted again, a POLL is due again, and an engine asks again; a miss
raises the miss count (left as it is at or above miss_limit), an UPKEEP's raises the level, a CHECK's the check attempts up
to CHECK_FAIL at 4; at miss_limit a LOADING or IN_SERVICE record enters REFIND instead, with a RELISTEN offered and a push
served to it aborted. That an expiry passed stays due until it is taken is the model's reading (notes/assumptions/2.md); that
a POLL of slot A not answered makes it due since the present cycle also when its attention mark is set is its choice
(notes/assumptions/49.md). -/
def Obligations.ExpectationExpires : Prop :=
  ∀ (s : State) (t : TreeId) (pos : Nat) (x : Expectation) (rest : List Expectation) (now : Clock) (q : Part),
    s.Settled → s.clock.pos ≤ pos → pos < 131072 → (s.part.tree t).expectations = x :: rest →
    (s.part.tree t).passed (s.atPos pos).clock.treeTime (x.expected + 2048#33) = true →
    now = (s.atPos pos).clock → q = s.part.modTree t (fun T => { T with expectations := rest }) →
    (x.orphan = false →
        exec (.expectationExpiry t pos) s =
          .next ((s.atPos pos).withPart
            (q.takeOutcome now t x (if (s.part.tree t).guard.present.dark then .lapsed else .missed))))
      ∧ ((s.part.engine t).askDeferred = false →
        (x.orphan = true → exec (.expectationExpiry t pos) s = .next ((s.atPos pos).afterEvent q []))
          ∧ (∀ r, x.orphan = false → (s.part.tree t).guard.present.dark = true → s.part.record? t x.handle = some r →
            (x.purpose = .upkeep → exec (.expectationExpiry t pos) s = .next ((s.atPos pos).afterEvent q []))
              ∧ (x.purpose = .check → r.state ≠ .refind →
                ∃ v, exec (.expectationExpiry t pos) s = .next ((s.atPos pos).afterEvent v [])
                  ∧ q.onlyRecord v t x.handle
                  ∧ v.record? t x.handle = some { r with check := if r.check = .granted then .afterReply else r.check })
              ∧ (∀ slot kind, x.purpose = .poll → x.report = some (slot, kind) → r.state = .inService →
                ∃ v, exec (.expectationExpiry t pos) s = .next ((s.atPos pos).afterEvent v [])
                  ∧ q.onlyRecord v t x.handle
                  ∧ v.record? t x.handle =
                    some { r with polls := r.polls.set slot { r.polls.get slot with due := some s.clock.cycle } }))
          ∧ (∀ e : Engine, x.orphan = false → x.purpose = .loadStatus → e = s.part.engine t → e.serving = some x.handle →
            e.awaiting = true → e.ask = none →
            (e.state = .preparing ∨ e.state = .streaming ∨ e.state = .committing) →
            (∀ y ∈ rest, y.handle = x.handle → y.purpose ≠ .loadStatus) →
            ∀ asked, asked = (q.modEngine t fun _ =>
                { e with
                  awaiting := false
                  lastBad := e.lastBad || e.state == .streaming
                  ask := some (s.clock.cycle + 1) }) →
            ((s.part.tree t).guard.present.dark = true → (∀ r, s.part.record? t x.handle = some r → r.state ≠ .refind) →
                exec (.expectationExpiry t pos) s = .next ((s.atPos pos).afterEvent asked []))
              ∧ ∀ r, (s.part.tree t).guard.present.dark = false → s.part.record? t x.handle = some r →
                r.state = .loading → r.missCount + 1 < (s.part.tree t).settings.missLimit →
                ∃ v, exec (.expectationExpiry t pos) s = .next ((s.atPos pos).afterEvent v [])
                  ∧ asked.onlyRecord v t x.handle
                  ∧ v.record? t x.handle = some { r with missCount := r.missCount + 1 })
          ∧ ∀ (r : Record) (n limit : Nat), x.orphan = false → (s.part.tree t).guard.present.dark = false →
            s.part.record? t x.handle = some r → limit = (s.part.tree t).settings.missLimit →
            n = (if limit ≤ r.missCount then r.missCount else r.missCount + 1) →
            (x.purpose = .upkeep → (r.state = .inService ∨ r.state = .loading) → n < limit →
                ∃ v, exec (.expectationExpiry t pos) s = .next ((s.atPos pos).afterEvent v [])
                  ∧ q.onlyRecord v t x.handle
                  ∧ v.record? t x.handle =
                    some { r with
                      missCount := n
                      level := if r.impaired then 3 else min 3 (r.level + 1) })
              ∧ (∀ slot kind, x.purpose = .poll → x.report = some (slot, kind) → r.state = .inService → n < limit →
                ∃ v, exec (.expectationExpiry t pos) s = .next ((s.atPos pos).afterEvent v [])
                  ∧ q.onlyRecord v t x.handle
                  ∧ v.record? t x.handle =
                    some { r with
                      missCount := n
                      polls := r.polls.set slot { r.polls.get slot with due := some s.clock.cycle } })
              ∧ (x.purpose = .check → r.state = .aligning → r.checkAttempts + 1 < 4 →
                ∃ v, exec (.expectationExpiry t pos) s = .next ((s.atPos pos).afterEvent v [])
                  ∧ q.onlyRecord v t x.handle
                  ∧ v.record? t x.handle =
                    some { r with
                      missCount := n
                      checkAttempts := r.checkAttempts + 1
                      check := if r.check = .granted then .afterReply else r.check })
              ∧ (x.purpose = .check → r.state = .aligning → 4 ≤ r.checkAttempts + 1 →
                (s.part.engine t).serving ≠ some x.handle →
                ∃ v, exec (.expectationExpiry t pos) s =
                    .next ((s.atPos pos).afterEvent v [.terminal t x.handle r.tag .aligning .refind .checkFail])
                  ∧ (q.relistened t x.handle).onlyRecord v t x.handle
                  ∧ v.record? t x.handle =
                    some ({ r with
                      missCount := n
                      checkAttempts := r.checkAttempts + 1 }.refound .checkFail
                        (s.clock.tenth + BitVec.ofNat 32 (10 * (s.part.tree t).settings.refindTime))))
              ∧ ((r.state = .inService ∨ r.state = .loading) → limit ≤ n →
                ∀ left, ((s.part.engine t).serving ≠ some x.handle ∧ left = q.relistened t x.handle
                  ∨ (s.part.engine t).serving = some x.handle ∧ (s.part.tree t).pushQueue = []
                    ∧ left = (q.relistened t x.handle).letGo t x.handle) →
                ∃ v, exec (.expectationExpiry t pos) s =
                    .next ((s.atPos pos).afterEvent v [.terminal t x.handle r.tag r.state .refind .misses])
                  ∧ left.onlyRecord v t x.handle
                  ∧ v.record? t x.handle =
                    some ({ r with missCount := n }.refound .misses
                      (s.clock.tenth + BitVec.ofNat 32 (10 * (s.part.tree t).settings.refindTime)))))

/-- R44, R45, R176, R177: a window whose span end is passed closes: the scheduler is IDLE with the next spread, a WINDOW notice
follows when window_summaries is on, and a collision count at the STORM threshold enters HUSH first, or joins it. R45: the
spread chosen, case by case, and that it is again one of the four spreads. That the HUSH notice stands before the WINDOW
notice is the model's order (notes/assumptions/20.md), and that a close stays due until it is taken its reading
(notes/assumptions/2.md). -/
def Obligations.WindowCloses : Prop :=
   (∀ (s : State) (t : TreeId) (pos : Nat) (win : Window), s.Settled → s.clock.pos ≤ pos → pos < 131072 →
      (s.part.tree t).scheduler.phase = .listening win →
      (s.part.tree t).passed (s.atPos pos).clock.treeTime win.spanStop = true →
      (((s.part.tree t).settings.guardMask.storm = false ∨ win.c < (s.part.tree t).settings.stormThreshold) →
          exec (.windowClose t pos) s =
            .next ((s.atPos pos).afterEvent
              (s.part.modTree t fun T =>
                { T with scheduler := { T.scheduler with
                  phase := .idle
                  spread := nextSpread T.settings win } })
              (if (s.part.tree t).settings.windowSummaries then
                [.window t (s.part.tree t).scheduler.number win.spread win.h win.c
                  (nextSpread (s.part.tree t).settings win)]
              else [])))
        ∧ ((s.part.tree t).settings.guardMask.storm = true → (s.part.tree t).settings.stormThreshold ≤ win.c →
          exec (.windowClose t pos) s =
            .next ((s.atPos pos).afterEvent
              (s.part.modTree t fun T =>
                { T with
                  scheduler := { T.scheduler with
                    phase := .idle
                    spread := nextSpread T.settings win }
                  guard :=
                    ⟨true, T.guard.present, if T.guard.hush then { T.guard.seen with storm := true } else ⟨false, false, true⟩,
                      T.guard.strayCount,
                      if T.guard.present.any then none else some ⟨s.clock.tenth, T.settings.resumeDelay⟩⟩ })
              ((if (s.part.tree t).guard.hush then []
                else [.hush t true ⟨false, false, true⟩ ⟨false, false, true⟩ win.c s.clock.cycle s.clock.tenth])
                ++ if (s.part.tree t).settings.windowSummaries then
                  [.window t (s.part.tree t).scheduler.number win.spread win.h win.c
                    (nextSpread (s.part.tree t).settings win)]
                else []))))
    ∧ (∀ (s : Settings) (win : Window), s.Ok →
         (win.spread = 8 ∨ win.spread = 16 ∨ win.spread = 32 ∨ win.spread = 64) →
         (s.rawStamps = true → nextSpread s win = s.spreadMin)
           ∧ (s.rawStamps = false → 2 ≤ win.c → win.spread < 64 → nextSpread s win = 2 * win.spread)
           ∧ (s.rawStamps = false → 2 ≤ win.c → win.spread = 64 → nextSpread s win = 64)
           ∧ (s.rawStamps = false → win.c = 1 → nextSpread s win = win.spread)
           ∧ (s.rawStamps = false → win.c = 0 → win.h ≤ win.spread / 4 → s.spreadMin < win.spread →
               nextSpread s win = win.spread / 2)
           ∧ (s.rawStamps = false → win.c = 0 → (win.spread / 4 < win.h ∨ win.spread ≤ s.spreadMin) →
               nextSpread s win = win.spread)
           ∧ (nextSpread s win = 8 ∨ nextSpread s win = 16 ∨ nextSpread s win = 32 ∨ nextSpread s win = 64))

/-- R53, R55, R59 and R61: the arithmetic unit takes the oldest hello: a NEGATIVE one is counted implausible and dropped,
any other is handed on measured; in raw-stamp mode the first four of a window are told by notice and none is handed on. -/
def Obligations.HelloMeasured : Prop :=
  ∀ (s : State) (t : TreeId) (m : Hello) (rest : List Hello), s.Settled → (s.part.tree t).hellos = m :: rest →
    ((s.part.tree t).settings.rawStamps = false → m.rtt (s.part.tree t).settings.treeOffset < -64 →
        exec (.helloArithmetic t) s =
          .next (s.afterEvent
            (s.part.modTree t fun T =>
              { T with
                hellos := rest
                counters := { T.counters with implausible := T.counters.implausible + 1 } }) []))
      ∧ ((s.part.tree t).settings.rawStamps = false → -64 ≤ m.rtt (s.part.tree t).settings.treeOffset →
        exec (.helloArithmetic t) s =
          .next (s.afterEvent
            (s.part.modTree t fun T =>
              { T with
                hellos := rest
                measured := T.measured ++ [m.measure T.settings] }) []))
      ∧ ((s.part.tree t).settings.rawStamps = true → (s.part.tree t).rawCount < 4 →
        exec (.helloArithmetic t) s =
          .next (s.afterEvent
            (s.part.modTree t fun T =>
              { T with
                hellos := rest
                rawCount := T.rawCount + 1 })
            [.rawStamp t m (m.rtt (s.part.tree t).settings.treeOffset) (s.part.tree t).settings.treeOffset
              (classOf (s.part.tree t).settings.reachDepth (m.rtt (s.part.tree t).settings.treeOffset))]))
      ∧ ((s.part.tree t).settings.rawStamps = true → 4 ≤ (s.part.tree t).rawCount →
        exec (.helloArithmetic t) s =
          .next (s.afterEvent (s.part.modTree t fun T => { T with hellos := rest }) []))

/-- R68, R73, R83 to R91: the activation controller takes the oldest measured hello, by the first of the seven cases that
fits. A tag not admitted joins the unclaimed list, displacing the one heard longest ago from a full list, or is counted there
again; a hello of a HELD record is counted, one of an entry with the conflict mark ignored; one on a tree that the entry does
not allow is a sighting; a second hello in one window makes the record HELD DUPLICATE, and so does one on another tree, but a
REFIND record there is freed as MOVED and the hello taken as new; a bound tag enters HEARD again with its LAG offered; an
unbound one gets a record with the lowest free handle and its LAG offered, or is turned away with the first TABLE-FULL; FAR
makes the record HELD out of reach. A LAG that the queue refuses sets the lag-unsent mark. Entries to HEARD and HELD are stated
for a record whose push is not being served. -/
def Obligations.MeasuredHelloTaken : Prop :=
  ∀ (s : State) (t : TreeId) (m : Measured) (rest : List Measured) (q : Part), s.Settled →
    (s.part.tree t).measured = m :: rest → q = s.part.modTree t (fun T => { T with measured := rest }) →
    (s.part.entry? m.tag = none → (∀ e ∈ s.part.unclaimedTags, e.tag ≠ m.tag) →
        (s.part.unclaimedTags.length < 16 →
            exec (.measuredHelloTaken t) s =
              .next (s.afterEvent
                { q with
                  unclaimedTags := s.part.unclaimedTags ++ [⟨m.tag, t, m.maker, s.clock.tenth, s.clock.tenth, 1⟩] }
                [.unclaimed t m.tag m.maker s.clock.tenth none]))
          ∧ ∀ pre d post, 16 ≤ s.part.unclaimedTags.length → s.part.unclaimedTags = pre ++ d :: post →
            (∀ y ∈ pre, tenthsSince s.clock.tenth y.lastHeard < tenthsSince s.clock.tenth d.lastHeard) →
            (∀ y ∈ post, tenthsSince s.clock.tenth y.lastHeard ≤ tenthsSince s.clock.tenth d.lastHeard) →
            (∀ y ∈ pre ++ post, y.tag ≠ d.tag) →
            exec (.measuredHelloTaken t) s =
              .next (s.afterEvent
                { q with
                  unclaimedTags := pre ++ post ++ [⟨m.tag, t, m.maker, s.clock.tenth, s.clock.tenth, 1⟩] }
                [.unclaimed t m.tag m.maker s.clock.tenth (some d.tag)]))
      ∧ (s.part.entry? m.tag = none → (∃ e ∈ s.part.unclaimedTags, e.tag = m.tag) →
        exec (.measuredHelloTaken t) s =
          .next (s.afterEvent
            { q with
              unclaimedTags := s.part.unclaimedTags.map fun e =>
                if e.tag = m.tag then
                  { e with
                    tree := t
                    maker := m.maker
                    lastHeard := s.clock.tenth
                    times := min 255 (e.times + 1) }
                else e } []))
      ∧ ∀ e, s.part.entry? m.tag = some e →
        (∀ r, s.part.recordOf? m.tag = some r → r.state = .held → s.part.record? r.tree r.handle = some r →
          ∃ v, exec (.measuredHelloTaken t) s = .next (s.afterEvent v [])
            ∧ q.onlyRecord v r.tree r.handle
            ∧ v.record? r.tree r.handle = some { r with held := r.held.map fun n => min 255 (n + 1) })
          ∧ (e.conflict = true → (∀ r, s.part.recordOf? m.tag = some r → r.state ≠ .held) →
            exec (.measuredHelloTaken t) s = .next (s.afterEvent q []))
          ∧ (e.conflict = false → (∀ r, s.part.recordOf? m.tag = some r → r.state ≠ .held) → inMask e.mask t = false →
            exec (.measuredHelloTaken t) s =
              .next (s.afterEvent
                { q with
                  admission := s.part.admission.map fun x =>
                    if x.tag = m.tag then { x with sighting := some (t, s.clock.tenth) } else x }
                (if e.sighting.map (·.1) = some t then [] else [.wrongTree t m.tag e.mask m.maker s.clock.tenth])))
          ∧ (e.conflict = false → inMask e.mask t = true →
            (∀ (r : Record) (h : Nat) (u : TreeId), s.part.recordOf? m.tag = some r → r.state ≠ .held → r.tree = u →
              r.handle = h → s.part.record? u h = some r → (s.part.engine u).serving ≠ some h →
              (∀ (unsent : Bool) (base : Part), (u ≠ t ∧ r.state ≠ .refind ∨ u = t ∧ r.heardWindow = some m.number) →
                  (unsent = true ↔ r.lagUnsent = true ∧ ∀ n, .lagByTag r.tag h n ∉ (s.part.tree u).heldOrders) →
                  base = (({ q.heldBack u h with admission := s.part.admission.map fun x =>
                    if x.tag = m.tag then { x with conflict := true } else x } : Part).withdraw u (Order.isLag h)).offer t
                      (.standdown m.tag) →
                  ∃ v, exec (.measuredHelloTaken t) s =
                      .next (s.afterEvent v [.terminal u h m.tag r.state .held .duplicate])
                    ∧ (if u = t then base else base.offer u (.standdown m.tag)).onlyRecord v u h
                    ∧ v.record? u h = some { r.heldFor .duplicate with lagUnsent := unsent })
                ∧ (u ≠ t → r.state = .refind →
                  exec (.measuredHelloTaken t) s =
                    .next (s.withPart
                      (({ q.freed u h m.tag with raised := [.terminal u h m.tag .refind .free .moved] } : Part).hearNew t
                        m)))
                ∧ (u = t → r.heardWindow ≠ some m.number → m.cls = .far →
                  ∃ v, exec (.measuredHelloTaken t) s =
                      .next (s.afterEvent v [.terminal t h m.tag r.state .held .outOfReach])
                    ∧ (q.heldBack t h).onlyRecord v t h
                    ∧ v.record? t h =
                      some { r.heldFor .outOfReach with
                        lag := 0
                        lastRtt := m.rtt
                        heardWindow := some m.number })
                ∧ ∀ cause, u = t → r.heardWindow ≠ some m.number → m.cls ≠ .far → (s.part.tree t).enabled = true →
                  ((r.state = .heard ∨ r.state = .aligning) ∧ cause = .reheard
                    ∨ (r.state = .loading ∨ r.state = .inService) ∧ cause = .rejoin
                    ∨ r.state = .refind ∧ cause = .refound) →
                  ∃ v, exec (.measuredHelloTaken t) s =
                      .next (s.afterEvent v [.terminal t h m.tag r.state .heard cause])
                    ∧ ((q.offer t (.lagByTag m.tag h (m.lag / 4))).heldBack t h).onlyRecord v t h
                    ∧ v.record? t h =
                      some { r with
                        state := .heard
                        cause := cause
                        lag := m.lag
                        lastRtt := m.rtt
                        maker := m.maker
                        heardWindow := some m.number
                        level := 0
                        missCount := 0
                        errorCount := 0
                        impaired := false
                        attention := false
                        checkAttempts := 0
                        lastUpkeepGrant := 0
                        nudgePending := none
                        lagUnsent := !(s.part.tree t).accepts
                        load := none
                        refind := none
                        attentionMark := none
                        upkeepDue := false
                        check := .none })
              ∧ (s.part.recordOf? m.tag = none →
                (∀ reason,
                  (192 ≤ s.part.records.length ∧ reason = .table
                    ∨ s.part.records.length < 192
                      ∧ (∀ h, 1 ≤ h → h ≤ 64 → (s.part.record? t h).isSome = true ∨ s.part.reserved t h = true)
                      ∧ reason = .handles) →
                  exec (.measuredHelloTaken t) s =
                    .next (s.afterEvent
                      (q.modTree t fun T =>
                        { T with
                          counters := { T.counters with turnedAway := T.counters.turnedAway + 1 }
                          turnedAway := true })
                      (if (s.part.tree t).turnedAway then []
                      else
                        [.tableFull t m.tag reason s.part.records.length (s.part.recordsOf t).length
                          (((List.range 64).filter fun n => s.part.reserved t (n + 1)).length)])))
                  ∧ ∀ h, s.part.records.length < 192 → 1 ≤ h → h ≤ 64 → s.part.record? t h = none →
                    s.part.reserved t h = false →
                    (∀ j, 1 ≤ j → j < h → (s.part.record? t j).isSome = true ∨ s.part.reserved t j = true) →
                    (m.cls ≠ .far → (s.part.tree t).enabled = true →
                      ∃ v, exec (.measuredHelloTaken t) s =
                          .next (s.afterEvent v [.terminal t h m.tag .free .heard .new])
                        ∧ ({ q.offer t (.lagByTag m.tag h (m.lag / 4)) with
                            admission := s.part.admission.map fun x =>
                              if x.tag = m.tag then
                                { x with
                                  bound := true
                                  sighting := none }
                              else x } : Part).onlyRecord v t h
                        ∧ v.record? t h =
                          some { newRecord t h m .heard .new with lagUnsent := !(s.part.tree t).accepts }
                        ∧ v.records.length = s.part.records.length + 1)
                      ∧ (m.cls = .far →
                        ∃ v, exec (.measuredHelloTaken t) s =
                            .next (s.afterEvent v [.terminal t h m.tag .free .held .outOfReach])
                          ∧ ({ q with
                              admission := s.part.admission.map fun x =>
                                if x.tag = m.tag then
                                  { x with
                                    bound := true
                                    sighting := none }
                                else x } : Part).onlyRecord v t h
                          ∧ v.record? t h = some (newRecord t h { m with lag := 0 } .held .outOfReach)
                          ∧ v.records.length = s.part.records.length + 1)))

/-! ### The two-wire bus -/

/-- R190: what each requester waits to have made: a fetcher the transfer it has requested, the saver the first of the pages
left of its save. A free bus goes to the first requester that waits in the rotation after the one served last: the fetchers
of the trees in order, then the saver, and round; it stays free exactly when none waits. While a transfer is under way, or the
store strap is low, no other starts. That the strap is the level read at the last reset is the model's choice
(notes/assumptions/44.md). -/
def Obligations.BusRotation : Prop :=
  (rotationAfter (.fetcher .t0) = [.fetcher .t1, .fetcher .t2, .fetcher .t3, .saver, .fetcher .t0]
      ∧ rotationAfter (.fetcher .t1) = [.fetcher .t2, .fetcher .t3, .saver, .fetcher .t0, .fetcher .t1]
      ∧ rotationAfter (.fetcher .t2) = [.fetcher .t3, .saver, .fetcher .t0, .fetcher .t1, .fetcher .t2]
      ∧ rotationAfter (.fetcher .t3) = [.saver, .fetcher .t0, .fetcher .t1, .fetcher .t2, .fetcher .t3]
      ∧ rotationAfter .saver = [.fetcher .t0, .fetcher .t1, .fetcher .t2, .fetcher .t3, .saver]
      ∧ ∀ p : Part, (∀ t, p.waitingTransfer (.fetcher t) = (p.tree t).fetchWait)
        ∧ (p.save = none → p.waitingTransfer .saver = none)
        ∧ (∀ v, p.save = some v → v.pages = [] → p.waitingTransfer .saver = none)
        ∧ ∀ v g rest, p.save = some v → v.pages = g :: rest →
          p.waitingTransfer .saver = some ⟨.saver, .page g.bytes, g.address, g.bytes.length, false⟩)
    ∧ ∀ p : Part,
      ((p.master.current ≠ none ∨ p.straps.store = false) → p.serveBus = p)
        ∧ (p.straps.store = true → p.master.current = none →
          (p.serveBus = p ↔ (∀ t, (p.tree t).fetchWait = none) ∧ (∀ v, p.save = some v → v.pages = []))
            ∧ ∀ pre r post x, rotationAfter p.master.last = pre ++ r :: post →
              (∀ y ∈ pre, p.waitingTransfer y = none) → p.waitingTransfer r = some x →
              (∀ t, r = .fetcher t → x.requester = .fetcher t →
                  p.serveBus =
                    { p.modTree t fun T => { T with fetchWait := none } with master := ⟨some x, p.master.last⟩ })
                ∧ (r = .saver → p.serveBus = { p with master := ⟨some x, p.master.last⟩ }))

/-- R144, R147, R149, R159 and R191: what the end of a two-wire transfer does. A directory entry with the marker 0x5A
and a length of 1..4096 starts PREPARING, any other one falls back on the ROM default or holds the record NO_PROFILE; image
bytes enter the FIFO, ending a pause that they end, and the next read is requested while image bytes are wanting and have
room; without acknowledge the attempt fails with STORE_FAULT; the bytes of a push that has ended are discarded; the next transfer then takes the bus. A page
acknowledged leads to the next page of the save, and the last one to STORE-DONE with OK; a page not acknowledged ends
the save with NO_DEVICE when it is the first and WRITE_FAIL after that, with its offset; that NO_DEVICE holds too of a first
page acknowledged but not finished within 10 ms is the model's choice (notes/assumptions/37.md), and so is that a transfer of
a push that has ended fails no new attempt when it ends without acknowledge (notes/assumptions/48.md). -/
def Obligations.TransfersEnd : Prop :=
   (∀ (s : State) (t : TreeId) (x : Transfer), s.Settled → s.part.master.current = some x → x.requester = .fetcher t →
      (∀ bs hi lo more h r l, x.kind = .directory → x.discard = false → bs = 0x5A#8 :: hi :: lo :: more →
          bs.length = x.length → 1 ≤ hi.toNat * 256 + lo.toNat → hi.toNat * 256 + lo.toNat ≤ 4096 →
          (s.part.engine t).serving = some h → s.part.record? t h = some r → r.load = some l →
          exec (.fetchDirectoryDone t (some bs)) s =
            .next (s.withPart
              (({ s.part with master := ⟨none, .fetcher t⟩ } : Part).startPreparing s.clock t h .external
                (hi.toNat * 256 + lo.toNat)).serveBus))
        ∧ (∀ bs h, x.kind = .directory → x.discard = false → bs.length = x.length →
          (∀ hi lo more, bs = 0x5A#8 :: hi :: lo :: more →
            hi.toNat * 256 + lo.toNat = 0 ∨ 4096 < hi.toNat * 256 + lo.toNat) →
          (s.part.engine t).serving = some h →
          ((s.part.tree t).settings.fallback = .useDefault →
              exec (.fetchDirectoryDone t (some bs)) s =
                .next (s.withPart
                  (({ s.part with master := ⟨none, .fetcher t⟩ } : Part).startPreparing s.clock t h .default 256).serveBus))
            ∧ ∀ r, (s.part.tree t).settings.fallback = .hold → s.part.record? t h = some r →
              exec (.fetchDirectoryDone t (some bs)) s =
                .next (s.withPart
                  (({ (s.part.modTree t fun T =>
                        { T with
                          engine := .idle
                          expectations := T.expectations.map fun e =>
                            if e.handle == h then { e with orphan := true } else e }).modRecord t h (·.heldFor .noProfile) with
                      master := ⟨none, .fetcher t⟩
                      raised := [.terminal t h r.tag r.state .held .noProfile] } : Part).takeTest s.clock t).serveBus))
        ∧ (∀ (bs : List Byte) (e after : Engine) (fill want : Nat), x.kind = .data → x.discard = false →
          bs.length = x.length → e = s.part.engine t → e.source = some .external →
          after =
            { e with
              fifo := e.fifo ++ bs
              crc := crc32Feed e.crc bs } →
          fill = e.ackPoint + e.fifo.length + bs.length → fill ≤ e.imageLength → e.fifo.length + bs.length ≤ 2048 →
          (e.state = .streaming → after.paused = true → e.stallTimer.isSome = true) →
          want = min 64 (e.imageLength - fill) →
          exec (.fetchDataDone t (some bs)) s =
            .next (s.withPart
              ({ s.part.modTree t fun T =>
                  { T with
                    engine :=
                      { after with
                        stallTimer := if e.state = .streaming ∧ after.paused = false then none else e.stallTimer }
                    fetchWait :=
                      if T.fetchWait = none ∧ 0 < want ∧ want ≤ 2048 - (e.fifo.length + bs.length) then
                        some ⟨.fetcher t, .data, 16384 + 4096 * (e.profile - 17) + fill, want, false⟩
                      else T.fetchWait } with
                master := ⟨none, .fetcher t⟩ } : Part).serveBus))
        ∧ (∀ c result, (c = .fetchDirectoryDone t result ∧ x.kind = .directory ∨ c = .fetchDataDone t result ∧ x.kind = .data) →
          (∀ bs, result = some bs → bs.length = x.length) → x.discard = true →
          exec c s = .next (s.withPart ({ s.part with master := ⟨none, .fetcher t⟩ } : Part).serveBus))
        ∧ ∀ c, (c = .fetchDirectoryDone t none ∧ x.kind = .directory ∨ c = .fetchDataDone t none ∧ x.kind = .data) →
          x.discard = false →
          exec c s =
            .next (s.withPart
              (({ s.part with master := ⟨none, .fetcher t⟩ } : Part).failAttempt s.clock t .storeFault 0 false).serveBus))
    ∧ (∀ (s : State) (v : Save) (x : Transfer) (g : Page) (rest : List Page), s.Settled → s.part.straps.store = true →
         s.part.save = some v → s.part.master.current = some x → x.requester = .saver → v.pages = g :: rest →
         (∀ t, (s.part.tree t).fetchWait = none) →
         (∀ g' more, rest = g' :: more →
             exec (.savePageDone true) s =
               .next (s.afterEvent
                 { s.part with
                   save := some ⟨v.selector, rest, true⟩
                   master := ⟨some ⟨.saver, .page g'.bytes, g'.address, g'.bytes.length, false⟩, .saver⟩ } []))
           ∧ (rest = [] →
             exec (.savePageDone true) s =
               .next (s.afterEvent
                 { s.part with
                   save := none
                   master := ⟨none, .saver⟩ } [.storeDone v.selector .ok 0]))
           ∧ exec (.savePageDone false) s =
             .next (s.afterEvent
               { s.part with
                 save := none
                 master := ⟨none, .saver⟩ }
               [.storeDone v.selector (if v.anyWritten then .writeFail else .noDevice) x.address]))

/-! ### The link -/

/-- R182 to R185: a notice joins the queue with the notices-lost mark, or is lost and sets it; the free transmitter
starts the oldest reply, else the oldest notice; the last byte of a reply frees it, and that of a notice takes it out of the
queue too. That the last byte of the RESET reply is SOFT-RESET's instant, by which FRAME-SENT leaves that reply alone, is the
model's choice (notes/assumptions/23.md). -/
def Obligations.LinkSends : Prop :=
  (∀ (l : Link) (n : Notice),
      (l.notices.length < 64 → l.notify n =
          { l with
            notices := l.notices ++ [⟨n, l.lost⟩]
            lost := false })
        ∧ (64 ≤ l.notices.length → l.notify n = { l with lost := true })
        ∧ (l.tx ≠ none → l.kick = l)
        ∧ (l.replies = [] → l.notices = [] → l.kick = l)
        ∧ (∀ r rest, l.tx = none → l.replies = r :: rest → l.kick =
          { l with
            tx := some ⟨if r.resets then .resetReply else .reply, r.kind,
              [BitVec.ofNat 8 r.status.code,
                (if l.lost then 1#8 else 0) ||| (if l.notices = [] then 0 else 2#8)] ++ r.data⟩
            replies := rest
            lost := false
            slotBusy := l.slotBusy && !r.fromSlot })
        ∧ ∀ q more, l.tx = none → l.replies = [] → l.notices = q :: more → l.kick =
          { l with tx := some ⟨.notice, q.notice.kind, ((if q.carriesLost then 1#8 else 0) ||| 2#8) :: q.notice.contents⟩ })
    ∧ ∀ (s : State) (x : Tx), s.Settled → s.link.tx = some x →
      (x.source = .reply → exec .frameSent s = .next { s with link := ({ s.link with tx := none } : Link).kick })
        ∧ (x.source = .notice →
          exec .frameSent s =
            .next { s with link :=
              ({ s.link with
                tx := none
                notices := s.link.notices.drop 1 }).kick })
        ∧ (x.source = .resetReply →
          exec .frameSent s = .next s)

/-- R181 and R183: bytes without a sync byte, a frame whose CRC is wrong and one whose length is out of range are
discarded without a reply; a frame of a kind that is no request kind is answered UNKNOWN. For every request: a body of
a wrong length is answered BAD-LENGTH and changes nothing; while the slot is occupied, while start-up runs and after a
RESET the reply is BUSY; with no place left for a reply the frame is discarded. The bytes that the receiver keeps
between two commands are the model's (notes/assumptions/22.md); so are the kind of the reply to a kind of 0x80 or above, which
wraps (notes/assumptions/42.md), and that a request's reply is ready at the instant its frame passes its CRC, before any BUSY
reply that follows (notes/assumptions/43.md). -/
def Obligations.LinkRefusals : Prop :=
   ((∀ (s : State) (bs : List Byte), s.Settled → s.link.rx = [] → Config.syncByte ∉ bs →
        exec (.badFrame bs) s = .next s
          ∧ (∀ kind body crc, bs = be 2 (body.length + 1) ++ kind :: body ++ crc → body.length ≤ 513 → crc.length = 2 →
            crc ≠ be 2 (crc16 (be 2 (body.length + 1) ++ kind :: body)).toNat →
            exec (.badFrame (Config.syncByte :: bs)) s = .next s)
          ∧ ∀ hi lo, bs = [hi, lo] → (hi.toNat * 256 + lo.toNat = 0 ∨ 514 < hi.toNat * 256 + lo.toNat) →
            exec (.badFrame (Config.syncByte :: bs)) s = .next s)
      ∧ ∀ (s : State) (kind : Byte) (body : List Byte), s.Taking → kind ∉ requestKinds →
        exec (.unknownRequest kind body) s = .next (s.answered kind .unknown []))
    ∧ (∀ (s : State) (c : Instr) (kind : Byte) (body : List Byte), requestOf c = some (kind, body) →
         (s.Taking → bodyLengthOk kind body.length = false → exec c s = .next (s.answered kind .badLength []))
           ∧ (s.Settled → s.link.replies.length < 8 → (s.link.slotBusy = true → s.link.replies.length < 7) →
             (s.link.slotBusy = true ∨ s.link.resetArmed = true ∨ s.part.loader.isSome = true) →
             exec c s =
               .next { s with link :=
                 ({ s.link with
                    rx := []
                    replies := s.link.replies ++ [⟨kind + 0x80#8, .busy, [], false, false⟩] } : Link).kick })
           ∧ (s.Settled → (8 ≤ s.link.replies.length ∨ (s.link.slotBusy = true ∧ 7 ≤ s.link.replies.length)) →
             exec c s = .next { s with link := { s.link with rx := [] } }))

/-- R186, R187 and R191: IDENTIFY carries the identity of the part and changes nothing; RESET sets its reply at the head of
those waiting; STORE-SAVE takes its snapshot and starts the first page, with its refusals. R190, R191 and 12.8: the pages of a snapshot are
whole pages of 64 bytes in ascending offset, 8 from 0 for the settings block and ⌈(5 + 27 n) / 64⌉ from 1024 for n admission
entries, settings before admission; joined they are the block and behind it free bytes, other ones in each save (a free
value and a count that are the model's, notes/assumptions/14.md). -/
def Obligations.IdentifyResetSave : Prop :=
  (∀ s : State, s.Taking →
    exec (.identify []) s =
        .next (s.answered 0x01#8 .ok
          [0x47#8, 0x50#8, 0x0A#8, 0x04#8, 1#8, BitVec.ofNat 8 s.link.rateCode, if s.part.straps.store then 1#8 else 0,
            4#8, 192#8, 64#8, 1#8, 0#8, 16#8, 16#8, 16#8, 0#8, 64#8, 32#8, 16#8])
      ∧ exec (.reset []) s =
        .next { s with link :=
          ({ s.link with
            rx := []
            slotBusy := true
            resetArmed := true
            replies := ⟨0x82#8, .ok, [], true, true⟩ :: s.link.replies }).kick }
      ∧ ∀ b : Byte,
        (b = 0 ∨ 3 < b.toNat → exec (.storeSave [b]) s = .next (s.answered 0x03#8 .badField []))
          ∧ (1 ≤ b.toNat → b.toNat ≤ 3 → s.part.straps.store = false →
            exec (.storeSave [b]) s = .next (s.answered 0x03#8 .noDevice []))
          ∧ (1 ≤ b.toNat → b.toNat ≤ 3 → s.part.straps.store = true → s.part.save ≠ none →
            exec (.storeSave [b]) s = .next (s.answered 0x03#8 .busy []))
          ∧ (1 ≤ b.toNat → b.toNat ≤ 3 → s.part.straps.store = true → s.part.save = none →
            s.part.master.current = none → (∀ t, (s.part.tree t).fetchWait = none) →
            ∃ g rest, (s.part.snapshot b.toNat = g :: rest)
              ∧ (g.address = if b = 2 then 1024 else 0)
              ∧ exec (.storeSave [b]) s =
                .next (s.afterRequest
                  { s.part with
                    save := some ⟨b.toNat, g :: rest, false⟩
                    savesBegun := s.part.savesBegun + 1
                    master := ⟨some ⟨.saver, .page g.bytes, g.address, 64, false⟩, s.part.master.last⟩ }
                  [] 0x03#8 .ok [])))
    ∧ ∀ p : Part,
      ((p.snapshot 1).map (·.address) = (List.range 8).map (64 * ·)
          ∧ ((p.snapshot 1).map (·.bytes)).flatten =
            p.settingsBlock ++ (List.range 47).map fun i => Config.tailByte p.savesBegun (465 + i))
        ∧ (∀ size count : Nat, (∀ e ∈ p.admission, e.label.length ≤ 16) → size = 5 + 27 * p.admission.length →
          count = (size + 63) / 64 →
          (p.snapshot 2).map (·.address) = (List.range count).map (fun i => 1024 + 64 * i)
            ∧ ((p.snapshot 2).map (·.bytes)).flatten =
              p.admissionBlock ++ (List.range (64 * count - size)).map fun i =>
                Config.tailByte p.savesBegun (1024 + size + i))
        ∧ p.snapshot 3 = p.snapshot 1 ++ p.snapshot 2
        ∧ ∀ selector, ∀ g ∈ p.snapshot selector, g.bytes.length = 64

/-! ### Requests on the trees -/

/-- R4 and R5: TREE-ENABLE starts the DISABLED trees of its mask; TREE-DISABLE brings the ENABLED ones to rest, freeing
their records and keeping settings, counters and window number; each tree changed gives one TREE notice. That the notices
stand in ascending order of tree is the model's order (notes/assumptions/20.md); that an enable takes the port as dark is its
choice (notes/assumptions/35.md), and so is that a disable leaves the dark count and the window timer
(notes/assumptions/41.md). -/
def Obligations.TreeEnableDisable : Prop :=
  ∀ s : State, s.Taking →
    (∀ m : TreeMask, m ≠ 0 →
      (∃ p, exec (.treeEnable [m.setWidth 8]) s =
          .next (s.afterRequest p
            ((allTrees.filter fun t => inMask m t && !(s.part.tree t).enabled).map fun t => .tree t true 0 false)
            0x08#8 .ok [])
        ∧ p = { s.part with trees := p.trees }
        ∧ ∀ t, p.tree t =
          if inMask m t = true ∧ (s.part.tree t).enabled = false then
            { s.part.tree t with
              enabled := true
              scheduler := ⟨.idle, 0, (s.part.tree t).settings.spreadMin, (s.part.tree t).scheduler.number⟩
              guard := .clear
              darkCount := 0
              lit := false
              lightSeen := false }
          else s.part.tree t)
        ∧ ∃ p, exec (.treeDisable [m.setWidth 8]) s =
            .next (s.afterRequest p
              ((allTrees.filter fun t => inMask m t && (s.part.tree t).enabled).map fun t =>
                .tree t false (s.part.recordsOf t).length false) 0x09#8 .ok [])
          ∧ p =
            { s.part with
              trees := p.trees
              records := s.part.records.filter fun r => !(inMask m r.tree && (s.part.tree r.tree).enabled)
              admission := s.part.admission.map fun e =>
                if s.part.records.any fun r => inMask m r.tree && (s.part.tree r.tree).enabled && r.tag == e.tag then
                  { e with bound := false }
                else e
              master := p.master }
          ∧ (∀ t, p.tree t =
            if inMask m t = true ∧ (s.part.tree t).enabled = true then
              { Tree.afterReset with
                settings := (s.part.tree t).settings
                counters := (s.part.tree t).counters
                header := (s.part.tree t).header
                field := (s.part.tree t).field
                lit := (s.part.tree t).lit
                lightSeen := (s.part.tree t).lightSeen
                darkCount := (s.part.tree t).darkCount
                scheduler :=
                  ⟨.idle, (s.part.tree t).scheduler.timer, (s.part.tree t).settings.spreadMin,
                    (s.part.tree t).scheduler.number⟩ }
            else s.part.tree t)
          ∧ p.master.last = s.part.master.last
          ∧ p.master.current = s.part.master.current.map fun x =>
            if allTrees.any fun t => inMask m t && (s.part.tree t).enabled && x.requester == .fetcher t then
              { x with discard := true }
            else x)
      ∧ ∀ b : Byte, (b = 0 ∨ 15 < b.toNat) →
        exec (.treeEnable [b]) s = .next (s.answered 0x08#8 .badField [])
          ∧ exec (.treeDisable [b]) s = .next (s.answered 0x09#8 .badField [])

/-- R17, R19 and R179: TREE-SET refuses a bad pair, then a change of a disabled-only field on an ENABLED tree, and else
stores its pairs in order on every tree of its mask; storing guard_mask ends a factor present whose bit it clears, which in
HUSH may start the resume timer and at the end of DARK makes the test of R146 (stated for a mask of one tree, and for several
where no engine has a record to take; that the guard acts once, by the guard_mask and the other
fields that all the pairs leave (resume_delay, and fallback and stall_limit for that test), is the model's choice, notes/assumptions/19.md). TREE-GET carries the highest tree of its mask, and clears the counters of all of them when asked
to by a flag byte that is not 0 (12.10). A mask of 0 or above 15 is refused with BAD-FIELD. With 1.8: how single values are
clamped and rounded, and the fields that another field moves. -/
def Obligations.TreeSetGet : Prop :=
   (∀ (s : State) (m : TreeMask), s.Taking → m ≠ 0 →
      (∀ pairs : List (Nat × Int), pairs.length ≤ 28 →
          (∀ q ∈ pairs, q.1 < 256 ∧ -2147483648 ≤ q.2 ∧ q.2 < 2147483648) →
          ((∃ q ∈ pairs, badPair q.1 q.2 = true) →
              exec (.treeSet (m.setWidth 8 :: (pairs.map fun q => BitVec.ofNat 8 q.1 :: beInt 4 q.2).flatten)) s =
                .next (s.answered 0x0A#8 .badField []))
            ∧ ((∀ q ∈ pairs, badPair q.1 q.2 = false) →
              (∃ t q, inMask m t = true ∧ (s.part.tree t).enabled = true ∧ q ∈ pairs
                ∧ changesLocked (s.part.tree t).settings q = true) →
              exec (.treeSet (m.setWidth 8 :: (pairs.map fun q => BitVec.ofNat 8 q.1 :: beInt 4 q.2).flatten)) s =
                .next (s.answered 0x0A#8 .inUse []))
            ∧ ((∀ q ∈ pairs, badPair q.1 q.2 = false) →
              (∀ t q, inMask m t = true → (s.part.tree t).enabled = true → q ∈ pairs →
                changesLocked (s.part.tree t).settings q = false) →
              ∀ kept : TreeId → Tree,
                (∀ t S present, S = storePairs (s.part.tree t).settings pairs →
                  present = (⟨(s.part.tree t).guard.present.stray && S.guardMask.stray,
                    (s.part.tree t).guard.present.dark && S.guardMask.dark, (s.part.tree t).guard.present.storm⟩ : Factors) →
                  kept t =
                    if inMask m t = false then s.part.tree t
                    else if ∃ q ∈ pairs, q.1 = 23 then
                      { s.part.tree t with
                        settings := S
                        guard := { (s.part.tree t).guard with
                          present := present
                          resume :=
                            if (s.part.tree t).guard.hush = true ∧ present ≠ (s.part.tree t).guard.present
                                ∧ present = ⟨false, false, false⟩ then
                              some ⟨s.clock.tenth, S.resumeDelay⟩
                            else (s.part.tree t).guard.resume } }
                    else { s.part.tree t with settings := S }) →
                ((∀ t, (kept t).guard.present.dark ≠ (s.part.tree t).guard.present.dark →
                    (s.part.engine t).state ≠ .idle ∨ (s.part.tree t).pushQueue = []) →
                  ∃ p, exec (.treeSet (m.setWidth 8 :: (pairs.map fun q => BitVec.ofNat 8 q.1 :: beInt 4 q.2).flatten)) s =
                      .next (s.afterRequest p [] 0x0A#8 .ok (kept (highestTree m)).settings.bytes)
                    ∧ p = { s.part with trees := p.trees }
                    ∧ ∀ t, p.tree t = kept t)
                  ∧ ∀ t p, (∀ u, inMask m u = true ↔ u = t) →
                    (kept t).guard.present.dark ≠ (s.part.tree t).guard.present.dark →
                    p = (s.part.modTree t fun _ => kept t).takeTest s.clock t →
                    exec (.treeSet (m.setWidth 8 :: (pairs.map fun q => BitVec.ofNat 8 q.1 :: beInt 4 q.2).flatten)) s =
                      .next (s.afterRequest { p with raised := [] } p.raised 0x0A#8 .ok (kept t).settings.bytes)))
        ∧ ∀ c : Byte, ∃ p,
          exec (.treeGet [m.setWidth 8, c]) s =
              .next (s.afterRequest p [] 0x0B#8 .ok
                (BitVec.ofNat 8 (treeNo (highestTree m)) :: (s.part.tree (highestTree m)).settings.bytes
                  ++ [if (s.part.tree (highestTree m)).enabled then 1#8 else 0,
                    if (s.part.tree (highestTree m)).guard.hush then 1#8 else 0,
                    (s.part.tree (highestTree m)).guard.present.code,
                    BitVec.ofNat 8 (s.part.tree (highestTree m)).scheduler.spread,
                    (s.part.tree (highestTree m)).scheduler.number]
                  ++ (s.part.tree (highestTree m)).counters.bytes))
            ∧ p = { s.part with trees := p.trees }
            ∧ ∀ t, p.tree t =
              if inMask m t = true ∧ c ≠ 0 then { s.part.tree t with counters := .zero } else s.part.tree t)
    ∧ (∀ (s : State) (b : Byte), s.Taking → (b = 0 ∨ 15 < b.toNat) →
         (∀ pairs : List (Nat × Int), pairs.length ≤ 28 →
             exec (.treeSet (b :: (pairs.map fun q => BitVec.ofNat 8 q.1 :: beInt 4 q.2).flatten)) s =
               .next (s.answered 0x0A#8 .badField []))
           ∧ ∀ c : Byte, exec (.treeGet [b, c]) s = .next (s.answered 0x0B#8 .badField []))
    ∧ (∀ (s : Settings) (v : Int), s.Ok →
         (storePairs s [(1, v)] = { s with reachDepth := (4 * ((max 20000 (min 250000 v)) / 4)).toNat })
           ∧ (storePairs s [(2, v)] = { s with treeOffset := max (-8192) (min 8191 v) })
           ∧ (storePairs s [(3, v)] = { s with slotsPerCycle := (max 1 (min 4 v)).toNat })
           ∧ (storePairs s [(4, v)] = { s with windowInterval := (max 16 (min 65535 v)).toNat })
           ∧ (storePairs s [(8, v)] =
               { s with
                 alignTolerance := (max 16 (min 1024 v)).toNat
                 driftLimit := max s.driftLimit (max 16 (min 1024 v)).toNat })
           ∧ (storePairs s [(10, v)] =
               { s with
                 raiseThreshold := (max 4 (min 1024 v)).toNat
                 lowerThreshold := min s.lowerThreshold (max 4 (min 1024 v)).toNat })
           ∧ (storePairs s [(11, v)] = { s with lowerThreshold := (max 0 (min (s.raiseThreshold : Int) v)).toNat })
           ∧ (storePairs s [(13, v)] = { s with driftLimit := (max (s.alignTolerance : Int) (min 2048 v)).toNat })
           ∧ (0 ≤ v → v ≤ 7 → storePairs s [(23, v)] = { s with guardMask := ⟨v % 2 = 1, v / 2 % 2 = 1, v / 4 = 1⟩ }))

/-! ### Requests on the lists -/

/-- R64, R65, R68, R69 and R74: ADMIT replaces the fields of an entry of the tag, its sighting going when the mask changes,
or adds a new one at the tail and takes the tag off the unclaimed list; a tree mask of 0 is stored as 15; it stops at a full
list with FULL; an entry with a bad field refuses the whole. -/
def Obligations.AdmitStores : Prop :=
  ∀ s : State, s.Taking →
    (∀ (e : AdmitEntry) (mask : TreeMask), e.profile ≤ 64 → e.label.length ≤ 16 →
      mask = (if e.mask = 0 then 15#4 else e.mask) →
      ((s.part.entry? e.tag).isSome = true →
          exec (.admitTags e.stored) s =
            .next (s.afterRequest
              { s.part with admission := s.part.admission.map fun x =>
                if x.tag = e.tag then
                  { x with
                    profile := e.profile
                    mask := mask
                    label := e.label
                    sighting := if x.mask = mask then x.sighting else none }
                else x } [] 0x10#8 .ok [1#8]))
        ∧ (s.part.entry? e.tag = none → s.part.admission.length < 256 →
          exec (.admitTags e.stored) s =
            .next (s.afterRequest
              { s.part with
                admission := s.part.admission ++
                  [{ e with
                     mask := mask
                     bound := false
                     conflict := false
                     sighting := none }]
                unclaimedTags := s.part.unclaimedTags.filter fun x => x.tag != e.tag } [] 0x10#8 .ok [1#8]))
        ∧ (s.part.entry? e.tag = none → 256 ≤ s.part.admission.length →
          exec (.admitTags e.stored) s = .next (s.answered 0x10#8 .full [0#8])))
      ∧ (∀ es : List AdmitEntry, 1 ≤ es.length → es.length ≤ 8 →
        (∀ e ∈ es, e.profile ≤ 64 ∧ e.label.length ≤ 16 ∧ e.bound = false ∧ e.conflict = false ∧ e.sighting = none) →
        ∀ read : List AdmitEntry, read = (es.map fun e => { e with mask := if e.mask = 0 then 15#4 else e.mask }) →
        exec (.admitTags (es.map AdmitEntry.stored).flatten) s =
          .next (s.afterRequest (s.part.applyEntries read 0).1 [] 0x10#8
            (if (s.part.applyEntries read 0).2 = es.length then .ok else .full)
            [BitVec.ofNat 8 (s.part.applyEntries read 0).2]))
      ∧ ∀ (before after : List (List Byte)) (bad : List Byte), before.length + after.length ≤ 7 →
        (∀ e ∈ before ++ bad :: after, e.length = 27) →
        (64 < (byteAt bad 8).toNat ∨ 15 < (byteAt bad 9).toNat ∨ 16 < (byteAt bad 10).toNat) →
        exec (.admitTags (before ++ bad :: after).flatten) s = .next (s.answered 0x10#8 .badField [])

/-- R70, R72 and R76: UNADMIT removes an entry that is not bound; ADMIT-CLEAR keeps the bound entries in their order and tells
how many it removed; UNCLAIMED-CLEAR empties the unclaimed list, or removes the entry of the tag it names. -/
def Obligations.ListRemovals : Prop :=
   (∀ s : State, s.Taking →
      (∀ g : Tag,
        (s.part.entry? g = none → exec (.unadmit (tagBytes g)) s = .next (s.answered 0x11#8 .notFound []))
          ∧ ∀ e, s.part.entry? g = some e →
            (e.bound = true → exec (.unadmit (tagBytes g)) s = .next (s.answered 0x11#8 .inUse []))
              ∧ (e.bound = false →
                exec (.unadmit (tagBytes g)) s =
                  .next (s.afterRequest { s.part with admission := s.part.admission.filter fun x => x.tag != g } []
                    0x11#8 .ok [])))
        ∧ exec (.admitClear []) s =
          .next (s.afterRequest { s.part with admission := s.part.admission.filter fun x => x.bound } [] 0x13#8 .ok
            (be 2 (s.part.admission.filter fun x => !x.bound).length)))
    ∧ (∀ s : State, s.Taking →
         exec (.unclaimedClear []) s =
             .next (s.afterRequest { s.part with unclaimedTags := [] } [] 0x15#8 .ok
               [BitVec.ofNat 8 s.part.unclaimedTags.length])
           ∧ ∀ g : Tag,
             ((∃ e ∈ s.part.unclaimedTags, e.tag = g) →
                 exec (.unclaimedClear (tagBytes g)) s =
                   .next (s.afterRequest { s.part with unclaimedTags := s.part.unclaimedTags.filter fun e => e.tag != g } []
                     0x15#8 .ok [1#8]))
               ∧ ((∀ e ∈ s.part.unclaimedTags, e.tag ≠ g) →
                 exec (.unclaimedClear (tagBytes g)) s = .next (s.answered 0x15#8 .notFound [])))

/-- R71 and R75: ADMIT-READ carries the list's length and the entries from the start index on, up to the count, each with its
index, marks and sighting; UNCLAIMED-READ carries the whole unclaimed list; neither changes anything but the link. -/
def Obligations.ListReads : Prop :=
   (∀ (s : State) (start count : Byte), s.Taking →
      ((count = 0 ∨ 16 < count.toNat) → exec (.admitRead [start, count]) s = .next (s.answered 0x12#8 .badField []))
        ∧ (1 ≤ count.toNat → count.toNat ≤ 16 →
          exec (.admitRead [start, count]) s =
            .next (s.answered 0x12#8 .ok
              (be 2 s.part.admission.length
                ++ (((s.part.admission.zipIdx.drop start.toNat).take count.toNat).map fun q =>
                  BitVec.ofNat 8 q.2 :: tagBytes q.1.tag ++ [BitVec.ofNat 8 q.1.profile, q.1.mask.setWidth 8]
                    ++ BitVec.ofNat 8 q.1.label.length :: q.1.label ++ List.replicate (16 - q.1.label.length) 0#8
                    ++ [(if q.1.bound then 1#8 else 0) ||| (if q.1.conflict then 2#8 else 0)
                        ||| (if q.1.sighting = none then 0 else 4#8)]
                    ++ match q.1.sighting with
                      | some (t, n) => BitVec.ofNat 8 (treeNo t) :: be 4 n.toNat
                      | none => [0#8, 0#8, 0#8, 0#8, 0#8]).flatten))))
    ∧ (∀ s : State, s.Taking →
         exec (.unclaimedRead []) s =
           .next (s.answered 0x14#8 .ok
             (BitVec.ofNat 8 s.part.unclaimedTags.length
               :: (s.part.unclaimedTags.map fun e =>
                 tagBytes e.tag ++ [BitVec.ofNat 8 (treeNo e.tree)] ++ be 4 e.maker.toNat ++ be 4 e.firstHeard.toNat
                   ++ be 4 e.lastHeard.toNat ++ [BitVec.ofNat 8 e.times]).flatten)))

/-! ### Requests on the terminal table -/

/-- R98: TERMINAL-FIND carries tree, handle, state and cause of the record of the tag, or NOT-FOUND. -/
def Obligations.TerminalFindReply : Prop :=
  ∀ (s : State) (g : Tag), s.Taking →
    (∀ r ∈ s.part.records, r.tag = g → (∀ q ∈ s.part.records, q.tag = g → q = r) →
        exec (.terminalFind (tagBytes g)) s =
          .next (s.answered 0x19#8 .ok
            [BitVec.ofNat 8 (treeNo r.tree), BitVec.ofNat 8 r.handle, BitVec.ofNat 8 r.state.code,
              BitVec.ofNat 8 r.cause.code]))
      ∧ ((∀ r ∈ s.part.records, r.tag ≠ g) →
        exec (.terminalFind (tagBytes g)) s = .next (s.answered 0x19#8 .notFound []))

/-- R97, R99 and R171: the reads of one record, of a run of records and of one report slot, each with its refusals; none
changes anything. TERMINAL-READ carries the 138 bytes of 12.10, here written out; the records that TERMINAL-LIST carries
stand in ascending order of their keys, and the next start key is tree x 64 + handle of the last, in every state that meets
the table's invariant (StepKeepsTableOk). -/
def Obligations.RecordReads : Prop :=
  ∀ s : State, s.Taking →
    (∀ (t : TreeId) (h : Nat), 1 ≤ h → h ≤ 64 →
      (∀ r, s.part.record? t h = some r →
          (∀ bytes : List Byte, bytes =
              [BitVec.ofNat 8 r.state.code, BitVec.ofNat 8 (treeNo r.tree), BitVec.ofNat 8 r.handle] ++ tagBytes r.tag
                ++ be 4 r.maker.toNat ++ be 4 r.lag ++ beInt 4 r.lastRtt ++ [BitVec.ofNat 8 r.cause.code]
                ++ (match r.heardWindow with
                  | some n => [1#8, n]
                  | none => [0#8, 0#8])
                ++ (match r.lagSentCycle with
                  | some c => 1#8 :: be 2 c.toNat
                  | none => [0#8, 0#8, 0#8])
                ++ [BitVec.ofNat 8 r.level, BitVec.ofNat 8 r.missCount, BitVec.ofNat 8 r.errorCount,
                  (if r.impaired then 1#8 else 0) ||| (if r.attention then 2#8 else 0) ||| (if r.lagUnsent then 4#8 else 0),
                  BitVec.ofNat 8 r.checkAttempts] ++ be 2 r.lastUpkeepGrant.toNat
                ++ (match r.nudgePending with
                  | some c => 1#8 :: be 2 c.toNat
                  | none => [0#8, 0#8, 0#8])
                ++ ([r.reports.a, r.reports.b, r.reports.c].map fun v =>
                  [if v.valid then 1#8 else 0, v.kind, BitVec.ofNat 8 v.body.length] ++ v.body
                    ++ List.replicate (24 - v.body.length) 0#8 ++ be 2 v.age).flatten
                ++ (match r.load with
                  | some l =>
                    [1#8, BitVec.ofNat 8 l.profile, BitVec.ofNat 8 l.sub.code, BitVec.ofNat 8 l.used,
                      match l.source with
                      | none => 0#8
                      | some .internal => 1#8
                      | some .external => 2#8
                      | some .streamed => 3#8
                      | some .default => 4#8]
                  | none => [0#8, 0#8, 0#8, 0#8, 0#8])
                ++ (match r.refind with
                  | some d => 1#8 :: be 4 d.toNat
                  | none => [0#8, 0#8, 0#8, 0#8, 0#8])
                ++ (match r.held with
                  | some n => [1#8, BitVec.ofNat 8 n]
                  | none => [0#8, 0#8]) →
              exec (.terminalRead [BitVec.ofNat 8 (treeNo t), BitVec.ofNat 8 h]) s = .next (s.answered 0x18#8 .ok bytes)
                ∧ ((∀ x, (r.reports.get x).body.length ≤ 24) → bytes.length = 138))
            ∧ ∀ x : ReportSlot,
              exec (.reportRead [BitVec.ofNat 8 (treeNo t), BitVec.ofNat 8 h, BitVec.ofNat 8 (slotCode x)]) s =
                .next (s.answered 0x32#8 .ok
                  ([BitVec.ofNat 8 r.state.code,
                      (if (r.reports.get x).valid then 1#8 else 0) ||| (if (r.reports.get x).stale then 2#8 else 0),
                      (r.reports.get x).kind, BitVec.ofNat 8 (r.reports.get x).body.length]
                    ++ (r.reports.get x).body ++ List.replicate (24 - (r.reports.get x).body.length) 0#8
                    ++ be 2 (r.reports.get x).age
                    ++ [(if (r.polls.get x).lastPoll = none then 0#8 else 1#8)
                        ||| (if (r.polls.get x).due = none then 0 else 2#8)
                        ||| (if x = .a ∧ r.attentionMark ≠ none then 4#8 else 0)]
                    ++ be 4 (((r.polls.get x).lastPoll.getD 0).toNat) ++ be 2 (((r.polls.get x).due.getD 0).toNat))))
        ∧ (s.part.record? t h = none →
          exec (.terminalRead [BitVec.ofNat 8 (treeNo t), BitVec.ofNat 8 h]) s =
              .next (s.answered 0x18#8 .notFound [if s.part.reserved t h then 1#8 else 0])
            ∧ ∀ x : ReportSlot,
              exec (.reportRead [BitVec.ofNat 8 (treeNo t), BitVec.ofNat 8 h, BitVec.ofNat 8 (slotCode x)]) s =
                .next (s.answered 0x32#8 .notFound [])))
      ∧ (∀ b h : Byte, (3 < b.toNat ∨ h = 0 ∨ 64 < h.toNat) →
        exec (.terminalRead [b, h]) s = .next (s.answered 0x18#8 .badField []))
      ∧ (∀ b h x : Byte, (3 < b.toNat ∨ h = 0 ∨ 64 < h.toNat ∨ x = 0 ∨ 3 < x.toNat) →
        exec (.reportRead [b, h, x]) s = .next (s.answered 0x32#8 .badField []))
      ∧ (∀ m states start : Byte, (m = 0 ∨ 15 < m.toNat) →
        exec (.terminalList [m, states, start]) s = .next (s.answered 0x1A#8 .badField []))
      ∧ ∀ (m : TreeMask) (states start : Byte), m ≠ 0 →
        ((states.getLsbD 0 = true ∨ states &&& 0x7E#8 = 0) →
            exec (.terminalList [m.setWidth 8, states, start]) s = .next (s.answered 0x1A#8 .badField []))
          ∧ ∀ found : List Record, states.getLsbD 0 = false → states &&& 0x7E#8 ≠ 0 →
            found = (s.part.records.filter fun r =>
              inMask m r.tree && states.getLsbD r.state.code
                && decide (start.toNat ≤ treeNo r.tree * 64 + r.handle - 1)) →
            (s.part.TableOk →
                (found.map fun r => treeNo r.tree * 64 + r.handle - 1).Pairwise (· < ·)
                  ∧ ∀ r ∈ found, treeNo r.tree * 64 + r.handle - 1 + 1 = treeNo r.tree * 64 + r.handle)
              ∧ exec (.terminalList [m.setWidth 8, states, start]) s =
                  .next (s.answered 0x1A#8 .ok
                    ([BitVec.ofNat 8 (min 32 found.length), if 32 < found.length then 1#8 else 0]
                      ++ be 2 (match (found.take 32).getLast? with
                        | some r => treeNo r.tree * 64 + r.handle - 1 + 1
                        | none => 256)
                      ++ ((found.take 32).map fun r =>
                        [BitVec.ofNat 8 (treeNo r.tree), BitVec.ofNat 8 r.handle, BitVec.ofNat 8 r.state.code]).flatten))

/-- R82, R96, R100 and R101: RETIRE frees a record whatever its state, with a RELISTEN where its terminal holds the handle;
RELEASE frees a HELD one and clears its conflict mark; a push being served to it is let go; with their refusals. -/
def Obligations.RetireRelease : Prop :=
  ∀ s : State, s.Taking →
    (∀ b c : Byte, (3 < b.toNat ∨ c = 0 ∨ 64 < c.toNat) →
        exec (.retire [b, c]) s = .next (s.answered 0x1B#8 .badField [])
          ∧ exec (.release [b, c]) s = .next (s.answered 0x1C#8 .badField []))
      ∧ ∀ (t : TreeId) (h : Nat), 1 ≤ h → h ≤ 64 →
        (s.part.record? t h = none →
            exec (.retire [BitVec.ofNat 8 (treeNo t), BitVec.ofNat 8 h]) s = .next (s.answered 0x1B#8 .notFound [])
              ∧ exec (.release [BitVec.ofNat 8 (treeNo t), BitVec.ofNat 8 h]) s = .next (s.answered 0x1C#8 .notFound []))
          ∧ ∀ r, s.part.record? t h = some r →
            ((r.state = .heard ∨ r.state = .refind ∨ r.state = .held) → (s.part.engine t).serving ≠ some h →
              exec (.retire [BitVec.ofNat 8 (treeNo t), BitVec.ofNat 8 h]) s =
                .next (s.afterRequest (s.part.freed t h r.tag) [.terminal t h r.tag r.state .free .byRequest] 0x1B#8 .ok
                  [BitVec.ofNat 8 r.state.code]))
              ∧ ((r.state = .aligning ∨ r.state = .loading ∨ r.state = .inService) → (s.part.engine t).serving ≠ some h →
                exec (.retire [BitVec.ofNat 8 (treeNo t), BitVec.ofNat 8 h]) s =
                  .next (s.afterRequest ((s.part.offer t (.relisten h)).freed t h r.tag)
                    [.terminal t h r.tag r.state .free .byRequest] 0x1B#8 .ok [BitVec.ofNat 8 r.state.code]))
              ∧ (r.state = .loading → (s.part.engine t).serving = some h → (s.part.tree t).pushQueue = [] →
                exec (.retire [BitVec.ofNat 8 (treeNo t), BitVec.ofNat 8 h]) s =
                  .next (s.afterRequest (((s.part.offer t (.relisten h)).letGo t h).freed t h r.tag)
                    [.terminal t h r.tag .loading .free .byRequest] 0x1B#8 .ok [3#8]))
              ∧ (r.state = .held → (s.part.engine t).serving ≠ some h →
                exec (.release [BitVec.ofNat 8 (treeNo t), BitVec.ofNat 8 h]) s =
                  .next (s.afterRequest
                    (({ s.part with admission := s.part.admission.map fun e =>
                        if e.tag = r.tag then { e with conflict := false } else e } : Part).freed t h r.tag)
                    [.terminal t h r.tag .held .free .byRequest] 0x1C#8 .ok []))
              ∧ (r.state ≠ .held →
                exec (.release [BitVec.ofNat 8 (treeNo t), BitVec.ofNat 8 h]) s = .next (s.answered 0x1C#8 .wrongState []))

/-- R92, R93, R102, R103 and R145: REALIGN sends an aligned record to REFIND with a RELISTEN and the deadline of
refind_time; RELOAD sends an IN_SERVICE record to LOADING with the profile of its entry, at the tail of the push queue; with
their refusals. -/
def Obligations.RealignReload : Prop :=
  ∀ s : State, s.Taking →
    (∀ b c : Byte, (3 < b.toNat ∨ c = 0 ∨ 64 < c.toNat) →
        exec (.realign [b, c]) s = .next (s.answered 0x1D#8 .badField [])
          ∧ exec (.reload [b, c]) s = .next (s.answered 0x1E#8 .badField []))
      ∧ (∀ (t : TreeId) (h : Nat), 1 ≤ h → h ≤ 64 → s.part.record? t h = none →
        exec (.realign [BitVec.ofNat 8 (treeNo t), BitVec.ofNat 8 h]) s = .next (s.answered 0x1D#8 .notFound [])
          ∧ exec (.reload [BitVec.ofNat 8 (treeNo t), BitVec.ofNat 8 h]) s = .next (s.answered 0x1E#8 .notFound []))
      ∧ ∀ (t : TreeId) (h : Nat) (r : Record), 1 ≤ h → h ≤ 64 → s.part.record? t h = some r →
        ((r.state = .heard ∨ r.state = .refind ∨ r.state = .held) →
            exec (.realign [BitVec.ofNat 8 (treeNo t), BitVec.ofNat 8 h]) s = .next (s.answered 0x1D#8 .wrongState []))
          ∧ ((r.state = .aligning ∨ r.state = .loading ∨ r.state = .inService) → (s.part.engine t).serving ≠ some h →
            (s.part.tree t).enabled = true → (s.part.tree t).accepts = true →
            ∃ v, exec (.realign [BitVec.ofNat 8 (treeNo t), BitVec.ofNat 8 h]) s =
                .next (s.afterRequest v [.terminal t h r.tag r.state .refind .byRequest] 0x1D#8 .ok [])
              ∧ (s.part.modTree t fun T =>
                  { T with
                    queue := T.queue ++ [.relisten h]
                    expectations := T.expectations.map fun e => if e.handle == h then { e with orphan := true } else e
                    pushQueue := T.pushQueue.filter (· != h) }).onlyRecord v t h
              ∧ v.record? t h =
                  some { r with
                    state := .refind
                    cause := .byRequest
                    load := none
                    refind := some (s.clock.tenth + BitVec.ofNat 32 (10 * (s.part.tree t).settings.refindTime))
                    upkeepDue := false
                    check := .none })
          ∧ (r.state ≠ .inService →
            exec (.reload [BitVec.ofNat 8 (treeNo t), BitVec.ofNat 8 h]) s = .next (s.answered 0x1E#8 .wrongState []))
          ∧ ∀ e, s.part.entry? r.tag = some e → r.state = .inService →
            (e.profile = 0 →
                exec (.reload [BitVec.ofNat 8 (treeNo t), BitVec.ofNat 8 h]) s = .next (s.answered 0x1E#8 .badField []))
              ∧ (e.profile ≠ 0 → (s.part.engine t).state ≠ .idle →
                ∃ v, exec (.reload [BitVec.ofNat 8 (treeNo t), BitVec.ofNat 8 h]) s =
                    .next (s.afterRequest v [.terminal t h r.tag .inService .loading .byRequest] 0x1E#8 .ok [])
                  ∧ (s.part.modTree t fun T => { T with pushQueue := T.pushQueue ++ [h] }).onlyRecord v t h
                  ∧ v.record? t h =
                      some { r with
                        state := .loading
                        cause := .byRequest
                        load := some ⟨e.profile, .queued, 0, none⟩
                        check := .none })

/-- R95, R104 and R105: STANDDOWN and LIFT offer their order on every ENABLED tree of the mask and tell which those are; the
record of the tag on a tree of the mask becomes HELD STOOD_DOWN, and LIFT changes no record; a mask of 0 or above 15 is
refused. -/
def Obligations.StanddownLift : Prop :=
  ∀ (s : State) (g : Tag), s.Taking →
    (∀ b : Byte, (b = 0 ∨ 15 < b.toNat) →
        exec (.standdown (b :: tagBytes g)) s = .next (s.answered 0x1F#8 .badField [])
          ∧ exec (.lift (b :: tagBytes g)) s = .next (s.answered 0x20#8 .badField []))
      ∧ ∀ m : TreeMask, m ≠ 0 → (∀ t, (s.part.tree t).accepts = true) →
        ∀ q : Order → Part,
          (∀ o, q o = { s.part with trees := (q o).trees }
            ∧ ∀ t, (q o).tree t =
              if inMask m t = true ∧ (s.part.tree t).enabled = true then
                { s.part.tree t with queue := (s.part.tree t).queue ++ [o] }
              else s.part.tree t) →
          exec (.lift (m.setWidth 8 :: tagBytes g)) s =
              .next (s.afterRequest (q (.lift g)) [] 0x20#8 .ok
                [(maskOf fun t => inMask m t && (s.part.tree t).enabled).setWidth 8])
            ∧ ((∀ r, s.part.recordOf? g = some r → r.state = .held ∨ inMask m r.tree = false) →
              exec (.standdown (m.setWidth 8 :: tagBytes g)) s =
                .next (s.afterRequest (q (.standdown g)) [] 0x1F#8 .ok
                  [(maskOf fun t => inMask m t && (s.part.tree t).enabled).setWidth 8]))
            ∧ ∀ r, s.part.recordOf? g = some r → r.state ≠ .held → inMask m r.tree = true →
              (s.part.engine r.tree).serving ≠ some r.handle → s.part.record? r.tree r.handle = some r →
              ∃ v, exec (.standdown (m.setWidth 8 :: tagBytes g)) s =
                  .next (s.afterRequest v [.terminal r.tree r.handle g r.state .held .stoodDown] 0x1F#8 .ok
                    [(maskOf fun t => inMask m t && (s.part.tree t).enabled).setWidth 8])
                ∧ ((q (.standdown g)).modTree r.tree fun T =>
                    { T with
                      expectations := T.expectations.map fun e =>
                        if e.handle == r.handle then { e with orphan := true } else e
                      pushQueue := T.pushQueue.filter (· != r.handle) }).onlyRecord v r.tree r.handle
                ∧ v.record? r.tree r.handle =
                    some { r with
                      state := .held
                      cause := .stoodDown
                      load := none
                      refind := none
                      held := some 0
                      upkeepDue := false
                      check := .none }

/-! ### Requests on profiles, pushes and reports -/

/-- R138 to R142: PROFILE-OPEN and PROFILE-ERASE act on a slot that no push served uses; PROFILE-WRITE appends to a WRITING
slot at its length, up to 4096 bytes; each with its refusals, and only the slot named changes. -/
def Obligations.ProfileOpenWriteErase : Prop :=
  ∀ s : State, s.Taking →
    (∀ n : Nat, 1 ≤ n → n ≤ 16 →
      ((∀ t, (s.part.engine t).state = .idle ∨ (s.part.engine t).source ≠ some .internal
          ∨ (s.part.engine t).profile ≠ n) →
          exec (.profileOpen [BitVec.ofNat 8 n]) s =
              .next (s.afterRequest (s.part.setSlot n ⟨.writing, []⟩) [] 0x28#8 .ok [])
            ∧ exec (.profileErase [BitVec.ofNat 8 n]) s =
              .next (s.afterRequest (s.part.setSlot n ⟨.empty, []⟩) [] 0x2B#8 .ok []))
        ∧ ((∃ t, (s.part.engine t).state ≠ .idle ∧ (s.part.engine t).source = some .internal
            ∧ (s.part.engine t).profile = n) →
          exec (.profileOpen [BitVec.ofNat 8 n]) s = .next (s.answered 0x28#8 .inUse [])
            ∧ exec (.profileErase [BitVec.ofNat 8 n]) s = .next (s.answered 0x2B#8 .inUse []))
        ∧ (∀ data : List Byte, 1 ≤ data.length → data.length ≤ 192 → (s.part.slot n).bytes.length < 4096 →
          ((s.part.slot n).state = .writing → (s.part.slot n).bytes.length + data.length ≤ 4096 →
            exec (.profileWrite (BitVec.ofNat 8 n :: be 2 (s.part.slot n).bytes.length ++ data)) s =
              .next (s.afterRequest (s.part.setSlot n ⟨.writing, (s.part.slot n).bytes ++ data⟩) [] 0x29#8 .ok
                (be 2 ((s.part.slot n).bytes.length + data.length))))
            ∧ (((s.part.slot n).state ≠ .writing ∨ 4096 < (s.part.slot n).bytes.length + data.length) →
              exec (.profileWrite (BitVec.ofNat 8 n :: be 2 (s.part.slot n).bytes.length ++ data)) s =
                .next (s.answered 0x29#8 .badField []))
            ∧ ∀ offset : Nat, offset < 65536 → offset ≠ (s.part.slot n).bytes.length →
              exec (.profileWrite (BitVec.ofNat 8 n :: be 2 offset ++ data)) s =
                .next (s.answered 0x29#8 .badField []))
        ∧ (∀ v, (s.part.setSlot n v).slot n = v)
        ∧ ∀ v k, 1 ≤ k → k ≠ n → (s.part.setSlot n v).slot k = s.part.slot k)
      ∧ ∀ b : Byte, (b = 0 ∨ 16 < b.toNat) →
        exec (.profileOpen [b]) s = .next (s.answered 0x28#8 .badField [])
          ∧ exec (.profileErase [b]) s = .next (s.answered 0x2B#8 .badField [])
          ∧ ∀ (offset : Nat) (data : List Byte), 1 ≤ data.length → data.length ≤ 192 →
            exec (.profileWrite (b :: be 2 offset ++ data)) s = .next (s.answered 0x29#8 .badField [])

/-- R141 and R143: PROFILE-CLOSE makes a WRITING slot READY, or EMPTY where its length is 0; PROFILE-INFO tells a slot's
state, length and users and changes nothing; with their refusals. -/
def Obligations.ProfileCloseInfo : Prop :=
  ∀ s : State, s.Taking →
    (∀ n : Nat, 1 ≤ n → n ≤ 16 →
      ((s.part.slot n).state = .writing → (s.part.slot n).bytes.length ≠ 0 →
          exec (.profileClose [BitVec.ofNat 8 n]) s =
            .next (s.afterRequest (s.part.setSlot n ⟨.ready, (s.part.slot n).bytes⟩) [] 0x2A#8 .ok
              (2#8 :: be 2 (s.part.slot n).bytes.length)))
        ∧ ((s.part.slot n).state = .writing → (s.part.slot n).bytes.length = 0 →
          exec (.profileClose [BitVec.ofNat 8 n]) s =
            .next (s.afterRequest (s.part.setSlot n ⟨.empty, []⟩) [] 0x2A#8 .ok (0#8 :: be 2 0)))
        ∧ ((s.part.slot n).state ≠ .writing →
          exec (.profileClose [BitVec.ofNat 8 n]) s = .next (s.answered 0x2A#8 .wrongState []))
        ∧ exec (.profileInfo [BitVec.ofNat 8 n]) s =
          .next (s.answered 0x2C#8 .ok
            (BitVec.ofNat 8 (s.part.slot n).state.code :: be 2 (s.part.slot n).bytes.length
              ++ [(maskOf fun t =>
                  (s.part.engine t).state != .idle && (s.part.engine t).source == some .internal
                    && (s.part.engine t).profile == n).setWidth 8])))
      ∧ ∀ b : Byte, (b = 0 ∨ 16 < b.toNat) →
        exec (.profileClose [b]) s = .next (s.answered 0x2A#8 .badField [])
          ∧ exec (.profileInfo [b]) s = .next (s.answered 0x2C#8 .badField [])

/-- R148 to R150, R152 and R157: PUSH-BEGIN takes the streamed push that an engine is RESOLVING into PREPARING with its
PREPARE offered; PUSH-DATA enters as many bytes as the FIFO and the image length allow, ending the stall timer when the
next cell's bytes have come; else WRONG-STATE, and BAD-FIELD for a tree above 3 or an image length of 0 or above 4096. That a
PUSH-BEGIN goes by the engine's state, at the instant of a begin timer's expiry too, is the model's choice
(notes/assumptions/47.md). -/
def Obligations.PushBeginData : Prop :=
  ∀ (s : State) (t : TreeId), s.Taking →
    (∀ (b : Byte) (n : Nat), n < 65536 → (3 < b.toNat ∨ n = 0 ∨ 4096 < n) →
        exec (.pushBegin (b :: be 2 n)) s = .next (s.answered 0x2D#8 .badField []))
      ∧ (∀ (b : Byte) (data : List Byte), 3 < b.toNat → 1 ≤ data.length → data.length ≤ 256 →
        exec (.pushData (b :: data)) s = .next (s.answered 0x2E#8 .badField []))
      ∧ (∀ n : Nat, 1 ≤ n → n ≤ 4096 →
        (((s.part.engine t).state ≠ .resolving ∨ (s.part.engine t).profile ≠ 64) →
            exec (.pushBegin (BitVec.ofNat 8 (treeNo t) :: be 2 n)) s = .next (s.answered 0x2D#8 .wrongState []))
          ∧ ∀ h r l, (s.part.engine t).state = .resolving → (s.part.engine t).profile = 64 →
            (s.part.engine t).serving = some h → s.part.record? t h = some r → r.load = some l →
            (s.part.tree t).enabled = true → (s.part.tree t).accepts = true →
            ∃ v, exec (.pushBegin (BitVec.ofNat 8 (treeNo t) :: be 2 n)) s =
                .next (s.afterRequest v [] 0x2D#8 .ok (BitVec.ofNat 8 h :: tagBytes r.tag ++ be 2 2048))
              ∧ (s.part.modTree t fun T =>
                  { T with
                    queue := T.queue ++ [.prepare h n 64]
                    engine :=
                      { T.engine with
                        state := .preparing
                        source := some .streamed
                        imageLength := n
                        beginTimer := none } }).onlyRecord v t h
              ∧ v.record? t h =
                  some { r with load := some { l with
                    sub := .preparing
                    source := some .streamed } })
      ∧ ∀ data : List Byte, 1 ≤ data.length → data.length ≤ 256 →
        (((s.part.engine t).source ≠ some .streamed
            ∨ ((s.part.engine t).state ≠ .preparing ∧ (s.part.engine t).state ≠ .settling
              ∧ (s.part.engine t).state ≠ .streaming)) →
          exec (.pushData (BitVec.ofNat 8 (treeNo t) :: data)) s = .next (s.answered 0x2E#8 .wrongState []))
          ∧ ∀ (e : Engine) (n : Nat), e = s.part.engine t → e.source = some .streamed →
            (e.state = .preparing ∨ e.state = .settling ∨ (e.state = .streaming ∧ e.stallTimer.isSome = true)) →
            n = min data.length (min (2048 - e.fifo.length) (e.imageLength - (e.ackPoint + e.fifo.length))) →
            exec (.pushData (BitVec.ofNat 8 (treeNo t) :: data)) s =
              .next (s.afterRequest
                (s.part.modEngine t fun _ =>
                  { e with
                    fifo := e.fifo ++ data.take n
                    crc := crc32Feed e.crc (data.take n)
                    stallTimer :=
                      if e.state = .streaming ∧ (({ e with fifo := e.fifo ++ data.take n } : Engine).paused = false) then none
                      else e.stallTimer })
                [] 0x2E#8 .ok
                (be 2 n ++ be 2 (e.ackPoint + e.fifo.length + n) ++ be 2 (2048 - (e.fifo.length + n))))

/-- R165, R167 and R169: REPORT-TABLE-SET clamps and stores, a slot other than 1 to 3 or a flag other than 0 and 1 refused; with the kind code unchanged it touches no record, and with
another one it clears the slot and its schedule in every record, an IN_SERVICE one falling due at once where the slot is
on. That a record not IN_SERVICE keeps its due marks, and that slot A there falls due since the cycle of the attention
rise, is the model's reading (notes/assumptions/33.md, notes/assumptions/21.md). -/
def Obligations.ReportTableSets : Prop :=
  ∀ (s : State) (x : ReportSlot) (kind interval multiple flag : Byte), s.Taking →
    (∀ b : Byte, (b = 0 ∨ 3 < b.toNat) →
        exec (.reportTableSet [b, kind, interval, multiple, flag]) s = .next (s.answered 0x30#8 .badField []))
      ∧ (1 < flag.toNat →
        exec (.reportTableSet [BitVec.ofNat 8 (slotCode x), kind, interval, multiple, flag]) s =
          .next (s.answered 0x30#8 .badField []))
      ∧ ∀ slot : TableSlot, flag.toNat ≤ 1 →
        slot = ⟨kind, max 1 interval.toNat, max 1 (min 15 multiple.toNat), flag = 1⟩ →
        ((s.part.reportTable.get x).kind = kind →
            exec (.reportTableSet [BitVec.ofNat 8 (slotCode x), kind, interval, multiple, flag]) s =
              .next (s.afterRequest { s.part with reportTable := s.part.reportTable.set x slot } [] 0x30#8 .ok
                [BitVec.ofNat 8 (slotCode x), kind, BitVec.ofNat 8 slot.interval, BitVec.ofNat 8 slot.multiple, flag]))
          ∧ ((s.part.reportTable.get x).kind ≠ kind →
            exec (.reportTableSet [BitVec.ofNat 8 (slotCode x), kind, interval, multiple, flag]) s =
              .next (s.afterRequest
                { s.part with
                  reportTable := s.part.reportTable.set x slot
                  records := s.part.records.map fun r =>
                    { r with
                      reports := r.reports.set x ⟨false, 0, [], 0, false⟩
                      polls := r.polls.set x
                        ⟨none,
                          if kind = 0 then none
                          else if r.state = .inService then some s.clock.cycle
                          else if x = .a ∧ (r.polls.get x).due = none then r.attentionMark
                          else (r.polls.get x).due⟩ } } [] 0x30#8 .ok
                [BitVec.ofNat 8 (slotCode x), kind, BitVec.ofNat 8 slot.interval, BitVec.ofNat 8 slot.multiple, flag]))

/-- R166: the reply of REPORT-TABLE-GET, and that the read changes nothing but the link. -/
def Obligations.ReportTableGetReply : Prop :=
  ∀ s : State, s.Taking →
    exec (.reportTableGet []) s =
      .next (s.answered 0x31#8 .ok
        ([ReportSlot.a, .b, .c].map fun x =>
          [(s.part.reportTable.get x).kind, BitVec.ofNat 8 (s.part.reportTable.get x).interval,
            BitVec.ofNat 8 (s.part.reportTable.get x).multiple,
            if (s.part.reportTable.get x).clearOnStale then 1#8 else 0]).flatten)
end

