-- ==== Sys2Proof/Laws/State.lean ====
section
/-!
SUPPORT. Laws/State.lean: one lemma for each field that an update leaves or writes, all true by unfolding, tagged simp.
-/

namespace Sys2Proof.Machine

/-! ### Collections -/

@[simp] theorem PerTree.get_set_self {α : Type} (p : PerTree α) (t : TreeId) (v : α) : (p.set t v).get t = v := by
  cases t <;> rfl

theorem PerTree.get_set {α : Type} (p : PerTree α) (t u : TreeId) (v : α) :
    (p.set t v).get u = if u = t then v else p.get u := by
  cases t <;> cases u <;> rfl

theorem PerTree.get_set_ne {α : Type} (p : PerTree α) {t u : TreeId} (h : u ≠ t) (v : α) :
    (p.set t v).get u = p.get u := by
  rw [PerTree.get_set, if_neg h]

theorem PerTree.ext_get {α : Type} {p q : PerTree α} (h : ∀ t, p.get t = q.get t) : p = q := by
  have h0 := h .t0
  have h1 := h .t1
  have h2 := h .t2
  have h3 := h .t3
  cases p
  cases q
  simp only [PerTree.get] at h0 h1 h2 h3
  subst h0 h1 h2 h3
  rfl

@[simp] theorem PerTree.set_get {α : Type} (p : PerTree α) (t : TreeId) : p.set t (p.get t) = p := by
  cases t <;> rfl

@[simp] theorem PerSlot.get_set_self {α : Type} (p : PerSlot α) (x : ReportSlot) (v : α) : (p.set x v).get x = v := by
  cases x <;> rfl

theorem PerSlot.get_set {α : Type} (p : PerSlot α) (x y : ReportSlot) (v : α) :
    (p.set x v).get y = if y = x then v else p.get y := by
  cases x <;> cases y <;> rfl

/-! ### Changes of a tree -/

@[simp] theorem Part.tree_modTree_self (p : Part) (t : TreeId) (f : Tree → Tree) :
    (p.modTree t f).tree t = f (p.tree t) := by
  simp [Part.modTree, Part.tree]

theorem Part.tree_modTree (p : Part) (t u : TreeId) (f : Tree → Tree) :
    (p.modTree t f).tree u = if u = t then f (p.tree t) else p.tree u := by
  simp [Part.modTree, Part.tree, PerTree.get_set]

theorem Part.tree_modTree_ne (p : Part) {t u : TreeId} (h : u ≠ t) (f : Tree → Tree) :
    (p.modTree t f).tree u = p.tree u := by
  rw [Part.tree_modTree, if_neg h]

@[simp] theorem Part.modTree_straps (p : Part) (t : TreeId) (f : Tree → Tree) : (p.modTree t f).straps = p.straps := rfl
@[simp] theorem Part.modTree_records (p : Part) (t : TreeId) (f : Tree → Tree) :
    (p.modTree t f).records = p.records := rfl
@[simp] theorem Part.modTree_admission (p : Part) (t : TreeId) (f : Tree → Tree) :
    (p.modTree t f).admission = p.admission := rfl
@[simp] theorem Part.modTree_unclaimedTags (p : Part) (t : TreeId) (f : Tree → Tree) :
    (p.modTree t f).unclaimedTags = p.unclaimedTags := rfl
@[simp] theorem Part.modTree_slots (p : Part) (t : TreeId) (f : Tree → Tree) : (p.modTree t f).slots = p.slots := rfl
@[simp] theorem Part.modTree_reportTable (p : Part) (t : TreeId) (f : Tree → Tree) :
    (p.modTree t f).reportTable = p.reportTable := rfl
@[simp] theorem Part.modTree_master (p : Part) (t : TreeId) (f : Tree → Tree) : (p.modTree t f).master = p.master := rfl
@[simp] theorem Part.modTree_save (p : Part) (t : TreeId) (f : Tree → Tree) : (p.modTree t f).save = p.save := rfl
@[simp] theorem Part.modTree_savesBegun (p : Part) (t : TreeId) (f : Tree → Tree) :
    (p.modTree t f).savesBegun = p.savesBegun := rfl
@[simp] theorem Part.modTree_loader (p : Part) (t : TreeId) (f : Tree → Tree) : (p.modTree t f).loader = p.loader := rfl
@[simp] theorem Part.modTree_raised (p : Part) (t : TreeId) (f : Tree → Tree) : (p.modTree t f).raised = p.raised := rfl

@[simp] theorem Part.engine_modEngine_self (p : Part) (t : TreeId) (f : Engine → Engine) :
    (p.modEngine t f).engine t = f (p.engine t) := by
  simp [Part.modEngine, Part.engine]

/-- Two changes of one tree are one. -/
@[simp] theorem Part.modTree_modTree (p : Part) (t : TreeId) (f g : Tree → Tree) :
    (p.modTree t f).modTree t g = p.modTree t fun T => g (f T) := by
  cases t <;> rfl

/-- A change that keeps the tree changes nothing. -/
theorem Part.modTree_of_keeps (p : Part) (t : TreeId) (f : Tree → Tree) (h : f (p.tree t) = p.tree t) :
    p.modTree t f = p := by
  cases p
  simp only [Part.modTree, Part.tree] at *
  rw [h, PerTree.set_get]

/-- Two changes of a tree that agree on it are equal. -/
theorem Part.modTree_congr (p : Part) (t : TreeId) {f g : Tree → Tree} (h : f (p.tree t) = g (p.tree t)) :
    p.modTree t f = p.modTree t g := by
  simp only [Part.modTree, Part.tree] at *
  rw [h]

/-! ### Notices -/

@[simp] theorem Part.raise_straps (p : Part) (n : Notice) : (p.raise n).straps = p.straps := rfl
@[simp] theorem Part.raise_trees (p : Part) (n : Notice) : (p.raise n).trees = p.trees := rfl
@[simp] theorem Part.raise_tree (p : Part) (n : Notice) (t : TreeId) : (p.raise n).tree t = p.tree t := rfl
@[simp] theorem Part.raise_records (p : Part) (n : Notice) : (p.raise n).records = p.records := rfl
@[simp] theorem Part.raise_admission (p : Part) (n : Notice) : (p.raise n).admission = p.admission := rfl
@[simp] theorem Part.raise_unclaimedTags (p : Part) (n : Notice) : (p.raise n).unclaimedTags = p.unclaimedTags := rfl
@[simp] theorem Part.raise_slots (p : Part) (n : Notice) : (p.raise n).slots = p.slots := rfl
@[simp] theorem Part.raise_reportTable (p : Part) (n : Notice) : (p.raise n).reportTable = p.reportTable := rfl
@[simp] theorem Part.raise_master (p : Part) (n : Notice) : (p.raise n).master = p.master := rfl
@[simp] theorem Part.raise_save (p : Part) (n : Notice) : (p.raise n).save = p.save := rfl
@[simp] theorem Part.raise_savesBegun (p : Part) (n : Notice) : (p.raise n).savesBegun = p.savesBegun := rfl
@[simp] theorem Part.raise_loader (p : Part) (n : Notice) : (p.raise n).loader = p.loader := rfl
@[simp] theorem Part.raise_raised (p : Part) (n : Notice) : (p.raise n).raised = p.raised ++ [n] := rfl

/-! ### Changes of a record -/

@[simp] theorem Part.modRecord_trees (p : Part) (t : TreeId) (h : Nat) (f : Record → Record) :
    (p.modRecord t h f).trees = p.trees := rfl
@[simp] theorem Part.modRecord_tree (p : Part) (t u : TreeId) (h : Nat) (f : Record → Record) :
    (p.modRecord t h f).tree u = p.tree u := rfl
@[simp] theorem Part.modRecord_slots (p : Part) (t : TreeId) (h : Nat) (f : Record → Record) :
    (p.modRecord t h f).slots = p.slots := rfl
@[simp] theorem Part.modRecord_admission (p : Part) (t : TreeId) (h : Nat) (f : Record → Record) :
    (p.modRecord t h f).admission = p.admission := rfl
@[simp] theorem Part.modRecord_raised (p : Part) (t : TreeId) (h : Nat) (f : Record → Record) :
    (p.modRecord t h f).raised = p.raised := rfl
@[simp] theorem Part.modRecord_reportTable (p : Part) (t : TreeId) (h : Nat) (f : Record → Record) :
    (p.modRecord t h f).reportTable = p.reportTable := rfl

/-- A change that keeps the name of a record changes the record found. -/
theorem Part.record?_modRecord (p : Part) (t : TreeId) (h : Nat) (f : Record → Record)
    (hf : ∀ r, (f r).tree = r.tree ∧ (f r).handle = r.handle) :
    (p.modRecord t h f).record? t h = (p.record? t h).map f := by
  simp only [Part.record?, Part.modRecord]
  induction p.records with
  | nil => rfl
  | cons r rest ih =>
    by_cases hr : r.named t h = true
    · have : (f r).named t h = true := by simp [Record.named, (hf r).1, (hf r).2] at hr ⊢; exact hr
      simp [hr, this]
    · simp [hr, ih]

/-! ### The state -/

@[simp] theorem State.settle_clock (s : State) : s.settle.clock = s.clock := rfl
@[simp] theorem State.settle_pending (s : State) : s.settle.pending = s.pending := rfl
@[simp] theorem State.settle_raised (s : State) : s.settle.part.raised = [] := rfl
@[simp] theorem State.settle_trees (s : State) : s.settle.part.trees = s.part.trees := rfl
@[simp] theorem State.settle_tree (s : State) (t : TreeId) : s.settle.part.tree t = s.part.tree t := rfl
@[simp] theorem State.settle_records (s : State) : s.settle.part.records = s.part.records := rfl
@[simp] theorem State.settle_admission (s : State) : s.settle.part.admission = s.part.admission := rfl
@[simp] theorem State.settle_unclaimedTags (s : State) : s.settle.part.unclaimedTags = s.part.unclaimedTags := rfl
@[simp] theorem State.settle_slots (s : State) : s.settle.part.slots = s.part.slots := rfl
@[simp] theorem State.settle_reportTable (s : State) : s.settle.part.reportTable = s.part.reportTable := rfl
@[simp] theorem State.settle_link (s : State) : s.settle.link = s.link.afterEvent s.part.raised := rfl
@[simp] theorem State.withPart_clock (s : State) (p : Part) : (s.withPart p).clock = s.clock := rfl
@[simp] theorem State.withPart_pending (s : State) (p : Part) : (s.withPart p).pending = s.pending := rfl
@[simp] theorem State.withPart_link (s : State) (p : Part) : (s.withPart p).link = s.link.afterEvent p.raised := rfl
@[simp] theorem State.withPart_part (s : State) (p : Part) : (s.withPart p).part = { p with raised := [] } := rfl

/-- A part whose notices are taken: the event's notices are those that the part raised. -/
theorem State.withPart_eq (s : State) (p : Part) : s.withPart p = s.afterEvent { p with raised := [] } p.raised := rfl

/-- With no cycle start open a command finds the state as it stands. -/
theorem State.ready_of_closed {s : State} (h : s.clock.stage = .closed) : s.ready = s := by simp [State.ready, h]

/-- With no cycle start open, time passes to any position of the cycle that does not lie behind. -/
theorem State.passTo_of_closed {s : State} {pos : Nat} (h : s.clock.stage = .closed) (h1 : s.clock.pos ≤ pos)
    (h2 : pos < Config.cycleSteps) : s.passTo pos = some { s with clock := { s.clock with pos := pos } } := by
  simp [State.passTo, State.ready_of_closed h, h1, h2]

/-- With no cycle start open an event is taken at its position. -/
theorem State.eventAt_of_closed {s : State} {pos : Nat} (f : State → Option State) (h : s.clock.stage = .closed)
    (h1 : s.clock.pos ≤ pos) (h2 : pos < Config.cycleSteps) :
    s.eventAt pos f = (f (s.atPos pos)).getD s := by
  simp [State.eventAt, State.passTo_of_closed h h1 h2, State.atPos]

/-- A cycle start that is open is the one a piece of it is taken at. -/
theorem State.atStart_of_open {s : State} (h : s.clock.stage ≠ .closed) : s.atStart = s := by simp [State.atStart, h]

/-- A request that is taken has its effect and its reply. -/
theorem State.request_of_taking {s : State} (h : s.Taking) (kind : Byte) (fits : Bool) (act : Clock → Part → Answer) :
    s.request kind fits act = s.consumed.serve kind fits act := by
  obtain ⟨h1, h2, h3, h4, h5, _⟩ := h
  have hv : s.consumed.link.verdict s.consumed.part.loader.isSome = .take := by
    simp [Link.verdict, State.consumed, h3, h4, h5, Nat.not_le.mpr h2]
  simp only [State.request, State.ready_of_closed h1, hv]

end Sys2Proof.Machine
end

