-- ==== Sys2Proof/Laws/Names.lean ====
section
/-!
SUPPORT. Laws/Names.lean: which records there are and which admission entries are bound (`names`): no block operation
changes either, but for those that make or free a record.
-/

namespace Sys2Proof.Machine

/-- Which records there are (tree, handle, tag), and which tags are admitted, with their bound marks. -/
def Part.names (p : Part) : List (TreeId × Nat × Tag) × List (Tag × Bool) :=
  (p.records.map fun r => (r.tree, r.handle, r.tag), p.admission.map fun e => (e.tag, e.bound))

/-! ### The primitive changes -/

@[simp] theorem Part.modTree_names (p : Part) (t : TreeId) (f : Tree → Tree) : (p.modTree t f).names = p.names := rfl
@[simp] theorem Part.modEngine_names (p : Part) (t : TreeId) (f : Engine → Engine) :
    (p.modEngine t f).names = p.names := rfl
@[simp] theorem Part.modGuard_names (p : Part) (t : TreeId) (f : Guard → Guard) :
    (p.modGuard t f).names = p.names := rfl
@[simp] theorem Part.modCounters_names (p : Part) (t : TreeId) (f : Counters → Counters) :
    (p.modCounters t f).names = p.names := rfl
@[simp] theorem Part.modExpectations_names (p : Part) (t : TreeId) (f : List Expectation → List Expectation) :
    (p.modExpectations t f).names = p.names := rfl
@[simp] theorem Part.raise_names (p : Part) (n : Notice) : (p.raise n).names = p.names := rfl
@[simp] theorem Part.raiseTerminal_names (p : Part) (r : Record) (old new : RecState) (c : Cause) :
    (p.raiseTerminal r old new c).names = p.names := rfl

/-- A change of records that keeps each one's name. -/
theorem Part.mapRecords_names (p : Part) (f : Record → Record) (h1 : ∀ r, (f r).tree = r.tree)
    (h2 : ∀ r, (f r).handle = r.handle) (h3 : ∀ r, (f r).tag = r.tag) :
    ({ p with records := p.records.map f } : Part).names = p.names := by
  simp only [Part.names, List.map_map]
  congr 1
  exact List.map_congr_left fun r _ => by simp [h1, h2, h3]

theorem Part.modRecord_names (p : Part) (t : TreeId) (h : Nat) (f : Record → Record) (h1 : ∀ r, (f r).tree = r.tree)
    (h2 : ∀ r, (f r).handle = r.handle) (h3 : ∀ r, (f r).tag = r.tag) : (p.modRecord t h f).names = p.names :=
  Part.mapRecords_names _ _ (fun r => by split <;> simp [h1]) (fun r => by split <;> simp [h2])
    (fun r => by split <;> simp [h3])

/-- A change of an admission entry that keeps its tag and bound mark. -/
theorem Part.modEntry_names (p : Part) (g : Tag) (f : AdmitEntry → AdmitEntry) (h1 : ∀ e, (f e).tag = e.tag)
    (h2 : ∀ e, (f e).bound = e.bound) : (p.modEntry g f).names = p.names := by
  simp only [Part.names, Part.modEntry, List.map_map]
  congr 1
  refine List.map_congr_left fun e _ => ?_
  simp only [Function.comp]
  split <;> simp [h1, h2]

/-- A fold of changes that keep `names` keeps it. -/
theorem Part.foldl_names {α : Type} (f : Part → α → Part) (hf : ∀ p a, (f p a).names = p.names) (l : List α)
    (p : Part) : (l.foldl f p).names = p.names := by
  induction l generalizing p with
  | nil => rfl
  | cons a l ih => rw [List.foldl_cons, ih, hf]

/-! ### Changes of one record -/

@[simp] theorem Record.startUpkeep_tree (r : Record) : (r.startUpkeep).tree = r.tree := rfl

@[simp] theorem Record.startUpkeep_handle (r : Record) : (r.startUpkeep).handle = r.handle := rfl

@[simp] theorem Record.startUpkeep_tag (r : Record) : (r.startUpkeep).tag = r.tag := rfl

@[simp] theorem Record.attentionRise_tree (r : Record) (table : PerSlot TableSlot) (c : CycleNo) : (r.attentionRise table c).tree = r.tree := rfl

@[simp] theorem Record.attentionRise_handle (r : Record) (table : PerSlot TableSlot) (c : CycleNo) : (r.attentionRise table c).handle = r.handle := rfl

@[simp] theorem Record.attentionRise_tag (r : Record) (table : PerSlot TableSlot) (c : CycleNo) : (r.attentionRise table c).tag = r.tag := rfl

@[simp] theorem Record.pollGranted_tree (r : Record) (x : ReportSlot) (n : Tenth) : (r.pollGranted x n).tree = r.tree := rfl

@[simp] theorem Record.pollGranted_handle (r : Record) (x : ReportSlot) (n : Tenth) : (r.pollGranted x n).handle = r.handle := rfl

@[simp] theorem Record.pollGranted_tag (r : Record) (x : ReportSlot) (n : Tenth) : (r.pollGranted x n).tag = r.tag := rfl

@[simp] theorem Record.pollOutcome_tree (r : Record) (table : PerSlot TableSlot) (c : CycleNo) (x : ReportSlot) (polled : Byte) (o : PollOutcome) : (r.pollOutcome table c x polled o).tree = r.tree := by
  simp only [Record.pollOutcome]
  (repeat' split) <;> simp

@[simp] theorem Record.pollOutcome_handle (r : Record) (table : PerSlot TableSlot) (c : CycleNo) (x : ReportSlot) (polled : Byte) (o : PollOutcome) : (r.pollOutcome table c x polled o).handle = r.handle := by
  simp only [Record.pollOutcome]
  (repeat' split) <;> simp

@[simp] theorem Record.pollOutcome_tag (r : Record) (table : PerSlot TableSlot) (c : CycleNo) (x : ReportSlot) (polled : Byte) (o : PollOutcome) : (r.pollOutcome table c x polled o).tag = r.tag := by
  simp only [Record.pollOutcome]
  (repeat' split) <;> simp

@[simp] theorem Record.ageReports_tree (r : Record) (table : PerSlot TableSlot) : (r.ageReports table).tree = r.tree := by
  simp only [Record.ageReports]
  (repeat' split) <;> simp

@[simp] theorem Record.ageReports_handle (r : Record) (table : PerSlot TableSlot) : (r.ageReports table).handle = r.handle := by
  simp only [Record.ageReports]
  (repeat' split) <;> simp

@[simp] theorem Record.ageReports_tag (r : Record) (table : PerSlot TableSlot) : (r.ageReports table).tag = r.tag := by
  simp only [Record.ageReports]
  (repeat' split) <;> simp

@[simp] theorem Record.pollDueTest_tree (r : Record) (table : PerSlot TableSlot) (k : Clock) (x : ReportSlot) : (r.pollDueTest table k x).tree = r.tree := by
  simp only [Record.pollDueTest]
  (repeat' split) <;> simp

@[simp] theorem Record.pollDueTest_handle (r : Record) (table : PerSlot TableSlot) (k : Clock) (x : ReportSlot) : (r.pollDueTest table k x).handle = r.handle := by
  simp only [Record.pollDueTest]
  (repeat' split) <;> simp

@[simp] theorem Record.pollDueTest_tag (r : Record) (table : PerSlot TableSlot) (k : Clock) (x : ReportSlot) : (r.pollDueTest table k x).tag = r.tag := by
  simp only [Record.pollDueTest]
  (repeat' split) <;> simp

@[simp] theorem Record.slotRekinded_tree (r : Record) (x : ReportSlot) (on : Bool) (c : CycleNo) : (r.slotRekinded x on c).tree = r.tree := rfl

@[simp] theorem Record.slotRekinded_handle (r : Record) (x : ReportSlot) (on : Bool) (c : CycleNo) : (r.slotRekinded x on c).handle = r.handle := rfl

@[simp] theorem Record.slotRekinded_tag (r : Record) (x : ReportSlot) (on : Bool) (c : CycleNo) : (r.slotRekinded x on c).tag = r.tag := rfl

@[simp] theorem Record.checkJudged_tree (r : Record) : (r.checkJudged).tree = r.tree := by
  simp only [Record.checkJudged]
  (repeat' split) <;> simp

@[simp] theorem Record.checkJudged_handle (r : Record) : (r.checkJudged).handle = r.handle := by
  simp only [Record.checkJudged]
  (repeat' split) <;> simp

@[simp] theorem Record.checkJudged_tag (r : Record) : (r.checkJudged).tag = r.tag := by
  simp only [Record.checkJudged]
  (repeat' split) <;> simp

@[simp] theorem Record.upkeepTest_tree (r : Record) (c : CycleNo) : (r.upkeepTest c).tree = r.tree := by
  simp only [Record.upkeepTest]
  (repeat' split) <;> simp

@[simp] theorem Record.upkeepTest_handle (r : Record) (c : CycleNo) : (r.upkeepTest c).handle = r.handle := by
  simp only [Record.upkeepTest]
  (repeat' split) <;> simp

@[simp] theorem Record.upkeepTest_tag (r : Record) (c : CycleNo) : (r.upkeepTest c).tag = r.tag := by
  simp only [Record.upkeepTest]
  (repeat' split) <;> simp

@[simp] theorem Record.granted_tree (r : Record) (k : Clock) (x : Candidate) : (r.granted k x).tree = r.tree := by
  simp only [Record.granted]
  (repeat' split) <;> simp

@[simp] theorem Record.granted_handle (r : Record) (k : Clock) (x : Candidate) : (r.granted k x).handle = r.handle := by
  simp only [Record.granted]
  (repeat' split) <;> simp

@[simp] theorem Record.granted_tag (r : Record) (k : Clock) (x : Candidate) : (r.granted k x).tag = r.tag := by
  simp only [Record.granted]
  (repeat' split) <;> simp

@[simp] theorem Record.lagSent_tree (r : Record) (c : CycleNo) : (r.lagSent c).tree = r.tree := rfl

@[simp] theorem Record.lagSent_handle (r : Record) (c : CycleNo) : (r.lagSent c).handle = r.handle := rfl

@[simp] theorem Record.lagSent_tag (r : Record) (c : CycleNo) : (r.lagSent c).tag = r.tag := rfl

@[simp] theorem Part.checkEligible_tree (p : Part) (t : TreeId) (c : CycleNo) (r : Record) :
    (p.checkEligible t c r).tree = r.tree := by
  simp only [Part.checkEligible]
  (repeat' split) <;> rfl

@[simp] theorem Part.checkEligible_handle (p : Part) (t : TreeId) (c : CycleNo) (r : Record) :
    (p.checkEligible t c r).handle = r.handle := by
  simp only [Part.checkEligible]
  (repeat' split) <;> rfl

@[simp] theorem Part.checkEligible_tag (p : Part) (t : TreeId) (c : CycleNo) (r : Record) :
    (p.checkEligible t c r).tag = r.tag := by
  simp only [Part.checkEligible]
  (repeat' split) <;> rfl

/-! ### The blocks -/

@[simp] theorem Part.markUnsent_names (p : Part) (t : TreeId) (o : Order) (v : Bool) :
    (p.markUnsent t o v).names = p.names := by
  simp only [Part.markUnsent]
  split
  · refine Part.mapRecords_names p _ (fun r => by split <;> rfl) (fun r => by split <;> rfl) (fun r => by split <;> rfl)
  · rfl

@[simp] theorem Part.offer_names (p : Part) (t : TreeId) (o : Order) :
    (p.offer t o).names = p.names := by
  simp only [Part.offer]
  (repeat' split) <;> first | rfl | simp

@[simp] theorem Part.withdraw_names (p : Part) (t : TreeId) (f : Order → Bool) :
    (p.withdraw t f).names = p.names := by
  simp only [Part.withdraw]
  rw [Part.foldl_names _ fun p o => Part.markUnsent_names p t o false]
  rfl

@[simp] theorem Part.reofferList_names (p : Part) (t : TreeId) (x0 : List Order) :
    (p.reofferList t x0).names = p.names := by
  induction x0 generalizing p with
  | nil => simp [Part.reofferList]
  | cons o rest ih =>
    simp only [Part.reofferList]
    split <;> simp [ih]

@[simp] theorem Part.reoffer_names (p : Part) (t : TreeId) :
    (p.reoffer t).names = p.names := by
  simp only [Part.reoffer]
  (repeat' split) <;> first | rfl | simp

@[simp] theorem Part.orphan_names (p : Part) (t : TreeId) (h : Nat) :
    (p.orphan t h).names = p.names := by
  simp only [Part.orphan]
  (repeat' split) <;> first | rfl | simp [Part.modRecord_names, Part.modEntry_names]

@[simp] theorem Part.orphanLoadStatus_names (p : Part) (t : TreeId) (h : Nat) :
    (p.orphanLoadStatus t h).names = p.names := by
  simp only [Part.orphanLoadStatus]
  (repeat' split) <;> first | rfl | simp [Part.modRecord_names, Part.modEntry_names]

@[simp] theorem Part.noLongerWaiting_names (p : Part) (x0 : Requester) :
    (p.noLongerWaiting x0).names = p.names := by
  cases x0 <;> rfl

@[simp] theorem Part.serveBus_names (p : Part) :
    (p.serveBus).names = p.names := by
  simp only [Part.serveBus]
  (repeat' split) <;> first | rfl | exact Part.noLongerWaiting_names p _

@[simp] theorem Part.endTransfer_names (p : Part) :
    (p.endTransfer).names = p.names := by
  simp only [Part.endTransfer]
  (repeat' split) <;> first | rfl | simp [Part.modRecord_names, Part.modEntry_names]

@[simp] theorem Part.requestFetch_names (p : Part) (t : TreeId) (kind : TransferKind) (address length : Nat) :
    (p.requestFetch t kind address length).names = p.names := by
  simp only [Part.requestFetch]
  (repeat' split) <;> first | rfl | simp

@[simp] theorem Part.dropFetch_names (p : Part) (t : TreeId) :
    (p.dropFetch t).names = p.names := by
  simp only [Part.dropFetch]
  (repeat' split) <;> first | rfl | simp [Part.modRecord_names, Part.modEntry_names]

@[simp] theorem Part.setSlot_names (p : Part) (n : Nat) (v : ProfileSlot) :
    (p.setSlot n v).names = p.names := by
  simp only [Part.setSlot]
  (repeat' split) <;> first | rfl | simp [Part.modRecord_names, Part.modEntry_names]

@[simp] theorem Part.pauseUpdate_names (p : Part) (k : Clock) (t : TreeId) :
    (p.pauseUpdate k t).names = p.names := by
  simp only [Part.pauseUpdate]
  (repeat' split) <;> first | rfl | simp [Part.modRecord_names, Part.modEntry_names]

@[simp] theorem Part.refill_names (p : Part) (k : Clock) (t : TreeId) :
    (p.refill k t).names = p.names := by
  simp only [Part.refill]
  (repeat' split) <;> first | rfl | simp

@[simp] theorem Part.raiseAsk_names (p : Part) (k : Clock) (t : TreeId) :
    (p.raiseAsk k t).names = p.names := by
  simp only [Part.raiseAsk]
  (repeat' split) <;> first | rfl | simp [Part.modRecord_names, Part.modEntry_names]

@[simp] theorem Part.streamAsk_names (p : Part) (k : Clock) (t : TreeId) :
    (p.streamAsk k t).names = p.names := by
  simp only [Part.streamAsk]
  (repeat' split) <;> first | rfl | simp

@[simp] theorem Part.settleAsk_names (p : Part) (k : Clock) (t : TreeId) :
    (p.settleAsk k t).names = p.names := by
  simp only [Part.settleAsk]
  (repeat' split) <;> first | rfl | simp

@[simp] theorem Part.holdRecord_names (p : Part) (t : TreeId) (h : Nat) (cause : Cause) :
    (p.holdRecord t h cause).names = p.names := by
  simp only [Part.holdRecord]
  (repeat' split) <;> first | rfl | simp [Part.modRecord_names]

@[simp] theorem Part.enterInService_names (p : Part) (k : Clock) (t : TreeId) (h : Nat) (cause : Cause) :
    (p.enterInService k t h cause).names = p.names := by
  simp only [Part.enterInService]
  (repeat' split) <;> first | rfl | simp [Part.modRecord_names]

@[simp] theorem Part.startPreparing_names (p : Part) (k : Clock) (t : TreeId) (h : Nat) (source : Source) (length : Nat) :
    (p.startPreparing k t h source length).names = p.names := by
  simp only [Part.startPreparing]
  (repeat' split) <;> first | rfl | simp [Part.modRecord_names]

@[simp] theorem Part.unavailable_names (p : Part) (k : Clock) (t : TreeId) (h : Nat) :
    (p.unavailable k t h).1.names = p.names := by
  simp only [Part.unavailable]
  (repeat' split) <;> first | rfl | simp

@[simp] theorem Part.resolve_names (p : Part) (k : Clock) (t : TreeId) (r : Record) (l : Load) :
    (p.resolve k t r l).1.names = p.names := by
  simp only [Part.resolve]
  (repeat' split) <;> first | rfl | simp

@[simp] theorem Part.takeOne_names (p : Part) (k : Clock) (t : TreeId) :
    (p.takeOne k t).1.names = p.names := by
  simp only [Part.takeOne]
  (repeat' split) <;> first | rfl | simp

@[simp] theorem Part.takeUpTo_names (p : Part) (k : Clock) (t : TreeId) (x0 : Nat) :
    (p.takeUpTo k t x0).names = p.names := by
  induction x0 generalizing p with
  | zero => rfl
  | succ n ih =>
    simp only [Part.takeUpTo]
    split <;> simp [ih]

@[simp] theorem Part.takeTest_names (p : Part) (k : Clock) (t : TreeId) :
    (p.takeTest k t).names = p.names := by
  simp only [Part.takeTest]
  (repeat' split) <;> first | rfl | simp

@[simp] theorem Part.clearPush_names (p : Part) (t : TreeId) (h : Nat) :
    (p.clearPush t h).names = p.names := by
  simp only [Part.clearPush]
  (repeat' split) <;> first | rfl | simp

@[simp] theorem Part.failAttempt_names (p : Part) (k : Clock) (t : TreeId) (reason : FailReason) (code : Nat) (byTimer : Bool) :
    (p.failAttempt k t reason code byTimer).names = p.names := by
  simp only [Part.failAttempt]
  (repeat' split) <;> first | rfl | simp [Part.modRecord_names]

@[simp] theorem Part.abortPush_names (p : Part) (k : Clock) (t : TreeId) (h : Nat) :
    (p.abortPush k t h).names = p.names := by
  simp only [Part.abortPush]
  (repeat' split) <;> first | rfl | simp

@[simp] theorem Part.leavePush_names (p : Part) (k : Clock) (t : TreeId) (h : Nat) :
    (p.leavePush k t h).names = p.names := by
  simp only [Part.leavePush]
  (repeat' split) <;> first | rfl | simp

@[simp] theorem Part.joinQueue_names (p : Part) (k : Clock) (t : TreeId) (h : Nat) :
    (p.joinQueue k t h).names = p.names := by
  simp only [Part.joinQueue]
  (repeat' split) <;> first | rfl | simp

@[simp] theorem Part.enterStreaming_names (p : Part) (k : Clock) (t : TreeId) :
    (p.enterStreaming k t).names = p.names := by
  simp only [Part.enterStreaming]
  (repeat' split) <;> first | rfl | simp [Part.modRecord_names]

@[simp] theorem Part.enterSettling_names (p : Part) (k : Clock) (t : TreeId) :
    (p.enterSettling k t).names = p.names := by
  simp only [Part.enterSettling]
  (repeat' split) <;> first | rfl | simp [Part.modRecord_names]

@[simp] theorem Part.enterCommitting_names (p : Part) (t : TreeId) :
    (p.enterCommitting t).names = p.names := by
  simp only [Part.enterCommitting]
  (repeat' split) <;> first | rfl | simp [Part.modRecord_names]

@[simp] theorem Part.pushDone_names (p : Part) (k : Clock) (t : TreeId) (h : Nat) :
    (p.pushDone k t h).names = p.names := by
  simp only [Part.pushDone]
  (repeat' split) <;> first | rfl | simp

@[simp] theorem Part.preparingOutcome_names (p : Part) (k : Clock) (t : TreeId) (x0 : StatusOutcome) :
    (p.preparingOutcome k t x0).names = p.names := by
  simp only [Part.preparingOutcome]
  (repeat' split) <;> first | rfl | simp

@[simp] theorem Part.acknowledge_names (p : Part) (k : Clock) (t : TreeId) (n sentMark : Nat) :
    (p.acknowledge k t n sentMark).names = p.names := by
  simp only [Part.acknowledge]
  (repeat' split) <;> first | rfl | simp

@[simp] theorem Part.streamingOutcome_names (p : Part) (k : Clock) (t : TreeId) (x0 : StatusOutcome) :
    (p.streamingOutcome k t x0).names = p.names := by
  simp only [Part.streamingOutcome]
  (repeat' split) <;> first | rfl | simp

@[simp] theorem Part.committingOutcome_names (p : Part) (k : Clock) (t : TreeId) (h : Nat) (x0 : StatusOutcome) :
    (p.committingOutcome k t h x0).names = p.names := by
  simp only [Part.committingOutcome]
  (repeat' split) <;> first | rfl | simp

@[simp] theorem Part.pushOutcome_names (p : Part) (k : Clock) (t : TreeId) (h : Nat) (o : StatusOutcome) :
    (p.pushOutcome k t h o).names = p.names := by
  simp only [Part.pushOutcome]
  (repeat' split) <;> first | rfl | simp

@[simp] theorem Part.prepareSent_names (p : Part) (k : Clock) (t : TreeId) (h : Nat) :
    (p.prepareSent k t h).names = p.names := by
  simp only [Part.prepareSent]
  (repeat' split) <;> first | rfl | simp

@[simp] theorem Part.commitSent_names (p : Part) (k : Clock) (t : TreeId) (h : Nat) :
    (p.commitSent k t h).names = p.names := by
  simp only [Part.commitSent]
  (repeat' split) <;> first | rfl | simp

@[simp] theorem Part.cellSupplied_names (p : Part) (k : Clock) (t : TreeId) :
    (p.cellSupplied k t).names = p.names := by
  simp only [Part.cellSupplied]
  (repeat' split) <;> first | rfl | simp

@[simp] theorem Part.directoryRead_names (p : Part) (k : Clock) (t : TreeId) (bs : List Byte) :
    (p.directoryRead k t bs).names = p.names := by
  simp only [Part.directoryRead]
  (repeat' split) <;> first | rfl | simp

@[simp] theorem Part.dataRead_names (p : Part) (k : Clock) (t : TreeId) (bs : List Byte) :
    (p.dataRead k t bs).names = p.names := by
  simp only [Part.dataRead]
  (repeat' split) <;> first | rfl | simp

@[simp] theorem Part.arise_names (p : Part) (k : Clock) (t : TreeId) (f : Factor) (measure : Nat) :
    (p.arise k t f measure).names = p.names := by
  simp only [Part.arise]
  (repeat' split) <;> first | rfl | simp [Part.modRecord_names, Part.modEntry_names]

@[simp] theorem Part.startResume_names (p : Part) (k : Clock) (t : TreeId) :
    (p.startResume k t).names = p.names := by
  simp only [Part.startResume]
  (repeat' split) <;> first | rfl | simp [Part.modRecord_names, Part.modEntry_names]

@[simp] theorem Part.endFactor_names (p : Part) (k : Clock) (t : TreeId) (f : Factor) :
    (p.endFactor k t f).names = p.names := by
  simp only [Part.endFactor]
  (repeat' split) <;> first | rfl | simp

@[simp] theorem Part.strayEvent_names (p : Part) (k : Clock) (t : TreeId) :
    (p.strayEvent k t).names = p.names := by
  simp only [Part.strayEvent]
  (repeat' split) <;> first | rfl | simp

@[simp] theorem Part.spanEnds_names (p : Part) (k : Clock) (t : TreeId) :
    (p.spanEnds k t).names = p.names := by
  simp only [Part.spanEnds]
  (repeat' split) <;> first | rfl | simp

@[simp] theorem Part.darkTest_names (p : Part) (k : Clock) (t : TreeId) :
    (p.darkTest k t).names = p.names := by
  simp only [Part.darkTest]
  (repeat' split) <;> first | rfl | simp

@[simp] theorem Part.onsetEndsDark_names (p : Part) (k : Clock) (t : TreeId) :
    (p.onsetEndsDark k t).names = p.names := by
  simp only [Part.onsetEndsDark]
  (repeat' split) <;> first | rfl | simp

@[simp] theorem Part.stormTest_names (p : Part) (k : Clock) (t : TreeId) (c : Nat) :
    (p.stormTest k t c).names = p.names := by
  simp only [Part.stormTest]
  (repeat' split) <;> first | rfl | simp

@[simp] theorem Part.leaveHush_names (p : Part) (k : Clock) (t : TreeId) :
    (p.leaveHush k t).names = p.names := by
  simp only [Part.leaveHush]
  (repeat' split) <;> first | rfl | simp [Part.modRecord_names, Part.modEntry_names]

@[simp] theorem Part.guardMaskStored_names (p : Part) (k : Clock) (t : TreeId) :
    (p.guardMaskStored k t).names = p.names := by
  simp only [Part.guardMaskStored]
  (repeat' split) <;> first | rfl | simp

@[simp] theorem Part.enterHeard_names (p : Part) (k : Clock) (t : TreeId) (h : Nat) (cause : Cause) :
    (p.enterHeard k t h cause).names = p.names := by
  simp only [Part.enterHeard]
  (repeat' split) <;> first | rfl | simp [Part.modRecord_names]

@[simp] theorem Part.enterAligning_names (p : Part) (t : TreeId) (h : Nat) :
    (p.enterAligning t h).names = p.names := by
  simp only [Part.enterAligning]
  (repeat' split) <;> first | rfl | simp [Part.modRecord_names]

@[simp] theorem Part.enterLoading_names (p : Part) (k : Clock) (t : TreeId) (h profile : Nat) (cause : Cause) :
    (p.enterLoading k t h profile cause).names = p.names := by
  simp only [Part.enterLoading]
  (repeat' split) <;> first | rfl | simp [Part.modRecord_names]

@[simp] theorem Part.confirm_names (p : Part) (k : Clock) (t : TreeId) (h : Nat) :
    (p.confirm k t h).names = p.names := by
  simp only [Part.confirm]
  (repeat' split) <;> first | rfl | simp

@[simp] theorem Part.enterRefind_names (p : Part) (k : Clock) (t : TreeId) (h : Nat) (cause : Cause) :
    (p.enterRefind k t h cause).names = p.names := by
  simp only [Part.enterRefind]
  (repeat' split) <;> first | rfl | simp [Part.modRecord_names]

@[simp] theorem Part.enterHeld_names (p : Part) (k : Clock) (t : TreeId) (h : Nat) (cause : Cause) :
    (p.enterHeld k t h cause).names = p.names := by
  simp only [Part.enterHeld]
  (repeat' split) <;> first | rfl | simp

@[simp] theorem Part.hearUnclaimed_names (p : Part) (k : Clock) (t : TreeId) (m : Measured) :
    (p.hearUnclaimed k t m).names = p.names := by
  simp only [Part.hearUnclaimed]
  (repeat' split) <;> first | rfl | simp [Part.modRecord_names, Part.modEntry_names]

@[simp] theorem Part.hearIgnored_names (p : Part) (g : Tag) :
    (p.hearIgnored g).names = p.names := by
  simp only [Part.hearIgnored]
  (repeat' split) <;> first | rfl | simp [Part.modRecord_names]

@[simp] theorem Part.hearWrongTree_names (p : Part) (k : Clock) (t : TreeId) (m : Measured) (e : AdmitEntry) :
    (p.hearWrongTree k t m e).names = p.names := by
  simp only [Part.hearWrongTree]
  (repeat' split) <;> first | rfl | simp [Part.modEntry_names]

@[simp] theorem Part.holdDuplicate_names (p : Part) (k : Clock) (r : Record) :
    (p.holdDuplicate k r).names = p.names := by
  simp only [Part.holdDuplicate]
  (repeat' split) <;> first | rfl | simp [Part.modEntry_names]

@[simp] theorem Part.hearDuplicate_names (p : Part) (k : Clock) (t : TreeId) (r : Record) :
    (p.hearDuplicate k t r).names = p.names := by
  simp only [Part.hearDuplicate]
  (repeat' split) <;> first | rfl | simp

@[simp] theorem Part.holdOutOfReach_names (p : Part) (k : Clock) (t : TreeId) (h : Nat) (m : Measured) :
    (p.holdOutOfReach k t h m).names = p.names := by
  simp only [Part.holdOutOfReach]
  (repeat' split) <;> first | rfl | simp [Part.modRecord_names]

@[simp] theorem Part.hearBound_names (p : Part) (k : Clock) (t : TreeId) (m : Measured) (r : Record) :
    (p.hearBound k t m r).names = p.names := by
  simp only [Part.hearBound]
  (repeat' split) <;> first | rfl | simp [Part.modRecord_names]

@[simp] theorem Part.turnAway_names (p : Part) (t : TreeId) (m : Measured) :
    (p.turnAway t m).names = p.names := by
  simp only [Part.turnAway]
  (repeat' split) <;> first | rfl | simp [Part.modRecord_names, Part.modEntry_names]

@[simp] theorem Part.staleTest_names (p : Part) (t : TreeId) (h : Nat) (x : ReportSlot) :
    (p.staleTest t h x).names = p.names := by
  simp only [Part.staleTest]
  (repeat' split) <;> first | rfl | simp [Part.modRecord_names]

@[simp] theorem Part.raiseHealth_names (p : Part) (k : Clock) (t : TreeId) (h : Nat) (event : HealthEvent) (errors : Nat) :
    (p.raiseHealth k t h event errors).names = p.names := by
  simp only [Part.raiseHealth]
  (repeat' split) <;> first | rfl | simp [Part.modRecord_names, Part.modEntry_names]

@[simp] theorem Part.takeAttention_names (p : Part) (k : Clock) (t : TreeId) (h : Nat) (flag : Bool) :
    (p.takeAttention k t h flag).names = p.names := by
  simp only [Part.takeAttention]
  (repeat' split) <;> first | rfl | (rw [Part.modRecord_names] <;> simp [Part.modRecord_names])

@[simp] theorem Part.countClean_names (p : Part) (k : Clock) (t : TreeId) (h : Nat) :
    (p.countClean k t h).names = p.names := by
  simp only [Part.countClean]
  (repeat' split) <;> first | rfl | simp [Part.modRecord_names]

@[simp] theorem Part.countMiss_names (p : Part) (k : Clock) (t : TreeId) (h : Nat) :
    (p.countMiss k t h).names = p.names := by
  simp only [Part.countMiss]
  (repeat' split) <;> first | rfl | simp [Part.modRecord_names]

@[simp] theorem Part.countErrored_names (p : Part) (k : Clock) (t : TreeId) (h : Nat) :
    (p.countErrored k t h).names = p.names := by
  simp only [Part.countErrored]
  (repeat' split) <;> first | rfl | simp [Part.modRecord_names]

@[simp] theorem Part.countOutcome_names (p : Part) (k : Clock) (t : TreeId) (h : Nat) (x0 : MatchOutcome) :
    (p.countOutcome k t h x0).names = p.names := by
  simp only [Part.countOutcome]
  (repeat' split) <;> first | rfl | simp

@[simp] theorem Part.moveLag_names (p : Part) (t : TreeId) (r : Record) (lag : Nat) :
    (p.moveLag t r lag).names = p.names := by
  simp only [Part.moveLag]
  (repeat' split) <;> first | rfl | simp [Part.modRecord_names]

@[simp] theorem Part.checkFailed_names (p : Part) (k : Clock) (t : TreeId) (h : Nat) :
    (p.checkFailed k t h).names = p.names := by
  simp only [Part.checkFailed]
  (repeat' split) <;> first | rfl | simp [Part.modRecord_names]

@[simp] theorem Part.judgeCheck_names (p : Part) (k : Clock) (t : TreeId) (h : Nat) (grant : CycleNo) (e : Int) :
    (p.judgeCheck k t h grant e).names = p.names := by
  simp only [Part.judgeCheck]
  (repeat' split) <;> first | rfl | simp [Part.modRecord_names]

@[simp] theorem Part.judgeUpkeep_names (p : Part) (k : Clock) (t : TreeId) (h : Nat) (grant : CycleNo) (e : Int) :
    (p.judgeUpkeep k t h grant e).names = p.names := by
  simp only [Part.judgeUpkeep]
  (repeat' split) <;> first | rfl | simp [Part.modRecord_names]

@[simp] theorem Part.raiseLadder_names (p : Part) (t : TreeId) (h : Nat) :
    (p.raiseLadder t h).names = p.names := by
  simp only [Part.raiseLadder]
  (repeat' split) <;> first | rfl | simp [Part.modRecord_names]

@[simp] theorem Part.checkOutcome_names (p : Part) (k : Clock) (t : TreeId) (h : Nat) (grant : CycleNo) (o : MatchOutcome) :
    (p.checkOutcome k t h grant o).names = p.names := by
  simp only [Part.checkOutcome]
  (repeat' split) <;> first | rfl | simp [Part.modRecord_names]

@[simp] theorem Part.upkeepOutcome_names (p : Part) (k : Clock) (t : TreeId) (h : Nat) (grant : CycleNo) (o : MatchOutcome) :
    (p.upkeepOutcome k t h grant o).names = p.names := by
  simp only [Part.upkeepOutcome]
  (repeat' split) <;> first | rfl | simp

@[simp] theorem Part.duesOfTree_names (p : Part) (k : Clock) (t : TreeId) :
    (p.duesOfTree k t).names = p.names := by
  refine Part.mapRecords_names p _ (fun r => ?_) (fun r => ?_) (fun r => ?_) <;> split <;> simp

@[simp] theorem Part.pollDuesOfTree_names (p : Part) (k : Clock) (t : TreeId) :
    (p.pollDuesOfTree k t).names = p.names := by
  refine Part.mapRecords_names p _ (fun r => ?_) (fun r => ?_) (fun r => ?_) <;> split <;> simp [allSlots]

@[simp] theorem Part.issueGrant_names (p : Part) (k : Clock) (t : TreeId) (slot : Nat) (x : Candidate) :
    (p.issueGrant k t slot x).names = p.names := by
  simp only [Part.issueGrant]
  (repeat' split) <;> first | rfl | simp [Part.modRecord_names]

@[simp] theorem Part.settleSlot_names (p : Part) (k : Clock) (t : TreeId) (slot : Nat) :
    (p.settleSlot k t slot).1.names = p.names := by
  simp only [Part.settleSlot]
  (repeat' split) <;> first | rfl | simp

@[simp] theorem Part.settleSlots_names (p : Part) (k : Clock) (t : TreeId) (slot : Nat) (x0 : Nat) :
    (p.settleSlots k t slot x0).1.names = p.names := by
  induction x0 generalizing p slot with
  | zero => rfl
  | succ n ih => simp [Part.settleSlots, ih]

@[simp] theorem Part.ownerOutcome_names (p : Part) (k : Clock) (t : TreeId) (x : Expectation) (o : MatchOutcome) :
    (p.ownerOutcome k t x o).names = p.names := by
  simp only [Part.ownerOutcome]
  (repeat' split) <;> first | rfl | simp [Part.modRecord_names]

@[simp] theorem Part.countAndJudge_names (p : Part) (k : Clock) (t : TreeId) (x : Expectation) (o : MatchOutcome) :
    (p.countAndJudge k t x o).names = p.names := by
  simp only [Part.countAndJudge]
  (repeat' split) <;> first | rfl | simp

@[simp] theorem Part.takeOutcome_names (p : Part) (k : Clock) (t : TreeId) (x : Expectation) (o : MatchOutcome) :
    (p.takeOutcome k t x o).names = p.names := by
  simp only [Part.takeOutcome]
  (repeat' split) <;> first | rfl | simp

@[simp] theorem Part.removeEntry_names (p : Part) (t : TreeId) (x : Expectation) :
    (p.removeEntry t x).names = p.names := by
  simp only [Part.removeEntry]
  (repeat' split) <;> first | rfl | simp [Part.modRecord_names, Part.modEntry_names]

@[simp] theorem Part.matchArrival_names (p : Part) (k : Clock) (t : TreeId) (x : Expectation) (time : TreeTime) (c : Content) :
    (p.matchArrival k t x time c).names = p.names := by
  simp only [Part.matchArrival]
  (repeat' split) <;> first | rfl | simp

@[simp] theorem Part.expire_names (p : Part) (k : Clock) (t : TreeId) (x : Expectation) :
    (p.expire k t x).names = p.names := by
  simp only [Part.expire]
  (repeat' split) <;> first | rfl | simp

@[simp] theorem Part.callStart_names (p : Part) (k : Clock) (t : TreeId) :
    (p.callStart k t).names = p.names := by
  refine Part.mapRecords_names (p.modTree t (·.sendCall k.cycle)) _ (fun r => ?_) (fun r => ?_) (fun r => ?_) <;> split <;> rfl

@[simp] theorem Part.closeWindow_names (p : Part) (k : Clock) (t : TreeId) (win : Window) :
    (p.closeWindow k t win).names = p.names := by
  simp only [Part.closeWindow]
  (repeat' split) <;> first | rfl | simp

@[simp] theorem Part.rawHello_names (p : Part) (t : TreeId) (m : Hello) :
    (p.rawHello t m).names = p.names := by
  simp only [Part.rawHello]
  (repeat' split) <;> first | rfl | simp [Part.modRecord_names, Part.modEntry_names]

@[simp] theorem Part.takeStamps_names (p : Part) (t : TreeId) (m : Hello) :
    (p.takeStamps t m).names = p.names := by
  simp only [Part.takeStamps]
  (repeat' split) <;> first | rfl | simp

@[simp] theorem Part.dispatch_names (p : Part) (k : Clock) (t : TreeId) (a : Arrival) :
    (p.dispatch k t a).names = p.names := by
  simp only [Part.dispatch]
  (repeat' split) <;> first | rfl | simp

@[simp] theorem Part.lagByTagSent_names (p : Part) (k : Clock) (t : TreeId) (g : Tag) (h : Nat) :
    (p.lagByTagSent k t g h).names = p.names := by
  simp only [Part.lagByTagSent]
  (repeat' split) <;> first | rfl | (rw [Part.modRecord_names] <;> simp)

@[simp] theorem Part.lagByHandleSent_names (p : Part) (k : Clock) (t : TreeId) (h : Nat) :
    (p.lagByHandleSent k t h).names = p.names := by
  simp only [Part.lagByHandleSent]
  (repeat' split) <;> first | rfl | simp [Part.modRecord_names]

@[simp] theorem Part.reportSent_names (p : Part) (k : Clock) (t : TreeId) (x0 : Order) :
    (p.reportSent k t x0).names = p.names := by
  simp only [Part.reportSent]
  (repeat' split) <;> first | rfl | simp

@[simp] theorem Part.orderCell_names (p : Part) (k : Clock) (t : TreeId) :
    (p.orderCell k t).1.names = p.names := by
  simp only [Part.orderCell]
  (repeat' split) <;> first | rfl | simp

@[simp] theorem Part.loadOrOrderCell_names (p : Part) (k : Clock) (t : TreeId) :
    (p.loadOrOrderCell k t).1.names = p.names := by
  simp only [Part.loadOrOrderCell]
  (repeat' split) <;> first | rfl | simp

@[simp] theorem Part.fillField_names (p : Part) (k : Clock) (t : TreeId) :
    (p.fillField k t).names = p.names := by
  simp only [Part.fillField]
  (repeat' split) <;> first | rfl | simp

@[simp] theorem Part.prepareTimerTest_names (p : Part) (k : Clock) (t : TreeId) :
    (p.prepareTimerTest k t).names = p.names := by
  simp only [Part.prepareTimerTest]
  (repeat' split) <;> first | rfl | simp

@[simp] theorem Part.beginTimerTest_names (p : Part) (k : Clock) (t : TreeId) :
    (p.beginTimerTest k t).names = p.names := by
  simp only [Part.beginTimerTest]
  (repeat' split) <;> first | rfl | simp

@[simp] theorem Part.stallTimerTest_names (p : Part) (k : Clock) (t : TreeId) :
    (p.stallTimerTest k t).names = p.names := by
  simp only [Part.stallTimerTest]
  (repeat' split) <;> first | rfl | simp

@[simp] theorem Part.commitTimerTest_names (p : Part) (k : Clock) (t : TreeId) :
    (p.commitTimerTest k t).names = p.names := by
  simp only [Part.commitTimerTest]
  (repeat' split) <;> first | rfl | simp

@[simp] theorem Part.resumeTimerTest_names (p : Part) (k : Clock) (t : TreeId) :
    (p.resumeTimerTest k t).names = p.names := by
  simp only [Part.resumeTimerTest]
  (repeat' split) <;> first | rfl | simp [Part.modRecord_names, Part.modEntry_names]

@[simp] theorem Part.staleTests_names (p : Part) (t : TreeId) :
    (p.staleTests t).names = p.names := Part.foldl_names _ (fun p h => Part.foldl_names _ (fun p x => Part.staleTest_names p t h x) _ p) _ p

@[simp] theorem Part.ageAll_names (p : Part) :
    (p.ageAll).names = p.names := by
  refine Part.mapRecords_names p _ (fun r => ?_) (fun r => ?_) (fun r => ?_) <;> simp

@[simp] theorem Part.windowStep_names (p : Part) (k : Clock) (t : TreeId) :
    (p.windowStep k t).names = p.names := by
  simp only [Part.windowStep]
  (repeat' split) <;> first | rfl | simp

@[simp] theorem Part.spanStep_names (p : Part) (k : Clock) (t : TreeId) :
    (p.spanStep k t).names = p.names := by
  simp only [Part.spanStep]
  (repeat' split) <;> first | rfl | simp

@[simp] theorem Part.headerStep_names (p : Part) (k : Clock) (t : TreeId) :
    (p.headerStep k t).names = p.names := by
  simp only [Part.headerStep]
  (repeat' split) <;> first | rfl | simp

@[simp] theorem Part.settleStep_names (p : Part) (k : Clock) (t : TreeId) :
    (p.settleStep k t).names = p.names := by
  simp only [Part.settleStep]
  (repeat' split) <;> first | rfl | simp

@[simp] theorem Part.darkStep_names (p : Part) (k : Clock) (t : TreeId) :
    (p.darkStep k t).names = p.names := by
  simp only [Part.darkStep]
  (repeat' split) <;> first | rfl | simp

@[simp] theorem Part.enabledStart_names (p : Part) (k : Clock) (boundary : Bool) (t : TreeId) :
    (p.enabledStart k boundary t).names = p.names := by
  simp only [Part.enabledStart]
  (repeat' split) <;> first | rfl | simp

@[simp] theorem Part.treeStart_names (p : Part) (k : Clock) (boundary : Bool) (t : TreeId) :
    (p.treeStart k boundary t).names = p.names := by
  simp only [Part.treeStart]
  (repeat' split) <;> first | rfl | simp

@[simp] theorem Part.offerOn_names (p : Part) (m : TreeMask) (o : Order) :
    (p.offerOn m o).names = p.names := Part.foldl_names _ (fun p t => Part.offer_names p t o) _ p

@[simp] theorem Part.standRecordDown_names (p : Part) (k : Clock) (m : TreeMask) (g : Tag) :
    (p.standRecordDown k m g).names = p.names := by
  simp only [Part.standRecordDown]
  (repeat' split) <;> first | rfl | simp

end Sys2Proof.Machine
end

