-- ==== Sys2Proof/Laws/Sent.lean ====
section
/-!
SUPPORT. Laws/Sent.lean: what the blocks leave alone of the downstream side. But for the steps of a cycle start that
assemble them, no block operation writes a tree's header or its control field (`sent`).
-/

namespace Sys2Proof.Machine

/-- Header and control field of a tree. -/
def Tree.sent (T : Tree) : Header × List Cell := (T.header, T.field)

/-- Headers and control fields of the part. -/
def Part.sent (p : Part) : PerTree (Header × List Cell) :=
  ⟨p.trees.t0.sent, p.trees.t1.sent, p.trees.t2.sent, p.trees.t3.sent⟩

/-! ### The primitive changes -/

theorem Part.sent_trees {p q : Part} (h : q.sent = p.sent) (t : TreeId) :
    (q.tree t).header = (p.tree t).header ∧ (q.tree t).field = (p.tree t).field := by
  simp only [Part.sent, Tree.sent, PerTree.mk.injEq, Prod.mk.injEq] at h
  cases t <;> simp [Part.tree, PerTree.get, h]

theorem Part.modTree_sent (p : Part) (t : TreeId) (f : Tree → Tree) (he : (f (p.tree t)).header = (p.tree t).header)
    (hs : (f (p.tree t)).field = (p.tree t).field) : (p.modTree t f).sent = p.sent := by
  cases t <;>
    (simp only [Part.tree, PerTree.get] at he hs
     simp [Part.modTree, Part.sent, Tree.sent, PerTree.set, PerTree.get, he, hs])

@[simp] theorem Part.modEngine_sent (p : Part) (t : TreeId) (f : Engine → Engine) : (p.modEngine t f).sent = p.sent :=
  Part.modTree_sent _ _ _ rfl rfl
@[simp] theorem Part.modGuard_sent (p : Part) (t : TreeId) (f : Guard → Guard) : (p.modGuard t f).sent = p.sent :=
  Part.modTree_sent _ _ _ rfl rfl
@[simp] theorem Part.modCounters_sent (p : Part) (t : TreeId) (f : Counters → Counters) :
    (p.modCounters t f).sent = p.sent := Part.modTree_sent _ _ _ rfl rfl
@[simp] theorem Part.modExpectations_sent (p : Part) (t : TreeId) (f : List Expectation → List Expectation) :
    (p.modExpectations t f).sent = p.sent := Part.modTree_sent _ _ _ rfl rfl
@[simp] theorem Part.raise_sent (p : Part) (n : Notice) : (p.raise n).sent = p.sent := rfl
@[simp] theorem Part.raiseTerminal_sent (p : Part) (r : Record) (old new : RecState) (c : Cause) :
    (p.raiseTerminal r old new c).sent = p.sent := rfl
@[simp] theorem Part.modRecord_sent (p : Part) (t : TreeId) (h : Nat) (f : Record → Record) :
    (p.modRecord t h f).sent = p.sent := rfl
@[simp] theorem Part.modEntry_sent (p : Part) (g : Tag) (f : AdmitEntry → AdmitEntry) :
    (p.modEntry g f).sent = p.sent := rfl

/-- A change of the rest of the part. -/
@[simp] theorem Part.rest_sent (trees : PerTree Tree) (records : List Record) (admission : List AdmitEntry)
    (unclaimedTags : List UnclaimedEntry) (master : Master) (raised : List Notice) (straps : Straps)
    (slots : Vector ProfileSlot 16) (reportTable : PerSlot TableSlot) (save : Option Save) (savesBegun : Nat) (loader : Option Loader) :
    Part.sent ⟨straps, trees, records, admission, unclaimedTags, slots, reportTable, master, save, savesBegun, loader, raised⟩ =
      ⟨trees.t0.sent, trees.t1.sent, trees.t2.sent, trees.t3.sent⟩ := rfl

/-- The parts of `sent` make it up. -/
@[simp] theorem Part.sent_eta (p : Part) :
    (⟨p.trees.t0.sent, p.trees.t1.sent, p.trees.t2.sent, p.trees.t3.sent⟩ : PerTree (Header × List Cell)) = p.sent := rfl

/-! ### Changes of one tree -/

@[simp] theorem Tree.cancelLeadIn_header (T : Tree) : (T.cancelLeadIn).header = T.header := by
  simp only [Tree.cancelLeadIn]
  (repeat' split) <;> simp

@[simp] theorem Tree.cancelLeadIn_field (T : Tree) : (T.cancelLeadIn).field = T.field := by
  simp only [Tree.cancelLeadIn]
  (repeat' split) <;> simp

@[simp] theorem Tree.advanceTimer_header (T : Tree) : (T.advanceTimer).header = T.header := by
  simp only [Tree.advanceTimer]
  split <;> rfl
@[simp] theorem Tree.advanceTimer_field (T : Tree) : (T.advanceTimer).field = T.field := by
  simp only [Tree.advanceTimer]
  split <;> rfl
@[simp] theorem Tree.beginWindow_header (T : Tree) (c : CycleNo) : (T.beginWindow c).header = T.header := rfl

@[simp] theorem Tree.beginWindow_field (T : Tree) (c : CycleNo) : (T.beginWindow c).field = T.field := rfl

@[simp] theorem Tree.sendCall_header (T : Tree) (c : CycleNo) : (T.sendCall c).header = T.header := rfl

@[simp] theorem Tree.sendCall_field (T : Tree) (c : CycleNo) : (T.sendCall c).field = T.field := rfl

@[simp] theorem Tree.modWindow_header (T : Tree) (f : Window → Window) : (T.modWindow f).header = T.header := by
  simp only [Tree.modWindow]
  (repeat' split) <;> simp

@[simp] theorem Tree.modWindow_field (T : Tree) (f : Window → Window) : (T.modWindow f).field = T.field := by
  simp only [Tree.modWindow]
  (repeat' split) <;> simp

@[simp] theorem Tree.collide_header (T : Tree) : (T.collide).header = T.header := by
  simp only [Tree.collide]
  (repeat' split) <;> simp

@[simp] theorem Tree.collide_field (T : Tree) : (T.collide).field = T.field := by
  simp only [Tree.collide]
  (repeat' split) <;> simp

@[simp] theorem Tree.hearHello_header (T : Tree) (win : Window) (m : Hello) : (T.hearHello win m).header = T.header := by
  simp only [Tree.hearHello]
  (repeat' split) <;> simp

@[simp] theorem Tree.hearHello_field (T : Tree) (win : Window) (m : Hello) : (T.hearHello win m).field = T.field := by
  simp only [Tree.hearHello]
  (repeat' split) <;> simp

@[simp] theorem Tree.judgeInSpan_header (T : Tree) (win : Window) (time : TreeTime) (c : Content) : (T.judgeInSpan win time c).header = T.header := by
  simp only [Tree.judgeInSpan]
  (repeat' split) <;> simp

@[simp] theorem Tree.judgeInSpan_field (T : Tree) (win : Window) (time : TreeTime) (c : Content) : (T.judgeInSpan win time c).field = T.field := by
  simp only [Tree.judgeInSpan]
  (repeat' split) <;> simp

@[simp] theorem Tree.lightComes_header (T : Tree) (now : TreeTime) (dark : Nat) : (T.lightComes now dark).header = T.header := rfl

@[simp] theorem Tree.lightComes_field (T : Tree) (now : TreeTime) (dark : Nat) : (T.lightComes now dark).field = T.field := rfl

@[simp] theorem Tree.lightGoesOn_header (T : Tree) (instant : TreeTime) (lit : Bool) : (T.lightGoesOn instant lit).header = T.header := by
  simp only [Tree.lightGoesOn]
  (repeat' split) <;> simp

@[simp] theorem Tree.lightGoesOn_field (T : Tree) (instant : TreeTime) (lit : Bool) : (T.lightGoesOn instant lit).field = T.field := by
  simp only [Tree.lightGoesOn]
  (repeat' split) <;> simp

@[simp] theorem Tree.seekEnds_header (T : Tree) (q : Seek) (rest : List Seek) (lit : Bool) : (T.seekEnds q rest lit).header = T.header := by
  simp only [Tree.seekEnds]
  (repeat' split) <;> simp

@[simp] theorem Tree.seekEnds_field (T : Tree) (q : Seek) (rest : List Seek) (lit : Bool) : (T.seekEnds q rest lit).field = T.field := by
  simp only [Tree.seekEnds]
  (repeat' split) <;> simp

@[simp] theorem Tree.delimiter_header (T : Tree) (now : TreeTime) (pos : Nat) (q : Seek) : (T.delimiter now pos q).header = T.header := rfl

@[simp] theorem Tree.delimiter_field (T : Tree) (now : TreeTime) (pos : Nat) (q : Seek) : (T.delimiter now pos q).field = T.field := rfl

@[simp] theorem Tree.finishBursts_header (T : Tree) : (T.finishBursts).header = T.header := rfl

@[simp] theorem Tree.finishBursts_field (T : Tree) : (T.finishBursts).field = T.field := rfl

@[simp] theorem Tree.burstEnds_header (T : Tree) (now : TreeTime) (endCode lit : Bool) : (T.burstEnds now endCode lit).header = T.header := by
  simp only [Tree.burstEnds]
  (repeat' split) <;> simp

@[simp] theorem Tree.burstEnds_field (T : Tree) (now : TreeTime) (endCode lit : Bool) : (T.burstEnds now endCode lit).field = T.field := by
  simp only [Tree.burstEnds]
  (repeat' split) <;> simp

@[simp] theorem Tree.decoded_header (T : Tree) (quarter : QuarterNo) (n : Nat) (cell : List Byte) : (T.decoded quarter n cell).header = T.header := by
  simp only [Tree.decoded]
  (repeat' split) <;> simp

@[simp] theorem Tree.decoded_field (T : Tree) (quarter : QuarterNo) (n : Nat) (cell : List Byte) : (T.decoded quarter n cell).field = T.field := by
  simp only [Tree.decoded]
  (repeat' split) <;> simp

@[simp] theorem Tree.openStart_header (T : Tree) (c : CycleNo) : (T.openStart c).header = T.header := by
  simp only [Tree.openStart]
  (repeat' split) <;> simp

@[simp] theorem Tree.openStart_field (T : Tree) (c : CycleNo) : (T.openStart c).field = T.field := by
  simp only [Tree.openStart]
  (repeat' split) <;> simp

@[simp] theorem Tree.lightAtStart_header (T : Tree) (lit : Bool) : (T.lightAtStart lit).header = T.header := by
  simp only [Tree.lightAtStart]
  (repeat' split) <;> simp

@[simp] theorem Tree.lightAtStart_field (T : Tree) (lit : Bool) : (T.lightAtStart lit).field = T.field := by
  simp only [Tree.lightAtStart]
  (repeat' split) <;> simp

@[simp] theorem Tree.closeStart_header (T : Tree) : (T.closeStart).header = T.header := rfl

@[simp] theorem Tree.closeStart_field (T : Tree) : (T.closeStart).field = T.field := rfl

/-- A fold of changes that keep `sent` keeps it. -/
theorem Part.foldl_sent {α : Type} (f : Part → α → Part) (hf : ∀ p a, (f p a).sent = p.sent) (l : List α) (p : Part) :
    (l.foldl f p).sent = p.sent := by
  induction l generalizing p with
  | nil => rfl
  | cons a l ih => rw [List.foldl_cons, ih, hf]

/-! ### The blocks -/

@[simp] theorem Part.dropRecord_sent (p : Part) (t : TreeId) (h : Nat) :
    (p.dropRecord t h).sent = p.sent := by
  simp only [Part.dropRecord]
  (repeat' split) <;> simp

@[simp] theorem Part.markUnsent_sent (p : Part) (t : TreeId) (o : Order) (v : Bool) :
    (p.markUnsent t o v).sent = p.sent := by
  simp only [Part.markUnsent]
  (repeat' split) <;> simp

@[simp] theorem Part.offer_sent (p : Part) (t : TreeId) (o : Order) :
    (p.offer t o).sent = p.sent := by
  simp only [Part.offer]
  (repeat' split) <;> simp [Part.modTree_sent]

@[simp] theorem Part.withdraw_sent (p : Part) (t : TreeId) (f : Order → Bool) :
    (p.withdraw t f).sent = p.sent := by
  simp only [Part.withdraw]
  rw [Part.foldl_sent _ fun p o => Part.markUnsent_sent p t o false]
  simp [Part.modTree_sent]

@[simp] theorem Part.reofferList_sent (p : Part) (t : TreeId) (x0 : List Order) :
    (p.reofferList t x0).sent = p.sent := by
  induction x0 generalizing p with
  | nil => simp [Part.reofferList, Part.modTree_sent]
  | cons o rest ih =>
    simp only [Part.reofferList]
    split <;> simp [ih, Part.modTree_sent]

@[simp] theorem Part.reoffer_sent (p : Part) (t : TreeId) :
    (p.reoffer t).sent = p.sent := by
  simp only [Part.reoffer]
  (repeat' split) <;> simp

@[simp] theorem Part.orphan_sent (p : Part) (t : TreeId) (h : Nat) :
    (p.orphan t h).sent = p.sent := by
  simp only [Part.orphan]
  (repeat' split) <;> simp

@[simp] theorem Part.orphanLoadStatus_sent (p : Part) (t : TreeId) (h : Nat) :
    (p.orphanLoadStatus t h).sent = p.sent := by
  simp only [Part.orphanLoadStatus]
  (repeat' split) <;> simp

@[simp] theorem Part.noLongerWaiting_sent (p : Part) (x0 : Requester) :
    (p.noLongerWaiting x0).sent = p.sent := by
  cases x0 <;> simp [Part.noLongerWaiting, Part.modTree_sent]

@[simp] theorem Part.serveBus_sent (p : Part) :
    (p.serveBus).sent = p.sent := by
  simp only [Part.serveBus]
  (repeat' split) <;> simp

@[simp] theorem Part.endTransfer_sent (p : Part) :
    (p.endTransfer).sent = p.sent := by
  simp only [Part.endTransfer]
  (repeat' split) <;> simp

@[simp] theorem Part.requestFetch_sent (p : Part) (t : TreeId) (kind : TransferKind) (address length : Nat) :
    (p.requestFetch t kind address length).sent = p.sent := by
  simp only [Part.requestFetch]
  (repeat' split) <;> simp [Part.modTree_sent]

@[simp] theorem Part.dropFetch_sent (p : Part) (t : TreeId) :
    (p.dropFetch t).sent = p.sent := by
  simp only [Part.dropFetch]
  (repeat' split) <;> exact Part.modTree_sent p t (fun T => { T with fetchWait := none }) rfl rfl

@[simp] theorem Part.pauseUpdate_sent (p : Part) (k : Clock) (t : TreeId) :
    (p.pauseUpdate k t).sent = p.sent := by
  simp only [Part.pauseUpdate]
  (repeat' split) <;> simp

@[simp] theorem Part.refill_sent (p : Part) (k : Clock) (t : TreeId) :
    (p.refill k t).sent = p.sent := by
  simp only [Part.refill]
  (repeat' split) <;> simp

@[simp] theorem Part.raiseAsk_sent (p : Part) (k : Clock) (t : TreeId) :
    (p.raiseAsk k t).sent = p.sent := by
  simp only [Part.raiseAsk]
  (repeat' split) <;> simp

@[simp] theorem Part.streamAsk_sent (p : Part) (k : Clock) (t : TreeId) :
    (p.streamAsk k t).sent = p.sent := by
  simp only [Part.streamAsk]
  (repeat' split) <;> simp

@[simp] theorem Part.settleAsk_sent (p : Part) (k : Clock) (t : TreeId) :
    (p.settleAsk k t).sent = p.sent := by
  simp only [Part.settleAsk]
  (repeat' split) <;> simp

@[simp] theorem Part.holdRecord_sent (p : Part) (t : TreeId) (h : Nat) (cause : Cause) :
    (p.holdRecord t h cause).sent = p.sent := by
  simp only [Part.holdRecord]
  (repeat' split) <;> simp

@[simp] theorem Part.enterInService_sent (p : Part) (k : Clock) (t : TreeId) (h : Nat) (cause : Cause) :
    (p.enterInService k t h cause).sent = p.sent := by
  simp only [Part.enterInService]
  (repeat' split) <;> simp

@[simp] theorem Part.startPreparing_sent (p : Part) (k : Clock) (t : TreeId) (h : Nat) (source : Source) (length : Nat) :
    (p.startPreparing k t h source length).sent = p.sent := by
  simp only [Part.startPreparing]
  (repeat' split) <;> simp

@[simp] theorem Part.unavailable_sent (p : Part) (k : Clock) (t : TreeId) (h : Nat) :
    (p.unavailable k t h).1.sent = p.sent := by
  simp only [Part.unavailable]
  (repeat' split) <;> simp

@[simp] theorem Part.resolve_sent (p : Part) (k : Clock) (t : TreeId) (r : Record) (l : Load) :
    (p.resolve k t r l).1.sent = p.sent := by
  simp only [Part.resolve]
  (repeat' split) <;> simp

@[simp] theorem Part.takeOne_sent (p : Part) (k : Clock) (t : TreeId) :
    (p.takeOne k t).1.sent = p.sent := by
  simp only [Part.takeOne]
  (repeat' split) <;> simp [Part.modTree_sent]

@[simp] theorem Part.takeUpTo_sent (p : Part) (k : Clock) (t : TreeId) (x0 : Nat) :
    (p.takeUpTo k t x0).sent = p.sent := by
  induction x0 generalizing p with
  | zero => rfl
  | succ n ih =>
    simp only [Part.takeUpTo]
    split <;> simp [ih]

@[simp] theorem Part.takeTest_sent (p : Part) (k : Clock) (t : TreeId) :
    (p.takeTest k t).sent = p.sent := by
  simp only [Part.takeTest]
  (repeat' split) <;> simp

@[simp] theorem Part.clearPush_sent (p : Part) (t : TreeId) (h : Nat) :
    (p.clearPush t h).sent = p.sent := by
  simp only [Part.clearPush]
  (repeat' split) <;> simp

@[simp] theorem Part.failAttempt_sent (p : Part) (k : Clock) (t : TreeId) (reason : FailReason) (code : Nat) (byTimer : Bool) :
    (p.failAttempt k t reason code byTimer).sent = p.sent := by
  simp only [Part.failAttempt]
  (repeat' split) <;> first | rfl | (simp; done) | (simp; rw [Part.modTree_sent _ _ _ rfl rfl]; simp)

@[simp] theorem Part.abortPush_sent (p : Part) (k : Clock) (t : TreeId) (h : Nat) :
    (p.abortPush k t h).sent = p.sent := by
  simp only [Part.abortPush]
  (repeat' split) <;> simp

@[simp] theorem Part.leavePush_sent (p : Part) (k : Clock) (t : TreeId) (h : Nat) :
    (p.leavePush k t h).sent = p.sent := by
  simp only [Part.leavePush]
  (repeat' split) <;> simp [Part.modTree_sent]

@[simp] theorem Part.joinQueue_sent (p : Part) (k : Clock) (t : TreeId) (h : Nat) :
    (p.joinQueue k t h).sent = p.sent := by
  simp only [Part.joinQueue]
  (repeat' split) <;> simp [Part.modTree_sent]

@[simp] theorem Part.enterStreaming_sent (p : Part) (k : Clock) (t : TreeId) :
    (p.enterStreaming k t).sent = p.sent := by
  simp only [Part.enterStreaming]
  (repeat' split) <;> simp

@[simp] theorem Part.enterSettling_sent (p : Part) (k : Clock) (t : TreeId) :
    (p.enterSettling k t).sent = p.sent := by
  simp only [Part.enterSettling]
  (repeat' split) <;> simp

@[simp] theorem Part.enterCommitting_sent (p : Part) (t : TreeId) :
    (p.enterCommitting t).sent = p.sent := by
  simp only [Part.enterCommitting]
  (repeat' split) <;> simp

@[simp] theorem Part.pushDone_sent (p : Part) (k : Clock) (t : TreeId) (h : Nat) :
    (p.pushDone k t h).sent = p.sent := by
  simp only [Part.pushDone]
  (repeat' split) <;> simp

@[simp] theorem Part.preparingOutcome_sent (p : Part) (k : Clock) (t : TreeId) (x0 : StatusOutcome) :
    (p.preparingOutcome k t x0).sent = p.sent := by
  simp only [Part.preparingOutcome]
  (repeat' split) <;> simp

@[simp] theorem Part.acknowledge_sent (p : Part) (k : Clock) (t : TreeId) (n sentMark : Nat) :
    (p.acknowledge k t n sentMark).sent = p.sent := by
  simp only [Part.acknowledge]
  (repeat' split) <;> simp

@[simp] theorem Part.streamingOutcome_sent (p : Part) (k : Clock) (t : TreeId) (x0 : StatusOutcome) :
    (p.streamingOutcome k t x0).sent = p.sent := by
  simp only [Part.streamingOutcome]
  (repeat' split) <;> simp

@[simp] theorem Part.committingOutcome_sent (p : Part) (k : Clock) (t : TreeId) (h : Nat) (x0 : StatusOutcome) :
    (p.committingOutcome k t h x0).sent = p.sent := by
  simp only [Part.committingOutcome]
  (repeat' split) <;> simp

@[simp] theorem Part.pushOutcome_sent (p : Part) (k : Clock) (t : TreeId) (h : Nat) (o : StatusOutcome) :
    (p.pushOutcome k t h o).sent = p.sent := by
  simp only [Part.pushOutcome]
  (repeat' split) <;> simp

@[simp] theorem Part.prepareSent_sent (p : Part) (k : Clock) (t : TreeId) (h : Nat) :
    (p.prepareSent k t h).sent = p.sent := by
  simp only [Part.prepareSent]
  (repeat' split) <;> simp

@[simp] theorem Part.commitSent_sent (p : Part) (k : Clock) (t : TreeId) (h : Nat) :
    (p.commitSent k t h).sent = p.sent := by
  simp only [Part.commitSent]
  (repeat' split) <;> simp

@[simp] theorem Part.cellSupplied_sent (p : Part) (k : Clock) (t : TreeId) :
    (p.cellSupplied k t).sent = p.sent := by
  simp only [Part.cellSupplied]
  (repeat' split) <;> simp

@[simp] theorem Part.directoryRead_sent (p : Part) (k : Clock) (t : TreeId) (bs : List Byte) :
    (p.directoryRead k t bs).sent = p.sent := by
  simp only [Part.directoryRead]
  (repeat' split) <;> simp

@[simp] theorem Part.dataRead_sent (p : Part) (k : Clock) (t : TreeId) (bs : List Byte) :
    (p.dataRead k t bs).sent = p.sent := by
  simp only [Part.dataRead]
  (repeat' split) <;> simp

@[simp] theorem Part.arise_sent (p : Part) (k : Clock) (t : TreeId) (f : Factor) (measure : Nat) :
    (p.arise k t f measure).sent = p.sent := by
  simp only [Part.arise]
  split
  · simp
  · rw [Part.modTree_sent]
    all_goals simp

@[simp] theorem Part.startResume_sent (p : Part) (k : Clock) (t : TreeId) :
    (p.startResume k t).sent = p.sent := by
  simp only [Part.startResume]
  (repeat' split) <;> simp

@[simp] theorem Part.endFactor_sent (p : Part) (k : Clock) (t : TreeId) (f : Factor) :
    (p.endFactor k t f).sent = p.sent := by
  simp only [Part.endFactor]
  (repeat' split) <;> simp

@[simp] theorem Part.strayEvent_sent (p : Part) (k : Clock) (t : TreeId) :
    (p.strayEvent k t).sent = p.sent := by
  simp only [Part.strayEvent]
  (repeat' split) <;> simp

@[simp] theorem Part.spanEnds_sent (p : Part) (k : Clock) (t : TreeId) :
    (p.spanEnds k t).sent = p.sent := by
  simp only [Part.spanEnds]
  (repeat' split) <;> simp [Part.modTree_sent]

@[simp] theorem Part.darkTest_sent (p : Part) (k : Clock) (t : TreeId) :
    (p.darkTest k t).sent = p.sent := by
  simp only [Part.darkTest]
  (repeat' split) <;> simp [Part.modTree_sent]

@[simp] theorem Part.onsetEndsDark_sent (p : Part) (k : Clock) (t : TreeId) :
    (p.onsetEndsDark k t).sent = p.sent := by
  simp only [Part.onsetEndsDark]
  (repeat' split) <;> simp

@[simp] theorem Part.stormTest_sent (p : Part) (k : Clock) (t : TreeId) (c : Nat) :
    (p.stormTest k t c).sent = p.sent := by
  simp only [Part.stormTest]
  (repeat' split) <;> simp

@[simp] theorem Part.leaveHush_sent (p : Part) (k : Clock) (t : TreeId) :
    (p.leaveHush k t).sent = p.sent := by
  simp only [Part.leaveHush]
  (repeat' split) <;> simp

@[simp] theorem Part.guardMaskStored_sent (p : Part) (k : Clock) (t : TreeId) :
    (p.guardMaskStored k t).sent = p.sent := by
  simp only [Part.guardMaskStored]
  (repeat' split) <;> simp

@[simp] theorem Part.enterHeard_sent (p : Part) (k : Clock) (t : TreeId) (h : Nat) (cause : Cause) :
    (p.enterHeard k t h cause).sent = p.sent := by
  simp only [Part.enterHeard]
  (repeat' split) <;> simp

@[simp] theorem Part.enterAligning_sent (p : Part) (t : TreeId) (h : Nat) :
    (p.enterAligning t h).sent = p.sent := by
  simp only [Part.enterAligning]
  (repeat' split) <;> simp

@[simp] theorem Part.enterLoading_sent (p : Part) (k : Clock) (t : TreeId) (h profile : Nat) (cause : Cause) :
    (p.enterLoading k t h profile cause).sent = p.sent := by
  simp only [Part.enterLoading]
  (repeat' split) <;> simp

@[simp] theorem Part.confirm_sent (p : Part) (k : Clock) (t : TreeId) (h : Nat) :
    (p.confirm k t h).sent = p.sent := by
  simp only [Part.confirm]
  (repeat' split) <;> simp

@[simp] theorem Part.enterRefind_sent (p : Part) (k : Clock) (t : TreeId) (h : Nat) (cause : Cause) :
    (p.enterRefind k t h cause).sent = p.sent := by
  simp only [Part.enterRefind]
  (repeat' split) <;> simp

@[simp] theorem Part.enterHeld_sent (p : Part) (k : Clock) (t : TreeId) (h : Nat) (cause : Cause) :
    (p.enterHeld k t h cause).sent = p.sent := by
  simp only [Part.enterHeld]
  (repeat' split) <;> simp

@[simp] theorem Part.freeRecord_sent (p : Part) (k : Clock) (t : TreeId) (h : Nat) (cause : Cause) :
    (p.freeRecord k t h cause).sent = p.sent := by
  simp only [Part.freeRecord]
  (repeat' split) <;> simp [Part.modTree_sent]

@[simp] theorem Part.hearUnclaimed_sent (p : Part) (k : Clock) (t : TreeId) (m : Measured) :
    (p.hearUnclaimed k t m).sent = p.sent := by
  simp only [Part.hearUnclaimed]
  (repeat' split) <;> simp

@[simp] theorem Part.hearIgnored_sent (p : Part) (g : Tag) :
    (p.hearIgnored g).sent = p.sent := by
  simp only [Part.hearIgnored]
  (repeat' split) <;> simp

@[simp] theorem Part.hearWrongTree_sent (p : Part) (k : Clock) (t : TreeId) (m : Measured) (e : AdmitEntry) :
    (p.hearWrongTree k t m e).sent = p.sent := by
  simp only [Part.hearWrongTree]
  (repeat' split) <;> simp

@[simp] theorem Part.holdDuplicate_sent (p : Part) (k : Clock) (r : Record) :
    (p.holdDuplicate k r).sent = p.sent := by
  simp only [Part.holdDuplicate]
  (repeat' split) <;> simp

@[simp] theorem Part.hearDuplicate_sent (p : Part) (k : Clock) (t : TreeId) (r : Record) :
    (p.hearDuplicate k t r).sent = p.sent := by
  simp only [Part.hearDuplicate]
  (repeat' split) <;> simp

@[simp] theorem Part.holdOutOfReach_sent (p : Part) (k : Clock) (t : TreeId) (h : Nat) (m : Measured) :
    (p.holdOutOfReach k t h m).sent = p.sent := by
  simp only [Part.holdOutOfReach]
  (repeat' split) <;> simp

@[simp] theorem Part.hearBound_sent (p : Part) (k : Clock) (t : TreeId) (m : Measured) (r : Record) :
    (p.hearBound k t m r).sent = p.sent := by
  simp only [Part.hearBound]
  (repeat' split) <;> simp

@[simp] theorem Part.turnAway_sent (p : Part) (t : TreeId) (m : Measured) :
    (p.turnAway t m).sent = p.sent := by
  simp only [Part.turnAway]
  (repeat' split) <;> simp [Part.modTree_sent]

@[simp] theorem Part.makeRecord_sent (p : Part) (t : TreeId) (h : Nat) (m : Measured) :
    (p.makeRecord t h m).sent = p.sent := by
  simp only [Part.makeRecord]
  (repeat' split) <;> simp

@[simp] theorem Part.hearNew_sent (p : Part) (t : TreeId) (m : Measured) :
    (p.hearNew t m).sent = p.sent := by
  simp only [Part.hearNew]
  (repeat' split) <;> simp

@[simp] theorem Part.hearOtherTree_sent (p : Part) (k : Clock) (t : TreeId) (m : Measured) (r : Record) :
    (p.hearOtherTree k t m r).sent = p.sent := by
  simp only [Part.hearOtherTree]
  (repeat' split) <;> simp

@[simp] theorem Part.takeHello_sent (p : Part) (k : Clock) (t : TreeId) (m : Measured) :
    (p.takeHello k t m).sent = p.sent := by
  simp only [Part.takeHello]
  (repeat' split) <;> simp

@[simp] theorem Part.staleTest_sent (p : Part) (t : TreeId) (h : Nat) (x : ReportSlot) :
    (p.staleTest t h x).sent = p.sent := by
  simp only [Part.staleTest]
  (repeat' split) <;> simp

@[simp] theorem Part.raiseHealth_sent (p : Part) (k : Clock) (t : TreeId) (h : Nat) (event : HealthEvent) (errors : Nat) :
    (p.raiseHealth k t h event errors).sent = p.sent := by
  simp only [Part.raiseHealth]
  (repeat' split) <;> simp

@[simp] theorem Part.takeAttention_sent (p : Part) (k : Clock) (t : TreeId) (h : Nat) (flag : Bool) :
    (p.takeAttention k t h flag).sent = p.sent := by
  simp only [Part.takeAttention]
  (repeat' split) <;> simp

@[simp] theorem Part.countClean_sent (p : Part) (k : Clock) (t : TreeId) (h : Nat) :
    (p.countClean k t h).sent = p.sent := by
  simp only [Part.countClean]
  (repeat' split) <;> simp

@[simp] theorem Part.countMiss_sent (p : Part) (k : Clock) (t : TreeId) (h : Nat) :
    (p.countMiss k t h).sent = p.sent := by
  simp only [Part.countMiss]
  (repeat' split) <;> simp

@[simp] theorem Part.countErrored_sent (p : Part) (k : Clock) (t : TreeId) (h : Nat) :
    (p.countErrored k t h).sent = p.sent := by
  simp only [Part.countErrored]
  (repeat' split) <;> simp

@[simp] theorem Part.countOutcome_sent (p : Part) (k : Clock) (t : TreeId) (h : Nat) (x0 : MatchOutcome) :
    (p.countOutcome k t h x0).sent = p.sent := by
  simp only [Part.countOutcome]
  (repeat' split) <;> simp

@[simp] theorem Part.moveLag_sent (p : Part) (t : TreeId) (r : Record) (lag : Nat) :
    (p.moveLag t r lag).sent = p.sent := by
  simp only [Part.moveLag]
  (repeat' split) <;> simp

@[simp] theorem Part.checkFailed_sent (p : Part) (k : Clock) (t : TreeId) (h : Nat) :
    (p.checkFailed k t h).sent = p.sent := by
  simp only [Part.checkFailed]
  (repeat' split) <;> simp

@[simp] theorem Part.judgeCheck_sent (p : Part) (k : Clock) (t : TreeId) (h : Nat) (grant : CycleNo) (e : Int) :
    (p.judgeCheck k t h grant e).sent = p.sent := by
  simp only [Part.judgeCheck]
  (repeat' split) <;> simp

@[simp] theorem Part.judgeUpkeep_sent (p : Part) (k : Clock) (t : TreeId) (h : Nat) (grant : CycleNo) (e : Int) :
    (p.judgeUpkeep k t h grant e).sent = p.sent := by
  simp only [Part.judgeUpkeep]
  (repeat' split) <;> simp

@[simp] theorem Part.raiseLadder_sent (p : Part) (t : TreeId) (h : Nat) :
    (p.raiseLadder t h).sent = p.sent := by
  simp only [Part.raiseLadder]
  (repeat' split) <;> simp

@[simp] theorem Part.checkOutcome_sent (p : Part) (k : Clock) (t : TreeId) (h : Nat) (grant : CycleNo) (o : MatchOutcome) :
    (p.checkOutcome k t h grant o).sent = p.sent := by
  simp only [Part.checkOutcome]
  (repeat' split) <;> simp

@[simp] theorem Part.upkeepOutcome_sent (p : Part) (k : Clock) (t : TreeId) (h : Nat) (grant : CycleNo) (o : MatchOutcome) :
    (p.upkeepOutcome k t h grant o).sent = p.sent := by
  simp only [Part.upkeepOutcome]
  (repeat' split) <;> simp

@[simp] theorem Part.duesOfTree_sent (p : Part) (k : Clock) (t : TreeId) :
    (p.duesOfTree k t).sent = p.sent := by
  simp only [Part.duesOfTree]
  (repeat' split) <;> simp

@[simp] theorem Part.pollDuesOfTree_sent (p : Part) (k : Clock) (t : TreeId) :
    (p.pollDuesOfTree k t).sent = p.sent := by
  simp only [Part.pollDuesOfTree]
  (repeat' split) <;> simp

@[simp] theorem Part.issueGrant_sent (p : Part) (k : Clock) (t : TreeId) (slot : Nat) (x : Candidate) :
    (p.issueGrant k t slot x).sent = p.sent := by
  simp only [Part.issueGrant]
  (repeat' split) <;> simp

@[simp] theorem Part.settleSlot_sent (p : Part) (k : Clock) (t : TreeId) (slot : Nat) :
    (p.settleSlot k t slot).1.sent = p.sent := by
  simp only [Part.settleSlot]
  (repeat' split) <;> simp [Part.modTree_sent]

@[simp] theorem Part.settleSlots_sent (p : Part) (k : Clock) (t : TreeId) (slot : Nat) (x0 : Nat) :
    (p.settleSlots k t slot x0).1.sent = p.sent := by
  induction x0 generalizing p slot with
  | zero => rfl
  | succ n ih => simp [Part.settleSlots, ih]

@[simp] theorem Part.ownerOutcome_sent (p : Part) (k : Clock) (t : TreeId) (x : Expectation) (o : MatchOutcome) :
    (p.ownerOutcome k t x o).sent = p.sent := by
  simp only [Part.ownerOutcome]
  (repeat' split) <;> simp

@[simp] theorem Part.countAndJudge_sent (p : Part) (k : Clock) (t : TreeId) (x : Expectation) (o : MatchOutcome) :
    (p.countAndJudge k t x o).sent = p.sent := by
  simp only [Part.countAndJudge]
  (repeat' split) <;> simp

@[simp] theorem Part.takeOutcome_sent (p : Part) (k : Clock) (t : TreeId) (x : Expectation) (o : MatchOutcome) :
    (p.takeOutcome k t x o).sent = p.sent := by
  simp only [Part.takeOutcome]
  (repeat' split) <;> simp

@[simp] theorem Part.removeEntry_sent (p : Part) (t : TreeId) (x : Expectation) :
    (p.removeEntry t x).sent = p.sent := by
  simp only [Part.removeEntry]
  (repeat' split) <;> simp

@[simp] theorem Part.matchArrival_sent (p : Part) (k : Clock) (t : TreeId) (x : Expectation) (time : TreeTime) (c : Content) :
    (p.matchArrival k t x time c).sent = p.sent := by
  simp only [Part.matchArrival]
  (repeat' split) <;> simp

@[simp] theorem Part.expire_sent (p : Part) (k : Clock) (t : TreeId) (x : Expectation) :
    (p.expire k t x).sent = p.sent := by
  simp only [Part.expire]
  (repeat' split) <;> simp

@[simp] theorem Part.callStart_sent (p : Part) (k : Clock) (t : TreeId) :
    (p.callStart k t).sent = p.sent := Part.modTree_sent p t (·.sendCall k.cycle) rfl rfl

@[simp] theorem Part.closeWindow_sent (p : Part) (k : Clock) (t : TreeId) (win : Window) :
    (p.closeWindow k t win).sent = p.sent := by
  simp only [Part.closeWindow]
  (repeat' split) <;> simp [Part.modTree_sent]

@[simp] theorem Part.rawHello_sent (p : Part) (t : TreeId) (m : Hello) :
    (p.rawHello t m).sent = p.sent := by
  simp only [Part.rawHello]
  (repeat' split) <;> simp [Part.modTree_sent]

@[simp] theorem Part.takeStamps_sent (p : Part) (t : TreeId) (m : Hello) :
    (p.takeStamps t m).sent = p.sent := by
  simp only [Part.takeStamps]
  (repeat' split) <;> simp [Part.modTree_sent]

@[simp] theorem Part.dispatch_sent (p : Part) (k : Clock) (t : TreeId) (a : Arrival) :
    (p.dispatch k t a).sent = p.sent := by
  simp only [Part.dispatch]
  (repeat' split) <;> simp [Part.modTree_sent]

@[simp] theorem Part.lagByTagSent_sent (p : Part) (k : Clock) (t : TreeId) (g : Tag) (h : Nat) :
    (p.lagByTagSent k t g h).sent = p.sent := by
  simp only [Part.lagByTagSent]
  (repeat' split) <;> simp

@[simp] theorem Part.lagByHandleSent_sent (p : Part) (k : Clock) (t : TreeId) (h : Nat) :
    (p.lagByHandleSent k t h).sent = p.sent := by
  simp only [Part.lagByHandleSent]
  (repeat' split) <;> simp

@[simp] theorem Part.reportSent_sent (p : Part) (k : Clock) (t : TreeId) (x0 : Order) :
    (p.reportSent k t x0).sent = p.sent := by
  simp only [Part.reportSent]
  (repeat' split) <;> simp

@[simp] theorem Part.orderCell_sent (p : Part) (k : Clock) (t : TreeId) :
    (p.orderCell k t).1.sent = p.sent := by
  simp only [Part.orderCell]
  (repeat' split) <;> simp [Part.modTree_sent]

@[simp] theorem Part.loadOrOrderCell_sent (p : Part) (k : Clock) (t : TreeId) :
    (p.loadOrOrderCell k t).1.sent = p.sent := by
  simp only [Part.loadOrOrderCell]
  (repeat' split) <;> simp

@[simp] theorem Part.prepareTimerTest_sent (p : Part) (k : Clock) (t : TreeId) :
    (p.prepareTimerTest k t).sent = p.sent := by
  simp only [Part.prepareTimerTest]
  (repeat' split) <;> simp

@[simp] theorem Part.beginTimerTest_sent (p : Part) (k : Clock) (t : TreeId) :
    (p.beginTimerTest k t).sent = p.sent := by
  simp only [Part.beginTimerTest]
  (repeat' split) <;> simp

@[simp] theorem Part.stallTimerTest_sent (p : Part) (k : Clock) (t : TreeId) :
    (p.stallTimerTest k t).sent = p.sent := by
  simp only [Part.stallTimerTest]
  (repeat' split) <;> simp

@[simp] theorem Part.commitTimerTest_sent (p : Part) (k : Clock) (t : TreeId) :
    (p.commitTimerTest k t).sent = p.sent := by
  simp only [Part.commitTimerTest]
  (repeat' split) <;> simp

@[simp] theorem Part.deadlineTest_sent (p : Part) (k : Clock) (t : TreeId) (h : Nat) :
    (p.deadlineTest k t h).sent = p.sent := by
  simp only [Part.deadlineTest]
  (repeat' split) <;> simp

@[simp] theorem Part.resumeTimerTest_sent (p : Part) (k : Clock) (t : TreeId) :
    (p.resumeTimerTest k t).sent = p.sent := by
  simp only [Part.resumeTimerTest]
  (repeat' split) <;> simp

@[simp] theorem Part.tenthTests_sent (p : Part) (k : Clock) (t : TreeId) :
    (p.tenthTests k t).sent = p.sent := by
  simp [Part.tenthTests, Part.foldl_sent _ fun p h => Part.deadlineTest_sent p k t h]

@[simp] theorem Part.staleTests_sent (p : Part) (t : TreeId) :
    (p.staleTests t).sent = p.sent := by
  simp only [Part.staleTests]
  exact Part.foldl_sent _ (fun p h => Part.foldl_sent _ (fun p x => Part.staleTest_sent p t h x) _ p) _ p

@[simp] theorem Part.ageAll_sent (p : Part) :
    (p.ageAll).sent = p.sent := by
  simp only [Part.ageAll]
  (repeat' split) <;> simp

@[simp] theorem Part.windowStep_sent (p : Part) (k : Clock) (t : TreeId) :
    (p.windowStep k t).sent = p.sent := by
  have h := Part.modTree_sent p t Tree.advanceTimer (by simp) (by simp)
  simp only [Part.windowStep]
  (repeat' split)
  · simp [h]
  · rw [Part.modTree_sent _ t (·.beginWindow k.cycle) rfl rfl, h]
  · exact h

@[simp] theorem Part.spanStep_sent (p : Part) (k : Clock) (t : TreeId) :
    (p.spanStep k t).sent = p.sent := by
  simp only [Part.spanStep]
  (repeat' split) <;> simp

@[simp] theorem Part.settleStep_sent (p : Part) (k : Clock) (t : TreeId) :
    (p.settleStep k t).sent = p.sent := by
  simp only [Part.settleStep]
  (repeat' split) <;> simp

@[simp] theorem Part.darkStep_sent (p : Part) (k : Clock) (t : TreeId) :
    (p.darkStep k t).sent = p.sent := by
  simp only [Part.darkStep]
  (repeat' split) <;> simp

@[simp] theorem Part.offerOn_sent (p : Part) (m : TreeMask) (o : Order) :
    (p.offerOn m o).sent = p.sent := Part.foldl_sent _ (fun p t => Part.offer_sent p t o) _ p

@[simp] theorem Part.standRecordDown_sent (p : Part) (k : Clock) (m : TreeMask) (g : Tag) :
    (p.standRecordDown k m g).sent = p.sent := by
  simp only [Part.standRecordDown]
  (repeat' split) <;> simp

end Sys2Proof.Machine
end

