-- ==== Sys2Proof/Laws/Paced.lean ====
section
/-!
SUPPORT. Laws/Paced.lean: what the blocks leave alone of a tree's window scheduler, QUIET line, light monitor, slot counter and
expectation list (`paced`, the orphan marks apart): of the work of a cycle start, and of what falls due at a tenth boundary,
only the window scheduler, the grants and a cancelled lead-in write them.
-/

namespace Sys2Proof.Machine

/-- Scheduler, QUIET, slot counter, light monitor and expectations (but for their orphan marks) of a tree. -/
def Tree.paced (T : Tree) : Scheduler × Bool × BitVec 16 × Nat × Bool × Bool × List Expectation :=
  (T.scheduler, T.quiet, T.slotCounter, T.darkCount, T.lit, T.lightSeen, T.expectations.map (·.unmarked))

/-- The same of every tree. -/
def Part.paced (p : Part) : PerTree (Scheduler × Bool × BitVec 16 × Nat × Bool × Bool × List Expectation) :=
  ⟨p.trees.t0.paced, p.trees.t1.paced, p.trees.t2.paced, p.trees.t3.paced⟩

/-! ### The primitive changes -/

theorem Part.paced_tree {p q : Part} (h : q.paced = p.paced) (t : TreeId) : (q.tree t).paced = (p.tree t).paced := by
  simp only [Part.paced, PerTree.mk.injEq] at h
  cases t <;> simp [Part.tree, PerTree.get, h]

theorem Part.modTree_paced (p : Part) (t : TreeId) (f : Tree → Tree)
    (h1 : (f (p.tree t)).scheduler = (p.tree t).scheduler) (h2 : (f (p.tree t)).quiet = (p.tree t).quiet)
    (h3 : (f (p.tree t)).slotCounter = (p.tree t).slotCounter) (h4 : (f (p.tree t)).darkCount = (p.tree t).darkCount)
    (h5 : (f (p.tree t)).lit = (p.tree t).lit) (h6 : (f (p.tree t)).lightSeen = (p.tree t).lightSeen)
    (h7 : (f (p.tree t)).expectations.map (·.unmarked) = (p.tree t).expectations.map (·.unmarked)) :
    (p.modTree t f).paced = p.paced := by
  cases t <;>
    (simp only [Part.tree, PerTree.get] at h1 h2 h3 h4 h5 h6 h7
     simp [Part.modTree, Part.paced, Tree.paced, PerTree.set, PerTree.get, h1, h2, h3, h4, h5, h6, h7])

@[simp] theorem Part.modEngine_paced (p : Part) (t : TreeId) (f : Engine → Engine) : (p.modEngine t f).paced = p.paced :=
  Part.modTree_paced _ _ _ rfl rfl rfl rfl rfl rfl rfl
@[simp] theorem Part.modGuard_paced (p : Part) (t : TreeId) (f : Guard → Guard) : (p.modGuard t f).paced = p.paced :=
  Part.modTree_paced _ _ _ rfl rfl rfl rfl rfl rfl rfl
@[simp] theorem Part.modCounters_paced (p : Part) (t : TreeId) (f : Counters → Counters) :
    (p.modCounters t f).paced = p.paced := Part.modTree_paced _ _ _ rfl rfl rfl rfl rfl rfl rfl
@[simp] theorem Part.raise_paced (p : Part) (n : Notice) : (p.raise n).paced = p.paced := rfl
@[simp] theorem Part.raiseTerminal_paced (p : Part) (r : Record) (old new : RecState) (c : Cause) :
    (p.raiseTerminal r old new c).paced = p.paced := rfl
@[simp] theorem Part.modRecord_paced (p : Part) (t : TreeId) (h : Nat) (f : Record → Record) :
    (p.modRecord t h f).paced = p.paced := rfl
@[simp] theorem Part.modEntry_paced (p : Part) (g : Tag) (f : AdmitEntry → AdmitEntry) :
    (p.modEntry g f).paced = p.paced := rfl

/-- A change of the rest of the part. -/
@[simp] theorem Part.rest_paced (trees : PerTree Tree) (records : List Record) (admission : List AdmitEntry)
    (unclaimedTags : List UnclaimedEntry) (master : Master) (raised : List Notice) (straps : Straps)
    (slots : Vector ProfileSlot 16) (reportTable : PerSlot TableSlot) (save : Option Save) (savesBegun : Nat) (loader : Option Loader) :
    Part.paced ⟨straps, trees, records, admission, unclaimedTags, slots, reportTable, master, save, savesBegun, loader, raised⟩ =
      ⟨trees.t0.paced, trees.t1.paced, trees.t2.paced, trees.t3.paced⟩ := rfl

/-- The parts of `paced` make it up. -/
@[simp] theorem Part.paced_eta (p : Part) :
    (⟨p.trees.t0.paced, p.trees.t1.paced, p.trees.t2.paced, p.trees.t3.paced⟩ :
      PerTree (Scheduler × Bool × BitVec 16 × Nat × Bool × Bool × List Expectation)) = p.paced := rfl

/-- Entries that only become orphans keep everything else. -/
theorem unmarked_orphans (f : Expectation → Bool) (l : List Expectation) :
    (l.map fun e => if f e then { e with orphan := true } else e).map (·.unmarked) = l.map (·.unmarked) := by
  rw [List.map_map]
  refine List.map_congr_left fun e _ => ?_
  simp only [Function.comp]
  split <;> rfl

/-- A fold of changes that keep `paced` keeps it. -/
theorem Part.foldl_paced {α : Type} (f : Part → α → Part) (hf : ∀ p a, (f p a).paced = p.paced) (l : List α) (p : Part) :
    (l.foldl f p).paced = p.paced := by
  induction l generalizing p with
  | nil => rfl
  | cons a l ih => rw [List.foldl_cons, ih, hf]

/-! ### The blocks -/

@[simp] theorem Part.dropRecord_paced (p : Part) (t : TreeId) (h : Nat) :
    (p.dropRecord t h).paced = p.paced := by
  simp only [Part.dropRecord]
  (repeat' split) <;> simp

@[simp] theorem Part.markUnsent_paced (p : Part) (t : TreeId) (o : Order) (v : Bool) :
    (p.markUnsent t o v).paced = p.paced := by
  simp only [Part.markUnsent]
  (repeat' split) <;> simp

@[simp] theorem Part.offer_paced (p : Part) (t : TreeId) (o : Order) :
    (p.offer t o).paced = p.paced := by
  simp only [Part.offer]
  (repeat' split) <;> simp [Part.modTree_paced]

@[simp] theorem Part.withdraw_paced (p : Part) (t : TreeId) (f : Order → Bool) :
    (p.withdraw t f).paced = p.paced := by
  simp only [Part.withdraw]
  rw [Part.foldl_paced _ fun p o => Part.markUnsent_paced p t o false]
  simp [Part.modTree_paced]

@[simp] theorem Part.reofferList_paced (p : Part) (t : TreeId) (x0 : List Order) :
    (p.reofferList t x0).paced = p.paced := by
  induction x0 generalizing p with
  | nil => simp [Part.reofferList, Part.modTree_paced]
  | cons o rest ih =>
    simp only [Part.reofferList]
    split <;> simp [ih, Part.modTree_paced]

@[simp] theorem Part.reoffer_paced (p : Part) (t : TreeId) :
    (p.reoffer t).paced = p.paced := by
  simp only [Part.reoffer]
  (repeat' split) <;> simp

@[simp] theorem Part.orphan_paced (p : Part) (t : TreeId) (h : Nat) :
    (p.orphan t h).paced = p.paced := by
  exact Part.modTree_paced _ _ _ rfl rfl rfl rfl rfl rfl (unmarked_orphans (fun e => e.handle == h) _)

@[simp] theorem Part.orphanLoadStatus_paced (p : Part) (t : TreeId) (h : Nat) :
    (p.orphanLoadStatus t h).paced = p.paced := by
  exact Part.modTree_paced _ _ _ rfl rfl rfl rfl rfl rfl
    (unmarked_orphans (fun e => e.handle == h && e.purpose == .loadStatus) _)

@[simp] theorem Part.noLongerWaiting_paced (p : Part) (x0 : Requester) :
    (p.noLongerWaiting x0).paced = p.paced := by
  cases x0 <;> simp [Part.noLongerWaiting, Part.modTree_paced]

@[simp] theorem Part.serveBus_paced (p : Part) :
    (p.serveBus).paced = p.paced := by
  simp only [Part.serveBus]
  (repeat' split) <;> simp

@[simp] theorem Part.requestFetch_paced (p : Part) (t : TreeId) (kind : TransferKind) (address length : Nat) :
    (p.requestFetch t kind address length).paced = p.paced := by
  simp only [Part.requestFetch]
  (repeat' split) <;> simp [Part.modTree_paced]

@[simp] theorem Part.dropFetch_paced (p : Part) (t : TreeId) :
    (p.dropFetch t).paced = p.paced := by
  simp only [Part.dropFetch]
  (repeat' split) <;> exact Part.modTree_paced p t (fun T => { T with fetchWait := none }) rfl rfl rfl rfl rfl rfl rfl

@[simp] theorem Part.pauseUpdate_paced (p : Part) (k : Clock) (t : TreeId) :
    (p.pauseUpdate k t).paced = p.paced := by
  simp only [Part.pauseUpdate]
  (repeat' split) <;> simp

@[simp] theorem Part.refill_paced (p : Part) (k : Clock) (t : TreeId) :
    (p.refill k t).paced = p.paced := by
  simp only [Part.refill]
  (repeat' split) <;> simp

@[simp] theorem Part.raiseAsk_paced (p : Part) (k : Clock) (t : TreeId) :
    (p.raiseAsk k t).paced = p.paced := by
  simp only [Part.raiseAsk]
  (repeat' split) <;> simp

@[simp] theorem Part.streamAsk_paced (p : Part) (k : Clock) (t : TreeId) :
    (p.streamAsk k t).paced = p.paced := by
  simp only [Part.streamAsk]
  (repeat' split) <;> simp

@[simp] theorem Part.holdRecord_paced (p : Part) (t : TreeId) (h : Nat) (cause : Cause) :
    (p.holdRecord t h cause).paced = p.paced := by
  simp only [Part.holdRecord]
  (repeat' split) <;> simp

@[simp] theorem Part.startPreparing_paced (p : Part) (k : Clock) (t : TreeId) (h : Nat) (source : Source) (length : Nat) :
    (p.startPreparing k t h source length).paced = p.paced := by
  simp only [Part.startPreparing]
  (repeat' split) <;> simp

@[simp] theorem Part.unavailable_paced (p : Part) (k : Clock) (t : TreeId) (h : Nat) :
    (p.unavailable k t h).1.paced = p.paced := by
  simp only [Part.unavailable]
  (repeat' split) <;> simp

@[simp] theorem Part.resolve_paced (p : Part) (k : Clock) (t : TreeId) (r : Record) (l : Load) :
    (p.resolve k t r l).1.paced = p.paced := by
  simp only [Part.resolve]
  (repeat' split) <;> simp

@[simp] theorem Part.takeOne_paced (p : Part) (k : Clock) (t : TreeId) :
    (p.takeOne k t).1.paced = p.paced := by
  simp only [Part.takeOne]
  (repeat' split) <;> simp [Part.modTree_paced]

@[simp] theorem Part.takeUpTo_paced (p : Part) (k : Clock) (t : TreeId) (x0 : Nat) :
    (p.takeUpTo k t x0).paced = p.paced := by
  induction x0 generalizing p with
  | zero => rfl
  | succ n ih =>
    simp only [Part.takeUpTo]
    split <;> simp [ih]

@[simp] theorem Part.takeTest_paced (p : Part) (k : Clock) (t : TreeId) :
    (p.takeTest k t).paced = p.paced := by
  simp only [Part.takeTest]
  (repeat' split) <;> simp

@[simp] theorem Part.clearPush_paced (p : Part) (t : TreeId) (h : Nat) :
    (p.clearPush t h).paced = p.paced := by
  simp only [Part.clearPush]
  (repeat' split) <;> simp

@[simp] theorem Part.failAttempt_paced (p : Part) (k : Clock) (t : TreeId) (reason : FailReason) (code : Nat) (byTimer : Bool) :
    (p.failAttempt k t reason code byTimer).paced = p.paced := by
  simp only [Part.failAttempt]
  (repeat' split) <;> first | rfl | (simp; done) | (simp; rw [Part.modTree_paced _ _ _ rfl rfl rfl rfl rfl rfl rfl]; simp)

@[simp] theorem Part.abortPush_paced (p : Part) (k : Clock) (t : TreeId) (h : Nat) :
    (p.abortPush k t h).paced = p.paced := by
  simp only [Part.abortPush]
  (repeat' split) <;> simp

@[simp] theorem Part.leavePush_paced (p : Part) (k : Clock) (t : TreeId) (h : Nat) :
    (p.leavePush k t h).paced = p.paced := by
  simp only [Part.leavePush]
  (repeat' split) <;> simp [Part.modTree_paced]

@[simp] theorem Part.enterStreaming_paced (p : Part) (k : Clock) (t : TreeId) :
    (p.enterStreaming k t).paced = p.paced := by
  simp only [Part.enterStreaming]
  (repeat' split) <;> simp

@[simp] theorem Part.prepareSent_paced (p : Part) (k : Clock) (t : TreeId) (h : Nat) :
    (p.prepareSent k t h).paced = p.paced := by
  simp only [Part.prepareSent]
  (repeat' split) <;> simp

@[simp] theorem Part.commitSent_paced (p : Part) (k : Clock) (t : TreeId) (h : Nat) :
    (p.commitSent k t h).paced = p.paced := by
  simp only [Part.commitSent]
  (repeat' split) <;> simp

@[simp] theorem Part.cellSupplied_paced (p : Part) (k : Clock) (t : TreeId) :
    (p.cellSupplied k t).paced = p.paced := by
  simp only [Part.cellSupplied]
  (repeat' split) <;> simp

@[simp] theorem Part.startResume_paced (p : Part) (k : Clock) (t : TreeId) :
    (p.startResume k t).paced = p.paced := by
  simp only [Part.startResume]
  (repeat' split) <;> simp

@[simp] theorem Part.endFactor_paced (p : Part) (k : Clock) (t : TreeId) (f : Factor) :
    (p.endFactor k t f).paced = p.paced := by
  simp only [Part.endFactor]
  (repeat' split) <;> simp

@[simp] theorem Part.spanEnds_paced (p : Part) (k : Clock) (t : TreeId) :
    (p.spanEnds k t).paced = p.paced := by
  simp only [Part.spanEnds]
  (repeat' split) <;> simp [Part.modTree_paced]

@[simp] theorem Part.leaveHush_paced (p : Part) (k : Clock) (t : TreeId) :
    (p.leaveHush k t).paced = p.paced := by
  simp only [Part.leaveHush]
  (repeat' split) <;> simp

@[simp] theorem Part.enterAligning_paced (p : Part) (t : TreeId) (h : Nat) :
    (p.enterAligning t h).paced = p.paced := by
  simp only [Part.enterAligning]
  (repeat' split) <;> simp

@[simp] theorem Part.freeRecord_paced (p : Part) (k : Clock) (t : TreeId) (h : Nat) (cause : Cause) :
    (p.freeRecord k t h cause).paced = p.paced := by
  simp only [Part.freeRecord]
  (repeat' split) <;> simp [Part.modTree_paced]

@[simp] theorem Part.staleTest_paced (p : Part) (t : TreeId) (h : Nat) (x : ReportSlot) :
    (p.staleTest t h x).paced = p.paced := by
  simp only [Part.staleTest]
  (repeat' split) <;> simp

@[simp] theorem Part.lagByTagSent_paced (p : Part) (k : Clock) (t : TreeId) (g : Tag) (h : Nat) :
    (p.lagByTagSent k t g h).paced = p.paced := by
  simp only [Part.lagByTagSent]
  (repeat' split) <;> simp

@[simp] theorem Part.lagByHandleSent_paced (p : Part) (k : Clock) (t : TreeId) (h : Nat) :
    (p.lagByHandleSent k t h).paced = p.paced := by
  simp only [Part.lagByHandleSent]
  (repeat' split) <;> simp

@[simp] theorem Part.reportSent_paced (p : Part) (k : Clock) (t : TreeId) (x0 : Order) :
    (p.reportSent k t x0).paced = p.paced := by
  simp only [Part.reportSent]
  (repeat' split) <;> simp

@[simp] theorem Part.orderCell_paced (p : Part) (k : Clock) (t : TreeId) :
    (p.orderCell k t).1.paced = p.paced := by
  simp only [Part.orderCell]
  (repeat' split) <;> simp [Part.modTree_paced]

@[simp] theorem Part.loadOrOrderCell_paced (p : Part) (k : Clock) (t : TreeId) :
    (p.loadOrOrderCell k t).1.paced = p.paced := by
  simp only [Part.loadOrOrderCell]
  (repeat' split) <;> simp

@[simp] theorem Part.prepareTimerTest_paced (p : Part) (k : Clock) (t : TreeId) :
    (p.prepareTimerTest k t).paced = p.paced := by
  simp only [Part.prepareTimerTest]
  (repeat' split) <;> simp

@[simp] theorem Part.beginTimerTest_paced (p : Part) (k : Clock) (t : TreeId) :
    (p.beginTimerTest k t).paced = p.paced := by
  simp only [Part.beginTimerTest]
  (repeat' split) <;> simp

@[simp] theorem Part.stallTimerTest_paced (p : Part) (k : Clock) (t : TreeId) :
    (p.stallTimerTest k t).paced = p.paced := by
  simp only [Part.stallTimerTest]
  (repeat' split) <;> simp

@[simp] theorem Part.commitTimerTest_paced (p : Part) (k : Clock) (t : TreeId) :
    (p.commitTimerTest k t).paced = p.paced := by
  simp only [Part.commitTimerTest]
  (repeat' split) <;> simp

@[simp] theorem Part.deadlineTest_paced (p : Part) (k : Clock) (t : TreeId) (h : Nat) :
    (p.deadlineTest k t h).paced = p.paced := by
  simp only [Part.deadlineTest]
  (repeat' split) <;> simp

@[simp] theorem Part.resumeTimerTest_paced (p : Part) (k : Clock) (t : TreeId) :
    (p.resumeTimerTest k t).paced = p.paced := by
  simp only [Part.resumeTimerTest]
  (repeat' split) <;> simp

@[simp] theorem Part.tenthTests_paced (p : Part) (k : Clock) (t : TreeId) :
    (p.tenthTests k t).paced = p.paced := by
  simp [Part.tenthTests, Part.foldl_paced _ fun p h => Part.deadlineTest_paced p k t h]

@[simp] theorem Part.staleTests_paced (p : Part) (t : TreeId) :
    (p.staleTests t).paced = p.paced := by
  simp only [Part.staleTests]
  exact Part.foldl_paced _ (fun p h => Part.foldl_paced _ (fun p x => Part.staleTest_paced p t h x) _ p) _ p

@[simp] theorem Part.ageAll_paced (p : Part) :
    (p.ageAll).paced = p.paced := by
  simp only [Part.ageAll]
  (repeat' split) <;> simp

@[simp] theorem Part.spanStep_paced (p : Part) (k : Clock) (t : TreeId) :
    (p.spanStep k t).paced = p.paced := by
  simp only [Part.spanStep]
  (repeat' split) <;> simp

@[simp] theorem Part.settleStep_paced (p : Part) (k : Clock) (t : TreeId) :
    (p.settleStep k t).paced = p.paced := by
  simp only [Part.settleStep]
  (repeat' split) <;> simp

end Sys2Proof.Machine
end

