-- ==== Sys2Proof/Laws/Apart.lean ====
section
/-!
SUPPORT. Laws/Apart.lean: the trees' work of a cycle start is apart: what one tree does leaves another tree and its records
alone (`own`).
-/

namespace Sys2Proof.Machine

/-- A tree and its records. -/
def Part.own (p : Part) (u : TreeId) : Tree × List Record := (p.tree u, p.recordsOf u)

theorem Part.own_eq {p q : Part} {u : TreeId} (h : q.own u = p.own u) :
    q.tree u = p.tree u ∧ q.recordsOf u = p.recordsOf u := by
  simpa [Part.own] using h

/-! ### The primitive changes -/

variable {t u : TreeId}

@[simp] theorem Part.modTree_own (hu : u ≠ t) (p : Part) (f : Tree → Tree) : (p.modTree t f).own u = p.own u := by
  simp [Part.own, Part.tree_modTree_ne _ hu, Part.recordsOf]

@[simp] theorem Part.modEngine_own (hu : u ≠ t) (p : Part) (f : Engine → Engine) : (p.modEngine t f).own u = p.own u :=
  Part.modTree_own hu _ _
@[simp] theorem Part.modGuard_own (hu : u ≠ t) (p : Part) (f : Guard → Guard) : (p.modGuard t f).own u = p.own u :=
  Part.modTree_own hu _ _
@[simp] theorem Part.modCounters_own (hu : u ≠ t) (p : Part) (f : Counters → Counters) :
    (p.modCounters t f).own u = p.own u := Part.modTree_own hu _ _
@[simp] theorem Part.modExpectations_own (hu : u ≠ t) (p : Part) (f : List Expectation → List Expectation) :
    (p.modExpectations t f).own u = p.own u := Part.modTree_own hu _ _
@[simp] theorem Part.raise_own (p : Part) (n : Notice) (u : TreeId) : (p.raise n).own u = p.own u := rfl
@[simp] theorem Part.raiseTerminal_own (p : Part) (r : Record) (old new : RecState) (c : Cause) (u : TreeId) :
    (p.raiseTerminal r old new c).own u = p.own u := rfl

/-- A change of each record that keeps its tree changes the records of a tree one by one. -/
theorem filter_tree_map (f : Record → Record) (hf : ∀ r, (f r).tree = r.tree) (l : List Record) (u : TreeId) :
    (l.map f).filter (·.tree == u) = (l.filter (·.tree == u)).map f := by
  induction l with
  | nil => rfl
  | cons r l ih =>
    simp only [List.map_cons, List.filter_cons, hf]
    split <;> simp [ih]

/-- A change of each record that keeps its tree, and leaves alone the records of another tree. -/
theorem Part.mapRecords_own (p : Part) (f : Record → Record) (hf : ∀ r, (f r).tree = r.tree)
    (hu : ∀ r, r.tree = u → f r = r) : ({ p with records := p.records.map f } : Part).own u = p.own u := by
  have h : (p.records.map f).filter (·.tree == u) = p.records.filter (·.tree == u) := by
    rw [filter_tree_map f hf, List.map_congr_left (g := id) fun r hr => hu r (by simpa using (List.mem_filter.1 hr).2)]
    simp
  simp [Part.own, Part.tree, Part.recordsOf, h]

theorem Part.modRecord_own (hu : u ≠ t) (p : Part) (h : Nat) (f : Record → Record) (hf : ∀ r, (f r).tree = r.tree) :
    (p.modRecord t h f).own u = p.own u := by
  refine Part.mapRecords_own p _ (fun r => by split <;> simp [hf]) fun r hr => ?_
  rw [if_neg]
  simp [Record.named, hr, hu]

theorem Part.foldl_own {α : Type} (f : Part → α → Part) (hf : ∀ p a, (f p a).own u = p.own u) (l : List α) (p : Part) :
    (l.foldl f p).own u = p.own u := by
  induction l generalizing p with
  | nil => rfl
  | cons a l ih => rw [List.foldl_cons, ih, hf]

/-! ### The blocks -/

@[simp] theorem Part.markUnsent_own (hu : u ≠ t) (p : Part) (o : Order) (v : Bool) :
    (p.markUnsent t o v).own u = p.own u := by
  cases o <;> try rfl
  refine Part.mapRecords_own p _ (fun r => by split <;> rfl) fun r hr => ?_
  rw [if_neg]
  simp [Record.named, hr, hu]

@[simp] theorem Part.reofferList_own (hu : u ≠ t) (p : Part) (os : List Order) : (p.reofferList t os).own u = p.own u := by
  induction os generalizing p with
  | nil => simp [Part.reofferList, hu]
  | cons o rest ih =>
    simp only [Part.reofferList]
    split <;> simp [ih, hu]

@[simp] theorem Part.reoffer_own (hu : u ≠ t) (p : Part) : (p.reoffer t).own u = p.own u :=
  Part.reofferList_own hu _ _

@[simp] theorem Part.pauseUpdate_own (hu : u ≠ t) (p : Part) (k : Clock) : (p.pauseUpdate k t).own u = p.own u := by
  simp only [Part.pauseUpdate]
  (repeat' split) <;> simp [hu]

@[simp] theorem Part.raiseAsk_own (hu : u ≠ t) (p : Part) (k : Clock) : (p.raiseAsk k t).own u = p.own u := by
  simp only [Part.raiseAsk]
  (repeat' split) <;> simp [hu]

@[simp] theorem Part.streamAsk_own (hu : u ≠ t) (p : Part) (k : Clock) : (p.streamAsk k t).own u = p.own u := by
  simp only [Part.streamAsk]
  (repeat' split) <;> simp [hu]

@[simp] theorem Part.enterStreaming_own (hu : u ≠ t) (p : Part) (k : Clock) : (p.enterStreaming k t).own u = p.own u := by
  simp only [Part.enterStreaming]
  rw [Part.pauseUpdate_own hu, Part.modRecord_own hu _ _ _ (by simp), Part.modEngine_own hu]

@[simp] theorem Part.settleStep_own (hu : u ≠ t) (p : Part) (k : Clock) : (p.settleStep k t).own u = p.own u := by
  simp only [Part.settleStep]
  (repeat' split) <;> simp [hu]

@[simp] theorem Part.enterAligning_own (hu : u ≠ t) (p : Part) (h : Nat) : (p.enterAligning t h).own u = p.own u := by
  simp only [Part.enterAligning]
  split
  · rfl
  · rw [Part.raiseTerminal_own, Part.modRecord_own hu _ _ _ (by simp)]

@[simp] theorem Part.lagByTagSent_own (hu : u ≠ t) (p : Part) (k : Clock) (g : Tag) (h : Nat) :
    (p.lagByTagSent k t g h).own u = p.own u := by
  simp only [Part.lagByTagSent]
  (repeat' split)
  · rfl
  · rfl
  · rw [Part.modRecord_own hu _ _ _ (by simp [Record.lagSent]), Part.enterAligning_own hu]
  · rw [Part.modRecord_own hu _ _ _ (by simp [Record.lagSent])]

@[simp] theorem Part.reportSent_own (hu : u ≠ t) (p : Part) (k : Clock) (o : Order) :
    (p.reportSent k t o).own u = p.own u := by
  cases o <;> simp only [Part.reportSent]
  · exact Part.lagByTagSent_own hu _ _ _ _
  · exact Part.modRecord_own hu _ _ _ fun _ => rfl
  · simp only [Part.prepareSent]
    split <;> simp [hu]
  · simp only [Part.commitSent]
    split <;> simp [hu]

@[simp] theorem Part.orderCell_own (hu : u ≠ t) (p : Part) (k : Clock) : (p.orderCell k t).1.own u = p.own u := by
  simp only [Part.orderCell]
  split <;> simp [hu]

@[simp] theorem Part.loadOrOrderCell_own (hu : u ≠ t) (p : Part) (k : Clock) :
    (p.loadOrOrderCell k t).1.own u = p.own u := by
  simp only [Part.loadOrOrderCell]
  split <;> simp [hu, Part.cellSupplied]

@[simp] theorem Part.fillField_own (hu : u ≠ t) (p : Part) (k : Clock) : (p.fillField k t).own u = p.own u := by
  simp [Part.fillField, hu]

@[simp] theorem Part.arise_own (hu : u ≠ t) (p : Part) (k : Clock) (f : Factor) (n : Nat) :
    (p.arise k t f n).own u = p.own u := by
  simp only [Part.arise]
  (repeat' split) <;> simp [hu]

@[simp] theorem Part.startResume_own (hu : u ≠ t) (p : Part) (k : Clock) : (p.startResume k t).own u = p.own u := by
  simp only [Part.startResume]
  (repeat' split) <;> simp [hu]

@[simp] theorem Part.spanStep_own (hu : u ≠ t) (p : Part) (k : Clock) : (p.spanStep k t).own u = p.own u := by
  simp only [Part.spanStep, Part.spanEnds, Part.endFactor]
  (repeat' split) <;> simp_all

@[simp] theorem Part.darkStep_own (hu : u ≠ t) (p : Part) (k : Clock) : (p.darkStep k t).own u = p.own u := by
  simp only [Part.darkStep, Part.darkTest]
  (repeat' split) <;> simp [hu]

@[simp] theorem Part.windowStep_own (hu : u ≠ t) (p : Part) (k : Clock) : (p.windowStep k t).own u = p.own u := by
  simp only [Part.windowStep, Part.callStart]
  (repeat' split)
  · rw [Part.mapRecords_own _ _ (fun r => by split <;> rfl) fun r hr => by rw [if_neg]; simp [hr, hu]]
    simp [hu]
  · simp [hu]
  · simp [hu]

@[simp] theorem Part.duesOfTree_own (hu : u ≠ t) (p : Part) (k : Clock) : (p.duesOfTree k t).own u = p.own u :=
  Part.mapRecords_own _ _ (fun r => by split <;> simp) fun r hr => by
    rw [if_neg]
    simp [hr, hu]

@[simp] theorem Part.pollDuesOfTree_own (hu : u ≠ t) (p : Part) (k : Clock) : (p.pollDuesOfTree k t).own u = p.own u :=
  Part.mapRecords_own _ _ (fun r => by split <;> simp [allSlots]) fun r hr => by
    rw [if_neg]
    simp [hr, hu]

@[simp] theorem Part.issueGrant_own (hu : u ≠ t) (p : Part) (k : Clock) (slot : Nat) (x : Candidate) :
    (p.issueGrant k t slot x).own u = p.own u := by
  simp only [Part.issueGrant]
  split <;> simp [hu, Part.modRecord_own]

@[simp] theorem Part.settleSlot_own (hu : u ≠ t) (p : Part) (k : Clock) (slot : Nat) :
    (p.settleSlot k t slot).1.own u = p.own u := by
  simp only [Part.settleSlot]
  (repeat' split) <;> simp [hu]

@[simp] theorem Part.settleSlots_own (hu : u ≠ t) (p : Part) (k : Clock) (slot n : Nat) :
    (p.settleSlots k t slot n).1.own u = p.own u := by
  induction n generalizing p slot with
  | zero => rfl
  | succ n ih => simp [Part.settleSlots, ih, hu]

@[simp] theorem Part.headerStep_own (hu : u ≠ t) (p : Part) (k : Clock) : (p.headerStep k t).own u = p.own u := by
  simp only [Part.headerStep]
  split <;> simp [hu]

/-- The cycle start of one tree leaves every other tree and its records alone. -/
@[simp] theorem Part.treeStart_own (hu : u ≠ t) (p : Part) (k : Clock) (b : Bool) :
    (p.treeStart k b t).own u = p.own u := by
  simp only [Part.treeStart, Part.enabledStart]
  (repeat' split) <;> simp [hu]

/-- The stale tests of one tree's records leave every other tree and its records alone. -/
@[simp] theorem Part.staleTests_own (hu : u ≠ t) (p : Part) : (p.staleTests t).own u = p.own u := by
  refine Part.foldl_own _ (fun p h => Part.foldl_own _ (fun p x => ?_) _ _) _ _
  simp only [Part.staleTest]
  (repeat' split)
  · rfl
  · rw [Part.raise_own, Part.modRecord_own hu _ _ _ (by simp)]
  · rfl

end Sys2Proof.Machine
end

