-- ==== Sys2Proof/Laws/Due.lean ====
section
/-!
SUPPORT. Laws/Due.lean: what the tests of a cycle start make of a record (R107 to R110, R167), said once for each test, and
which slot of a record the poller names.
-/

namespace Sys2Proof.Machine

/-! ### The tests of one record -/

/-- The test of R110 sets the upkeep-due mark or leaves the record alone. -/
theorem Record.upkeepTest_eq (r : Record) (c : CycleNo) :
    r.upkeepTest c =
      { r with
        upkeepDue := r.upkeepDue
          || decide ((r.state = .inService ∨ r.state = .loading)
            ∧ upkeepInterval r.level ≤ cyclesSince c r.lastUpkeepGrant) } := by
  simp only [Record.upkeepTest, Record.upkeepFallsDue]
  rcases r with ⟨⟩
  simp only
  grind

/-- The test of R109 makes a CHECK eligible or leaves the record alone; what it reads of the part are the list and the
orders of the tree. -/
theorem Part.checkEligible_eq (p : Part) (t : TreeId) (T : Tree) (c : CycleNo) (r : Record)
    (h1 : (p.tree t).expectations = T.expectations) (h2 : (p.tree t).queue = T.queue)
    (h3 : (p.tree t).heldOrders = T.heldOrders) :
    p.checkEligible t c r =
      { r with
        check :=
          (if r.check = .afterLag ∧ r.lagSentCycle = some (c - 2)
              ∨ r.check = .afterReply ∧ (∀ x ∈ T.expectations, x.handle ≠ r.handle)
                ∧ (∀ o ∈ T.queue ++ T.heldOrders, o.isLag r.handle = false) then
            .eligible c
          else r.check) } := by
  have e1 : (∀ x ∈ T.expectations, x.handle ≠ r.handle) = (p.expects t r.handle = false) := by simp [Part.expects, h1]
  have e2 : (∀ o ∈ T.queue ++ T.heldOrders, o.isLag r.handle = false)
      = (p.hasOrder t (Order.isLag r.handle) = false) := by
    simp only [Part.hasOrder, h2, h3, List.mem_append]
    simp
    grind
  have e3 : ∀ g : CycleNo, (c = g + 2) = (g = c - 2) := fun g => propext ⟨fun h => by bv_omega, fun h => by bv_omega⟩
  have e4 : (if r.check = .afterLag ∧ r.lagSentCycle = some (c - 2)
        ∨ r.check = .afterReply ∧ (∀ x ∈ T.expectations, x.handle ≠ r.handle)
          ∧ (∀ o ∈ T.queue ++ T.heldOrders, o.isLag r.handle = false) then
        CheckMark.eligible c
      else r.check)
      = (if r.check = .afterLag ∧ r.lagSentCycle = some (c - 2)
          ∨ r.check = .afterReply ∧ p.expects t r.handle = false ∧ p.hasOrder t (Order.isLag r.handle) = false then
        .eligible c
      else r.check) := by
    by_cases h : r.check = .afterLag ∧ r.lagSentCycle = some (c - 2)
        ∨ r.check = .afterReply ∧ p.expects t r.handle = false ∧ p.hasOrder t (Order.isLag r.handle) = false
    · rw [if_pos h, if_pos (by rw [e1, e2]; exact h)]
    · rw [if_neg h, if_neg (by rw [e1, e2]; exact h)]
  rw [e4]
  simp only [Part.checkEligible, beq_iff_eq, e3]
  clear e1 e2 e4
  generalize p.expects t r.handle = waits
  generalize p.hasOrder t (Order.isLag r.handle) = ordered
  rcases r with ⟨⟩
  rename_i lag _ _ _ _ _ _ _ _ _ _ _ _ _ _ _ _ check
  simp only
  cases check <;> cases lag <;> (try simp) <;> cases waits <;> cases ordered <;> (try simp) <;> (try split) <;> (try simp_all)

/-- The test of R167 for one slot. -/
theorem Record.pollDueTest_eq (r : Record) (table : PerSlot TableSlot) (k : Clock) (x : ReportSlot) :
    r.pollDueTest table k x =
      if r.state = .inService then
        { r with polls := r.polls.set x ((r.polls.get x).fallenDue (table.get x) k) }
      else r := by
  have e : r = { r with polls := r.polls.set x (r.polls.get x) } := by cases x <;> rfl
  simp only [Record.pollDueTest, PollSchedule.fallenDue]
  split
  · rename_i l h1 h2
    by_cases hs : r.state = .inService
    · by_cases h3 : (table.get x).kind = 0 <;> by_cases h4 : (table.get x).interval ≤ tenthsSince k.tenth l <;>
        simp [hs, h1, h2, TableSlot.on, h3, h4] <;>
        (cases x <;> simp [PerSlot.set, PerSlot.get] at * <;> rcases r with ⟨⟩ <;> simp_all)
    · simp [hs]
  · rename_i h
    split
    · rw [if_neg]
      · exact e
      rintro ⟨-, h1, h2⟩
      cases hl : (r.polls.get x).lastPoll
      · simp [hl] at h2
      · exact h _ h1 hl
    · rfl

/-- The test of R167 for the three slots. -/
theorem Record.pollDueTests_eq (r : Record) (table : PerSlot TableSlot) (k : Clock) :
    allSlots.foldl (fun r x => r.pollDueTest table k x) r =
      if r.state = .inService then
        { r with
          polls :=
            ⟨r.polls.a.fallenDue table.a k, r.polls.b.fallenDue table.b k, r.polls.c.fallenDue table.c k⟩ }
      else r := by
  simp only [allSlots, List.foldl_cons, List.foldl_nil, Record.pollDueTest_eq]
  by_cases hs : r.state = .inService <;> simp [hs, PerSlot.set, PerSlot.get]

/-- The tests of one record, in their order, are `fallenDue`. -/
theorem Record.tests_eq_fallenDue (p : Part) (t : TreeId) (T : Tree) (k : Clock) (boundary : Bool) (r : Record)
    (h1 : (p.tree t).expectations = T.expectations) (h2 : (p.tree t).queue = T.queue)
    (h3 : (p.tree t).heldOrders = T.heldOrders) :
    (if boundary then
        allSlots.foldl (fun r x => r.pollDueTest p.reportTable k x) ((p.checkEligible t k.cycle r).upkeepTest k.cycle)
      else (p.checkEligible t k.cycle r).upkeepTest k.cycle)
      = r.fallenDue T p.reportTable k boundary := by
  rw [Record.pollDueTests_eq, Record.upkeepTest_eq, Part.checkEligible_eq p t T k.cycle r h1 h2 h3]
  cases boundary <;> simp [Record.fallenDue]
  split <;> rfl

/-! ### The tests of one tree -/

/-- A change of the records of one tree, each keeping its tree, is a change of each in the list of them. -/
theorem filter_tree_map_self (l : List Record) (u : TreeId) (f : Record → Record) (hf : ∀ r, (f r).tree = r.tree) :
    (l.map fun r => if r.tree == u then f r else r).filter (·.tree == u) = (l.filter (·.tree == u)).map f := by
  induction l with
  | nil => rfl
  | cons r l ih =>
    by_cases h : r.tree = u
    · simp [h, hf]
      simpa using ih
    · simp [h]
      simpa using ih

/-- The tests of one tree leave each of its records as `fallenDue` says. -/
theorem Part.dues_recordsOf (p : Part) (k : Clock) (boundary : Bool) (u : TreeId) (T : Tree)
    (h1 : (p.tree u).expectations = T.expectations) (h2 : (p.tree u).queue = T.queue)
    (h3 : (p.tree u).heldOrders = T.heldOrders) :
    (if boundary then (p.duesOfTree k u).pollDuesOfTree k u else p.duesOfTree k u).recordsOf u =
      (p.recordsOf u).map fun r => r.fallenDue T p.reportTable k boundary := by
  have hd := fun r => Record.tests_eq_fallenDue p u T k boundary r h1 h2 h3
  cases boundary
  · simp only [Part.duesOfTree, Part.recordsOf]
    rw [if_neg (by simp), filter_tree_map_self]
    · exact List.map_congr_left fun r _ => by simpa using hd r
    · simp
  · simp only [Part.duesOfTree, Part.recordsOf, Part.pollDuesOfTree]
    rw [if_pos trivial, filter_tree_map_self, filter_tree_map_self, List.map_map]
    · exact List.map_congr_left fun r _ => by simpa using hd r
    · simp
    · simp [allSlots]

/-! ### The slot that the poller names -/

/-- The named slot of a record in IN_SERVICE is the one due longest, the first of equals (R167). -/
theorem Record.namedSlot_iff (r : Record) (table : PerSlot TableSlot) (c : CycleNo) (x : ReportSlot) (d : CycleNo) :
    r.namedSlot table c = some (x, d) ↔
      r.state = .inService ∧ (table.get x).kind ≠ 0 ∧ (r.polls.get x).due = some d
        ∧ ∀ (z : ReportSlot) (e : CycleNo), (table.get z).kind ≠ 0 → (r.polls.get z).due = some e →
          cyclesSince c e ≤ cyclesSince c d ∧ (slotCode z < slotCode x → cyclesSince c e < cyclesSince c d) := by
  have hs : ∀ z, r.slotDue table z =
      if r.state = .inService ∧ (table.get z).kind ≠ 0 then (r.polls.get z).due else none := by
    intro z
    simp only [Record.slotDue, TableSlot.on]
    by_cases h1 : r.state = .inService <;> by_cases h2 : (table.get z).kind = 0 <;> simp [h1, h2]
  have all : ∀ (P : ReportSlot → Prop), (∀ z, P z) ↔ P .a ∧ P .b ∧ P .c := fun P =>
    ⟨fun h => ⟨h _, h _, h _⟩, fun h z => by cases z <;> simp [h]⟩
  have key : ∀ u v w : Option CycleNo,
      longerDue c (longerDue c (u.map fun d => (ReportSlot.a, d)) (v.map fun d => (ReportSlot.b, d)))
            (w.map fun d => (ReportSlot.c, d))
          = some (x, d)
        ↔ (⟨u, v, w⟩ : PerSlot (Option CycleNo)).get x = some d
          ∧ ∀ z e, (⟨u, v, w⟩ : PerSlot (Option CycleNo)).get z = some e →
            cyclesSince c e ≤ cyclesSince c d ∧ (slotCode z < slotCode x → cyclesSince c e < cyclesSince c d) := by
    intro u v w
    simp only [all]
    rcases u with _ | u <;> rcases v with _ | v <;> rcases w with _ | w <;> cases x <;>
      simp only [longerDue, slotCode, Option.map, PerSlot.get] <;> grind [slotCode]
  by_cases hst : r.state = .inService
  · simp only [Record.namedSlot, hs, hst, true_and]
    rw [key]
    have e : ∀ z, (⟨if (table.get .a).kind ≠ 0 then (r.polls.get .a).due else none,
        if (table.get .b).kind ≠ 0 then (r.polls.get .b).due else none,
        if (table.get .c).kind ≠ 0 then (r.polls.get .c).due else none⟩ : PerSlot (Option CycleNo)).get z
          = if (table.get z).kind ≠ 0 then (r.polls.get z).due else none := by
      intro z
      cases z <;> rfl
    simp only [e]
    constructor
    · rintro ⟨h1, h2⟩
      split at h1
      · rename_i hk
        exact ⟨hk, h1, fun z e hz he => h2 z e (by rw [if_pos hz]; exact he)⟩
      · cases h1
    · rintro ⟨h1, h2, h3⟩
      refine ⟨by rw [if_pos h1]; exact h2, fun z e he => ?_⟩
      split at he
      · rename_i hz
        exact h3 z e hz he
      · cases he
  · simp [Record.namedSlot, hs, hst, longerDue]

end Sys2Proof.Machine
end

