-- ==== Sys2Proof/Laws/Keeps.lean ====
section
/-!
SUPPORT. Laws/Keeps.lean: what the blocks leave alone. No block operation writes the straps, the internal slots, the
report table, a save, the start-up loader, a tree's lifecycle state or its settings (`kept`).
-/

namespace Sys2Proof.Machine

/-- What only requests, resets and start-up write. -/
structure Kept where
  straps : Straps
  slots : Vector ProfileSlot 16
  reportTable : PerSlot TableSlot
  save : Option Save
  loader : Option Loader
  t0 : Bool × Settings
  t1 : Bool × Settings
  t2 : Bool × Settings
  t3 : Bool × Settings

/-- Lifecycle state and settings of a tree. -/
def Tree.kept (T : Tree) : Bool × Settings := (T.enabled, T.settings)

/-- What only requests, resets and start-up write, of the part. -/
def Part.kept (p : Part) : Kept :=
  ⟨p.straps, p.slots, p.reportTable, p.save, p.loader, p.trees.t0.kept, p.trees.t1.kept, p.trees.t2.kept,
    p.trees.t3.kept⟩

/-! ### The primitive changes -/

theorem Part.kept_trees {p q : Part} (h : q.kept = p.kept) (t : TreeId) :
    (q.tree t).enabled = (p.tree t).enabled ∧ (q.tree t).settings = (p.tree t).settings := by
  simp only [Part.kept, Tree.kept, Kept.mk.injEq, Prod.mk.injEq] at h
  cases t <;> simp [Part.tree, PerTree.get, h]

theorem Part.kept_slots {p q : Part} (h : q.kept = p.kept) : q.slots = p.slots := congrArg Kept.slots h

theorem Part.kept_reportTable {p q : Part} (h : q.kept = p.kept) : q.reportTable = p.reportTable :=
  congrArg Kept.reportTable h

theorem Part.modTree_kept (p : Part) (t : TreeId) (f : Tree → Tree) (he : (f (p.tree t)).enabled = (p.tree t).enabled)
    (hs : (f (p.tree t)).settings = (p.tree t).settings) : (p.modTree t f).kept = p.kept := by
  cases t <;>
    (simp only [Part.tree, PerTree.get] at he hs
     simp [Part.modTree, Part.kept, Tree.kept, PerTree.set, PerTree.get, he, hs])

@[simp] theorem Part.modEngine_kept (p : Part) (t : TreeId) (f : Engine → Engine) : (p.modEngine t f).kept = p.kept :=
  Part.modTree_kept _ _ _ rfl rfl
@[simp] theorem Part.modGuard_kept (p : Part) (t : TreeId) (f : Guard → Guard) : (p.modGuard t f).kept = p.kept :=
  Part.modTree_kept _ _ _ rfl rfl
@[simp] theorem Part.modCounters_kept (p : Part) (t : TreeId) (f : Counters → Counters) :
    (p.modCounters t f).kept = p.kept := Part.modTree_kept _ _ _ rfl rfl
@[simp] theorem Part.modExpectations_kept (p : Part) (t : TreeId) (f : List Expectation → List Expectation) :
    (p.modExpectations t f).kept = p.kept := Part.modTree_kept _ _ _ rfl rfl
@[simp] theorem Part.raise_kept (p : Part) (n : Notice) : (p.raise n).kept = p.kept := rfl
@[simp] theorem Part.raiseTerminal_kept (p : Part) (r : Record) (old new : RecState) (c : Cause) :
    (p.raiseTerminal r old new c).kept = p.kept := rfl
@[simp] theorem Part.modRecord_kept (p : Part) (t : TreeId) (h : Nat) (f : Record → Record) :
    (p.modRecord t h f).kept = p.kept := rfl
@[simp] theorem Part.modEntry_kept (p : Part) (g : Tag) (f : AdmitEntry → AdmitEntry) :
    (p.modEntry g f).kept = p.kept := rfl

/-- A change of the rest of the part. -/
@[simp] theorem Part.rest_kept (trees : PerTree Tree) (records : List Record) (admission : List AdmitEntry)
    (unclaimedTags : List UnclaimedEntry) (master : Master) (raised : List Notice) (straps : Straps)
    (slots : Vector ProfileSlot 16) (reportTable : PerSlot TableSlot) (save : Option Save) (savesBegun : Nat) (loader : Option Loader) :
    Part.kept ⟨straps, trees, records, admission, unclaimedTags, slots, reportTable, master, save, savesBegun, loader, raised⟩ =
      ⟨straps, slots, reportTable, save, loader, trees.t0.kept, trees.t1.kept, trees.t2.kept, trees.t3.kept⟩ := rfl

/-- The parts of `kept` make it up. -/
@[simp] theorem Part.kept_eta (p : Part) :
    (⟨p.straps, p.slots, p.reportTable, p.save, p.loader, p.trees.t0.kept, p.trees.t1.kept, p.trees.t2.kept,
      p.trees.t3.kept⟩ : Kept) = p.kept := rfl

/-! ### Changes of one tree -/

@[simp] theorem Tree.cancelLeadIn_enabled (T : Tree) : (T.cancelLeadIn).enabled = T.enabled := by
  simp only [Tree.cancelLeadIn]
  (repeat' split) <;> simp

@[simp] theorem Tree.cancelLeadIn_settings (T : Tree) : (T.cancelLeadIn).settings = T.settings := by
  simp only [Tree.cancelLeadIn]
  (repeat' split) <;> simp

@[simp] theorem Tree.advanceTimer_enabled (T : Tree) : (T.advanceTimer).enabled = T.enabled := by
  simp only [Tree.advanceTimer]
  split <;> rfl
@[simp] theorem Tree.advanceTimer_settings (T : Tree) : (T.advanceTimer).settings = T.settings := by
  simp only [Tree.advanceTimer]
  split <;> rfl
@[simp] theorem Tree.beginWindow_enabled (T : Tree) (c : CycleNo) : (T.beginWindow c).enabled = T.enabled := rfl

@[simp] theorem Tree.beginWindow_settings (T : Tree) (c : CycleNo) : (T.beginWindow c).settings = T.settings := rfl

@[simp] theorem Tree.sendCall_enabled (T : Tree) (c : CycleNo) : (T.sendCall c).enabled = T.enabled := rfl

@[simp] theorem Tree.sendCall_settings (T : Tree) (c : CycleNo) : (T.sendCall c).settings = T.settings := rfl

@[simp] theorem Tree.modWindow_enabled (T : Tree) (f : Window → Window) : (T.modWindow f).enabled = T.enabled := by
  simp only [Tree.modWindow]
  (repeat' split) <;> simp

@[simp] theorem Tree.modWindow_settings (T : Tree) (f : Window → Window) : (T.modWindow f).settings = T.settings := by
  simp only [Tree.modWindow]
  (repeat' split) <;> simp

@[simp] theorem Tree.collide_enabled (T : Tree) : (T.collide).enabled = T.enabled := by
  simp only [Tree.collide]
  (repeat' split) <;> simp

@[simp] theorem Tree.collide_settings (T : Tree) : (T.collide).settings = T.settings := by
  simp only [Tree.collide]
  (repeat' split) <;> simp

@[simp] theorem Tree.hearHello_enabled (T : Tree) (win : Window) (m : Hello) : (T.hearHello win m).enabled = T.enabled := by
  simp only [Tree.hearHello]
  (repeat' split) <;> simp

@[simp] theorem Tree.hearHello_settings (T : Tree) (win : Window) (m : Hello) : (T.hearHello win m).settings = T.settings := by
  simp only [Tree.hearHello]
  (repeat' split) <;> simp

@[simp] theorem Tree.judgeInSpan_enabled (T : Tree) (win : Window) (time : TreeTime) (c : Content) : (T.judgeInSpan win time c).enabled = T.enabled := by
  simp only [Tree.judgeInSpan]
  (repeat' split) <;> simp

@[simp] theorem Tree.judgeInSpan_settings (T : Tree) (win : Window) (time : TreeTime) (c : Content) : (T.judgeInSpan win time c).settings = T.settings := by
  simp only [Tree.judgeInSpan]
  (repeat' split) <;> simp

@[simp] theorem Tree.lightComes_enabled (T : Tree) (now : TreeTime) (dark : Nat) : (T.lightComes now dark).enabled = T.enabled := rfl

@[simp] theorem Tree.lightComes_settings (T : Tree) (now : TreeTime) (dark : Nat) : (T.lightComes now dark).settings = T.settings := rfl

@[simp] theorem Tree.lightGoesOn_enabled (T : Tree) (instant : TreeTime) (lit : Bool) : (T.lightGoesOn instant lit).enabled = T.enabled := by
  simp only [Tree.lightGoesOn]
  (repeat' split) <;> simp

@[simp] theorem Tree.lightGoesOn_settings (T : Tree) (instant : TreeTime) (lit : Bool) : (T.lightGoesOn instant lit).settings = T.settings := by
  simp only [Tree.lightGoesOn]
  (repeat' split) <;> simp

@[simp] theorem Tree.seekEnds_enabled (T : Tree) (q : Seek) (rest : List Seek) (lit : Bool) : (T.seekEnds q rest lit).enabled = T.enabled := by
  simp only [Tree.seekEnds]
  (repeat' split) <;> simp

@[simp] theorem Tree.seekEnds_settings (T : Tree) (q : Seek) (rest : List Seek) (lit : Bool) : (T.seekEnds q rest lit).settings = T.settings := by
  simp only [Tree.seekEnds]
  (repeat' split) <;> simp

@[simp] theorem Tree.delimiter_enabled (T : Tree) (now : TreeTime) (pos : Nat) (q : Seek) : (T.delimiter now pos q).enabled = T.enabled := rfl

@[simp] theorem Tree.delimiter_settings (T : Tree) (now : TreeTime) (pos : Nat) (q : Seek) : (T.delimiter now pos q).settings = T.settings := rfl

@[simp] theorem Tree.finishBursts_enabled (T : Tree) : (T.finishBursts).enabled = T.enabled := rfl

@[simp] theorem Tree.finishBursts_settings (T : Tree) : (T.finishBursts).settings = T.settings := rfl

@[simp] theorem Tree.burstEnds_enabled (T : Tree) (now : TreeTime) (endCode lit : Bool) : (T.burstEnds now endCode lit).enabled = T.enabled := by
  simp only [Tree.burstEnds]
  (repeat' split) <;> simp

@[simp] theorem Tree.burstEnds_settings (T : Tree) (now : TreeTime) (endCode lit : Bool) : (T.burstEnds now endCode lit).settings = T.settings := by
  simp only [Tree.burstEnds]
  (repeat' split) <;> simp

@[simp] theorem Tree.decoded_enabled (T : Tree) (quarter : QuarterNo) (n : Nat) (cell : List Byte) : (T.decoded quarter n cell).enabled = T.enabled := by
  simp only [Tree.decoded]
  (repeat' split) <;> simp

@[simp] theorem Tree.decoded_settings (T : Tree) (quarter : QuarterNo) (n : Nat) (cell : List Byte) : (T.decoded quarter n cell).settings = T.settings := by
  simp only [Tree.decoded]
  (repeat' split) <;> simp

@[simp] theorem Tree.openStart_enabled (T : Tree) (c : CycleNo) : (T.openStart c).enabled = T.enabled := by
  simp only [Tree.openStart]
  (repeat' split) <;> simp

@[simp] theorem Tree.openStart_settings (T : Tree) (c : CycleNo) : (T.openStart c).settings = T.settings := by
  simp only [Tree.openStart]
  (repeat' split) <;> simp

@[simp] theorem Tree.lightAtStart_enabled (T : Tree) (lit : Bool) : (T.lightAtStart lit).enabled = T.enabled := by
  simp only [Tree.lightAtStart]
  (repeat' split) <;> simp

@[simp] theorem Tree.lightAtStart_settings (T : Tree) (lit : Bool) : (T.lightAtStart lit).settings = T.settings := by
  simp only [Tree.lightAtStart]
  (repeat' split) <;> simp

@[simp] theorem Tree.disabledStart_enabled (T : Tree) (c : CycleNo) : (T.disabledStart c).enabled = T.enabled := rfl

@[simp] theorem Tree.disabledStart_settings (T : Tree) (c : CycleNo) : (T.disabledStart c).settings = T.settings := rfl

@[simp] theorem Tree.closeStart_enabled (T : Tree) : (T.closeStart).enabled = T.enabled := rfl

@[simp] theorem Tree.closeStart_settings (T : Tree) : (T.closeStart).settings = T.settings := rfl

/-- A fold of changes that keep `kept` keeps it. -/
theorem Part.foldl_kept {α : Type} (f : Part → α → Part) (hf : ∀ p a, (f p a).kept = p.kept) (l : List α) (p : Part) :
    (l.foldl f p).kept = p.kept := by
  induction l generalizing p with
  | nil => rfl
  | cons a l ih => rw [List.foldl_cons, ih, hf]

/-! ### The blocks -/

@[simp] theorem Part.dropRecord_kept (p : Part) (t : TreeId) (h : Nat) :
    (p.dropRecord t h).kept = p.kept := by
  simp only [Part.dropRecord]
  (repeat' split) <;> simp

@[simp] theorem Part.markUnsent_kept (p : Part) (t : TreeId) (o : Order) (v : Bool) :
    (p.markUnsent t o v).kept = p.kept := by
  simp only [Part.markUnsent]
  (repeat' split) <;> simp

@[simp] theorem Part.offer_kept (p : Part) (t : TreeId) (o : Order) :
    (p.offer t o).kept = p.kept := by
  simp only [Part.offer]
  (repeat' split) <;> simp [Part.modTree_kept]

@[simp] theorem Part.withdraw_kept (p : Part) (t : TreeId) (f : Order → Bool) :
    (p.withdraw t f).kept = p.kept := by
  simp only [Part.withdraw]
  rw [Part.foldl_kept _ fun p o => Part.markUnsent_kept p t o false]
  simp [Part.modTree_kept]

@[simp] theorem Part.reofferList_kept (p : Part) (t : TreeId) (x0 : List Order) :
    (p.reofferList t x0).kept = p.kept := by
  induction x0 generalizing p with
  | nil => simp [Part.reofferList, Part.modTree_kept]
  | cons o rest ih =>
    simp only [Part.reofferList]
    split <;> simp [ih, Part.modTree_kept]

@[simp] theorem Part.reoffer_kept (p : Part) (t : TreeId) :
    (p.reoffer t).kept = p.kept := by
  simp only [Part.reoffer]
  (repeat' split) <;> simp

@[simp] theorem Part.orphan_kept (p : Part) (t : TreeId) (h : Nat) :
    (p.orphan t h).kept = p.kept := by
  simp only [Part.orphan]
  (repeat' split) <;> simp

@[simp] theorem Part.orphanLoadStatus_kept (p : Part) (t : TreeId) (h : Nat) :
    (p.orphanLoadStatus t h).kept = p.kept := by
  simp only [Part.orphanLoadStatus]
  (repeat' split) <;> simp

@[simp] theorem Part.noLongerWaiting_kept (p : Part) (x0 : Requester) :
    (p.noLongerWaiting x0).kept = p.kept := by
  cases x0 <;> simp [Part.noLongerWaiting, Part.modTree_kept]

@[simp] theorem Part.serveBus_kept (p : Part) :
    (p.serveBus).kept = p.kept := by
  simp only [Part.serveBus]
  (repeat' split) <;> simp

@[simp] theorem Part.endTransfer_kept (p : Part) :
    (p.endTransfer).kept = p.kept := by
  simp only [Part.endTransfer]
  (repeat' split) <;> simp

@[simp] theorem Part.requestFetch_kept (p : Part) (t : TreeId) (kind : TransferKind) (address length : Nat) :
    (p.requestFetch t kind address length).kept = p.kept := by
  simp only [Part.requestFetch]
  (repeat' split) <;> simp [Part.modTree_kept]

@[simp] theorem Part.dropFetch_kept (p : Part) (t : TreeId) :
    (p.dropFetch t).kept = p.kept := by
  simp only [Part.dropFetch]
  (repeat' split) <;> exact Part.modTree_kept p t (fun T => { T with fetchWait := none }) rfl rfl

@[simp] theorem Part.pauseUpdate_kept (p : Part) (k : Clock) (t : TreeId) :
    (p.pauseUpdate k t).kept = p.kept := by
  simp only [Part.pauseUpdate]
  (repeat' split) <;> simp

@[simp] theorem Part.refill_kept (p : Part) (k : Clock) (t : TreeId) :
    (p.refill k t).kept = p.kept := by
  simp only [Part.refill]
  (repeat' split) <;> simp

@[simp] theorem Part.raiseAsk_kept (p : Part) (k : Clock) (t : TreeId) :
    (p.raiseAsk k t).kept = p.kept := by
  simp only [Part.raiseAsk]
  (repeat' split) <;> simp

@[simp] theorem Part.streamAsk_kept (p : Part) (k : Clock) (t : TreeId) :
    (p.streamAsk k t).kept = p.kept := by
  simp only [Part.streamAsk]
  (repeat' split) <;> simp

@[simp] theorem Part.settleAsk_kept (p : Part) (k : Clock) (t : TreeId) :
    (p.settleAsk k t).kept = p.kept := by
  simp only [Part.settleAsk]
  (repeat' split) <;> simp

@[simp] theorem Part.holdRecord_kept (p : Part) (t : TreeId) (h : Nat) (cause : Cause) :
    (p.holdRecord t h cause).kept = p.kept := by
  simp only [Part.holdRecord]
  (repeat' split) <;> simp

@[simp] theorem Part.enterInService_kept (p : Part) (k : Clock) (t : TreeId) (h : Nat) (cause : Cause) :
    (p.enterInService k t h cause).kept = p.kept := by
  simp only [Part.enterInService]
  (repeat' split) <;> simp

@[simp] theorem Part.startPreparing_kept (p : Part) (k : Clock) (t : TreeId) (h : Nat) (source : Source) (length : Nat) :
    (p.startPreparing k t h source length).kept = p.kept := by
  simp only [Part.startPreparing]
  (repeat' split) <;> simp

@[simp] theorem Part.unavailable_kept (p : Part) (k : Clock) (t : TreeId) (h : Nat) :
    (p.unavailable k t h).1.kept = p.kept := by
  simp only [Part.unavailable]
  (repeat' split) <;> simp

@[simp] theorem Part.resolve_kept (p : Part) (k : Clock) (t : TreeId) (r : Record) (l : Load) :
    (p.resolve k t r l).1.kept = p.kept := by
  simp only [Part.resolve]
  (repeat' split) <;> simp

@[simp] theorem Part.takeOne_kept (p : Part) (k : Clock) (t : TreeId) :
    (p.takeOne k t).1.kept = p.kept := by
  simp only [Part.takeOne]
  (repeat' split) <;> simp [Part.modTree_kept]

@[simp] theorem Part.takeUpTo_kept (p : Part) (k : Clock) (t : TreeId) (x0 : Nat) :
    (p.takeUpTo k t x0).kept = p.kept := by
  induction x0 generalizing p with
  | zero => rfl
  | succ n ih =>
    simp only [Part.takeUpTo]
    split <;> simp [ih]

@[simp] theorem Part.takeTest_kept (p : Part) (k : Clock) (t : TreeId) :
    (p.takeTest k t).kept = p.kept := by
  simp only [Part.takeTest]
  (repeat' split) <;> simp

@[simp] theorem Part.clearPush_kept (p : Part) (t : TreeId) (h : Nat) :
    (p.clearPush t h).kept = p.kept := by
  simp only [Part.clearPush]
  (repeat' split) <;> simp

@[simp] theorem Part.failAttempt_kept (p : Part) (k : Clock) (t : TreeId) (reason : FailReason) (code : Nat) (byTimer : Bool) :
    (p.failAttempt k t reason code byTimer).kept = p.kept := by
  simp only [Part.failAttempt]
  (repeat' split) <;> first | rfl | (simp; done) | (simp; rw [Part.modTree_kept _ _ _ rfl rfl]; simp)

@[simp] theorem Part.abortPush_kept (p : Part) (k : Clock) (t : TreeId) (h : Nat) :
    (p.abortPush k t h).kept = p.kept := by
  simp only [Part.abortPush]
  (repeat' split) <;> simp

@[simp] theorem Part.leavePush_kept (p : Part) (k : Clock) (t : TreeId) (h : Nat) :
    (p.leavePush k t h).kept = p.kept := by
  simp only [Part.leavePush]
  (repeat' split) <;> simp [Part.modTree_kept]

@[simp] theorem Part.joinQueue_kept (p : Part) (k : Clock) (t : TreeId) (h : Nat) :
    (p.joinQueue k t h).kept = p.kept := by
  simp only [Part.joinQueue]
  (repeat' split) <;> simp [Part.modTree_kept]

@[simp] theorem Part.enterStreaming_kept (p : Part) (k : Clock) (t : TreeId) :
    (p.enterStreaming k t).kept = p.kept := by
  simp only [Part.enterStreaming]
  (repeat' split) <;> simp

@[simp] theorem Part.enterSettling_kept (p : Part) (k : Clock) (t : TreeId) :
    (p.enterSettling k t).kept = p.kept := by
  simp only [Part.enterSettling]
  (repeat' split) <;> simp

@[simp] theorem Part.enterCommitting_kept (p : Part) (t : TreeId) :
    (p.enterCommitting t).kept = p.kept := by
  simp only [Part.enterCommitting]
  (repeat' split) <;> simp

@[simp] theorem Part.pushDone_kept (p : Part) (k : Clock) (t : TreeId) (h : Nat) :
    (p.pushDone k t h).kept = p.kept := by
  simp only [Part.pushDone]
  (repeat' split) <;> simp

@[simp] theorem Part.preparingOutcome_kept (p : Part) (k : Clock) (t : TreeId) (x0 : StatusOutcome) :
    (p.preparingOutcome k t x0).kept = p.kept := by
  simp only [Part.preparingOutcome]
  (repeat' split) <;> simp

@[simp] theorem Part.acknowledge_kept (p : Part) (k : Clock) (t : TreeId) (n sentMark : Nat) :
    (p.acknowledge k t n sentMark).kept = p.kept := by
  simp only [Part.acknowledge]
  (repeat' split) <;> simp

@[simp] theorem Part.streamingOutcome_kept (p : Part) (k : Clock) (t : TreeId) (x0 : StatusOutcome) :
    (p.streamingOutcome k t x0).kept = p.kept := by
  simp only [Part.streamingOutcome]
  (repeat' split) <;> simp

@[simp] theorem Part.committingOutcome_kept (p : Part) (k : Clock) (t : TreeId) (h : Nat) (x0 : StatusOutcome) :
    (p.committingOutcome k t h x0).kept = p.kept := by
  simp only [Part.committingOutcome]
  (repeat' split) <;> simp

@[simp] theorem Part.pushOutcome_kept (p : Part) (k : Clock) (t : TreeId) (h : Nat) (o : StatusOutcome) :
    (p.pushOutcome k t h o).kept = p.kept := by
  simp only [Part.pushOutcome]
  (repeat' split) <;> simp

@[simp] theorem Part.prepareSent_kept (p : Part) (k : Clock) (t : TreeId) (h : Nat) :
    (p.prepareSent k t h).kept = p.kept := by
  simp only [Part.prepareSent]
  (repeat' split) <;> simp

@[simp] theorem Part.commitSent_kept (p : Part) (k : Clock) (t : TreeId) (h : Nat) :
    (p.commitSent k t h).kept = p.kept := by
  simp only [Part.commitSent]
  (repeat' split) <;> simp

@[simp] theorem Part.cellSupplied_kept (p : Part) (k : Clock) (t : TreeId) :
    (p.cellSupplied k t).kept = p.kept := by
  simp only [Part.cellSupplied]
  (repeat' split) <;> simp

@[simp] theorem Part.directoryRead_kept (p : Part) (k : Clock) (t : TreeId) (bs : List Byte) :
    (p.directoryRead k t bs).kept = p.kept := by
  simp only [Part.directoryRead]
  (repeat' split) <;> simp

@[simp] theorem Part.dataRead_kept (p : Part) (k : Clock) (t : TreeId) (bs : List Byte) :
    (p.dataRead k t bs).kept = p.kept := by
  simp only [Part.dataRead]
  (repeat' split) <;> simp

@[simp] theorem Part.arise_kept (p : Part) (k : Clock) (t : TreeId) (f : Factor) (measure : Nat) :
    (p.arise k t f measure).kept = p.kept := by
  simp only [Part.arise]
  split
  · simp
  · rw [Part.modTree_kept]
    all_goals simp

@[simp] theorem Part.startResume_kept (p : Part) (k : Clock) (t : TreeId) :
    (p.startResume k t).kept = p.kept := by
  simp only [Part.startResume]
  (repeat' split) <;> simp

@[simp] theorem Part.endFactor_kept (p : Part) (k : Clock) (t : TreeId) (f : Factor) :
    (p.endFactor k t f).kept = p.kept := by
  simp only [Part.endFactor]
  (repeat' split) <;> simp

@[simp] theorem Part.strayEvent_kept (p : Part) (k : Clock) (t : TreeId) :
    (p.strayEvent k t).kept = p.kept := by
  simp only [Part.strayEvent]
  (repeat' split) <;> simp

@[simp] theorem Part.spanEnds_kept (p : Part) (k : Clock) (t : TreeId) :
    (p.spanEnds k t).kept = p.kept := by
  simp only [Part.spanEnds]
  (repeat' split) <;> simp [Part.modTree_kept]

@[simp] theorem Part.darkTest_kept (p : Part) (k : Clock) (t : TreeId) :
    (p.darkTest k t).kept = p.kept := by
  simp only [Part.darkTest]
  (repeat' split) <;> simp [Part.modTree_kept]

@[simp] theorem Part.onsetEndsDark_kept (p : Part) (k : Clock) (t : TreeId) :
    (p.onsetEndsDark k t).kept = p.kept := by
  simp only [Part.onsetEndsDark]
  (repeat' split) <;> simp

@[simp] theorem Part.stormTest_kept (p : Part) (k : Clock) (t : TreeId) (c : Nat) :
    (p.stormTest k t c).kept = p.kept := by
  simp only [Part.stormTest]
  (repeat' split) <;> simp

@[simp] theorem Part.leaveHush_kept (p : Part) (k : Clock) (t : TreeId) :
    (p.leaveHush k t).kept = p.kept := by
  simp only [Part.leaveHush]
  (repeat' split) <;> simp

@[simp] theorem Part.guardMaskStored_kept (p : Part) (k : Clock) (t : TreeId) :
    (p.guardMaskStored k t).kept = p.kept := by
  simp only [Part.guardMaskStored]
  (repeat' split) <;> simp

@[simp] theorem Part.enterHeard_kept (p : Part) (k : Clock) (t : TreeId) (h : Nat) (cause : Cause) :
    (p.enterHeard k t h cause).kept = p.kept := by
  simp only [Part.enterHeard]
  (repeat' split) <;> simp

@[simp] theorem Part.enterAligning_kept (p : Part) (t : TreeId) (h : Nat) :
    (p.enterAligning t h).kept = p.kept := by
  simp only [Part.enterAligning]
  (repeat' split) <;> simp

@[simp] theorem Part.enterLoading_kept (p : Part) (k : Clock) (t : TreeId) (h profile : Nat) (cause : Cause) :
    (p.enterLoading k t h profile cause).kept = p.kept := by
  simp only [Part.enterLoading]
  (repeat' split) <;> simp

@[simp] theorem Part.confirm_kept (p : Part) (k : Clock) (t : TreeId) (h : Nat) :
    (p.confirm k t h).kept = p.kept := by
  simp only [Part.confirm]
  (repeat' split) <;> simp

@[simp] theorem Part.enterRefind_kept (p : Part) (k : Clock) (t : TreeId) (h : Nat) (cause : Cause) :
    (p.enterRefind k t h cause).kept = p.kept := by
  simp only [Part.enterRefind]
  (repeat' split) <;> simp

@[simp] theorem Part.enterHeld_kept (p : Part) (k : Clock) (t : TreeId) (h : Nat) (cause : Cause) :
    (p.enterHeld k t h cause).kept = p.kept := by
  simp only [Part.enterHeld]
  (repeat' split) <;> simp

@[simp] theorem Part.freeRecord_kept (p : Part) (k : Clock) (t : TreeId) (h : Nat) (cause : Cause) :
    (p.freeRecord k t h cause).kept = p.kept := by
  simp only [Part.freeRecord]
  (repeat' split) <;> simp [Part.modTree_kept]

@[simp] theorem Part.hearUnclaimed_kept (p : Part) (k : Clock) (t : TreeId) (m : Measured) :
    (p.hearUnclaimed k t m).kept = p.kept := by
  simp only [Part.hearUnclaimed]
  (repeat' split) <;> simp

@[simp] theorem Part.hearIgnored_kept (p : Part) (g : Tag) :
    (p.hearIgnored g).kept = p.kept := by
  simp only [Part.hearIgnored]
  (repeat' split) <;> simp

@[simp] theorem Part.hearWrongTree_kept (p : Part) (k : Clock) (t : TreeId) (m : Measured) (e : AdmitEntry) :
    (p.hearWrongTree k t m e).kept = p.kept := by
  simp only [Part.hearWrongTree]
  (repeat' split) <;> simp

@[simp] theorem Part.holdDuplicate_kept (p : Part) (k : Clock) (r : Record) :
    (p.holdDuplicate k r).kept = p.kept := by
  simp only [Part.holdDuplicate]
  (repeat' split) <;> simp

@[simp] theorem Part.hearDuplicate_kept (p : Part) (k : Clock) (t : TreeId) (r : Record) :
    (p.hearDuplicate k t r).kept = p.kept := by
  simp only [Part.hearDuplicate]
  (repeat' split) <;> simp

@[simp] theorem Part.holdOutOfReach_kept (p : Part) (k : Clock) (t : TreeId) (h : Nat) (m : Measured) :
    (p.holdOutOfReach k t h m).kept = p.kept := by
  simp only [Part.holdOutOfReach]
  (repeat' split) <;> simp

@[simp] theorem Part.hearBound_kept (p : Part) (k : Clock) (t : TreeId) (m : Measured) (r : Record) :
    (p.hearBound k t m r).kept = p.kept := by
  simp only [Part.hearBound]
  (repeat' split) <;> simp

@[simp] theorem Part.turnAway_kept (p : Part) (t : TreeId) (m : Measured) :
    (p.turnAway t m).kept = p.kept := by
  simp only [Part.turnAway]
  (repeat' split) <;> simp [Part.modTree_kept]

@[simp] theorem Part.makeRecord_kept (p : Part) (t : TreeId) (h : Nat) (m : Measured) :
    (p.makeRecord t h m).kept = p.kept := by
  simp only [Part.makeRecord]
  (repeat' split) <;> simp

@[simp] theorem Part.hearNew_kept (p : Part) (t : TreeId) (m : Measured) :
    (p.hearNew t m).kept = p.kept := by
  simp only [Part.hearNew]
  (repeat' split) <;> simp

@[simp] theorem Part.hearOtherTree_kept (p : Part) (k : Clock) (t : TreeId) (m : Measured) (r : Record) :
    (p.hearOtherTree k t m r).kept = p.kept := by
  simp only [Part.hearOtherTree]
  (repeat' split) <;> simp

@[simp] theorem Part.takeHello_kept (p : Part) (k : Clock) (t : TreeId) (m : Measured) :
    (p.takeHello k t m).kept = p.kept := by
  simp only [Part.takeHello]
  (repeat' split) <;> simp

@[simp] theorem Part.staleTest_kept (p : Part) (t : TreeId) (h : Nat) (x : ReportSlot) :
    (p.staleTest t h x).kept = p.kept := by
  simp only [Part.staleTest]
  (repeat' split) <;> simp

@[simp] theorem Part.raiseHealth_kept (p : Part) (k : Clock) (t : TreeId) (h : Nat) (event : HealthEvent) (errors : Nat) :
    (p.raiseHealth k t h event errors).kept = p.kept := by
  simp only [Part.raiseHealth]
  (repeat' split) <;> simp

@[simp] theorem Part.takeAttention_kept (p : Part) (k : Clock) (t : TreeId) (h : Nat) (flag : Bool) :
    (p.takeAttention k t h flag).kept = p.kept := by
  simp only [Part.takeAttention]
  (repeat' split) <;> simp

@[simp] theorem Part.countClean_kept (p : Part) (k : Clock) (t : TreeId) (h : Nat) :
    (p.countClean k t h).kept = p.kept := by
  simp only [Part.countClean]
  (repeat' split) <;> simp

@[simp] theorem Part.countMiss_kept (p : Part) (k : Clock) (t : TreeId) (h : Nat) :
    (p.countMiss k t h).kept = p.kept := by
  simp only [Part.countMiss]
  (repeat' split) <;> simp

@[simp] theorem Part.countErrored_kept (p : Part) (k : Clock) (t : TreeId) (h : Nat) :
    (p.countErrored k t h).kept = p.kept := by
  simp only [Part.countErrored]
  (repeat' split) <;> simp

@[simp] theorem Part.countOutcome_kept (p : Part) (k : Clock) (t : TreeId) (h : Nat) (x0 : MatchOutcome) :
    (p.countOutcome k t h x0).kept = p.kept := by
  simp only [Part.countOutcome]
  (repeat' split) <;> simp

@[simp] theorem Part.moveLag_kept (p : Part) (t : TreeId) (r : Record) (lag : Nat) :
    (p.moveLag t r lag).kept = p.kept := by
  simp only [Part.moveLag]
  (repeat' split) <;> simp

@[simp] theorem Part.checkFailed_kept (p : Part) (k : Clock) (t : TreeId) (h : Nat) :
    (p.checkFailed k t h).kept = p.kept := by
  simp only [Part.checkFailed]
  (repeat' split) <;> simp

@[simp] theorem Part.judgeCheck_kept (p : Part) (k : Clock) (t : TreeId) (h : Nat) (grant : CycleNo) (e : Int) :
    (p.judgeCheck k t h grant e).kept = p.kept := by
  simp only [Part.judgeCheck]
  (repeat' split) <;> simp

@[simp] theorem Part.judgeUpkeep_kept (p : Part) (k : Clock) (t : TreeId) (h : Nat) (grant : CycleNo) (e : Int) :
    (p.judgeUpkeep k t h grant e).kept = p.kept := by
  simp only [Part.judgeUpkeep]
  (repeat' split) <;> simp

@[simp] theorem Part.raiseLadder_kept (p : Part) (t : TreeId) (h : Nat) :
    (p.raiseLadder t h).kept = p.kept := by
  simp only [Part.raiseLadder]
  (repeat' split) <;> simp

@[simp] theorem Part.checkOutcome_kept (p : Part) (k : Clock) (t : TreeId) (h : Nat) (grant : CycleNo) (o : MatchOutcome) :
    (p.checkOutcome k t h grant o).kept = p.kept := by
  simp only [Part.checkOutcome]
  (repeat' split) <;> simp

@[simp] theorem Part.upkeepOutcome_kept (p : Part) (k : Clock) (t : TreeId) (h : Nat) (grant : CycleNo) (o : MatchOutcome) :
    (p.upkeepOutcome k t h grant o).kept = p.kept := by
  simp only [Part.upkeepOutcome]
  (repeat' split) <;> simp

@[simp] theorem Part.duesOfTree_kept (p : Part) (k : Clock) (t : TreeId) :
    (p.duesOfTree k t).kept = p.kept := by
  simp only [Part.duesOfTree]
  (repeat' split) <;> simp

@[simp] theorem Part.pollDuesOfTree_kept (p : Part) (k : Clock) (t : TreeId) :
    (p.pollDuesOfTree k t).kept = p.kept := by
  simp only [Part.pollDuesOfTree]
  (repeat' split) <;> simp

@[simp] theorem Part.issueGrant_kept (p : Part) (k : Clock) (t : TreeId) (slot : Nat) (x : Candidate) :
    (p.issueGrant k t slot x).kept = p.kept := by
  simp only [Part.issueGrant]
  (repeat' split) <;> simp

@[simp] theorem Part.settleSlot_kept (p : Part) (k : Clock) (t : TreeId) (slot : Nat) :
    (p.settleSlot k t slot).1.kept = p.kept := by
  simp only [Part.settleSlot]
  (repeat' split) <;> simp [Part.modTree_kept]

@[simp] theorem Part.settleSlots_kept (p : Part) (k : Clock) (t : TreeId) (slot : Nat) (x0 : Nat) :
    (p.settleSlots k t slot x0).1.kept = p.kept := by
  induction x0 generalizing p slot with
  | zero => rfl
  | succ n ih => simp [Part.settleSlots, ih]

@[simp] theorem Part.ownerOutcome_kept (p : Part) (k : Clock) (t : TreeId) (x : Expectation) (o : MatchOutcome) :
    (p.ownerOutcome k t x o).kept = p.kept := by
  simp only [Part.ownerOutcome]
  (repeat' split) <;> simp

@[simp] theorem Part.countAndJudge_kept (p : Part) (k : Clock) (t : TreeId) (x : Expectation) (o : MatchOutcome) :
    (p.countAndJudge k t x o).kept = p.kept := by
  simp only [Part.countAndJudge]
  (repeat' split) <;> simp

@[simp] theorem Part.takeOutcome_kept (p : Part) (k : Clock) (t : TreeId) (x : Expectation) (o : MatchOutcome) :
    (p.takeOutcome k t x o).kept = p.kept := by
  simp only [Part.takeOutcome]
  (repeat' split) <;> simp

@[simp] theorem Part.removeEntry_kept (p : Part) (t : TreeId) (x : Expectation) :
    (p.removeEntry t x).kept = p.kept := by
  simp only [Part.removeEntry]
  (repeat' split) <;> simp

@[simp] theorem Part.matchArrival_kept (p : Part) (k : Clock) (t : TreeId) (x : Expectation) (time : TreeTime) (c : Content) :
    (p.matchArrival k t x time c).kept = p.kept := by
  simp only [Part.matchArrival]
  (repeat' split) <;> simp

@[simp] theorem Part.expire_kept (p : Part) (k : Clock) (t : TreeId) (x : Expectation) :
    (p.expire k t x).kept = p.kept := by
  simp only [Part.expire]
  (repeat' split) <;> simp

@[simp] theorem Part.callStart_kept (p : Part) (k : Clock) (t : TreeId) :
    (p.callStart k t).kept = p.kept := Part.modTree_kept p t (·.sendCall k.cycle) rfl rfl

@[simp] theorem Part.closeWindow_kept (p : Part) (k : Clock) (t : TreeId) (win : Window) :
    (p.closeWindow k t win).kept = p.kept := by
  simp only [Part.closeWindow]
  (repeat' split) <;> simp [Part.modTree_kept]

@[simp] theorem Part.rawHello_kept (p : Part) (t : TreeId) (m : Hello) :
    (p.rawHello t m).kept = p.kept := by
  simp only [Part.rawHello]
  (repeat' split) <;> simp [Part.modTree_kept]

@[simp] theorem Part.takeStamps_kept (p : Part) (t : TreeId) (m : Hello) :
    (p.takeStamps t m).kept = p.kept := by
  simp only [Part.takeStamps]
  (repeat' split) <;> simp [Part.modTree_kept]

@[simp] theorem Part.dispatch_kept (p : Part) (k : Clock) (t : TreeId) (a : Arrival) :
    (p.dispatch k t a).kept = p.kept := by
  simp only [Part.dispatch]
  (repeat' split) <;> simp [Part.modTree_kept]

@[simp] theorem Part.lagByTagSent_kept (p : Part) (k : Clock) (t : TreeId) (g : Tag) (h : Nat) :
    (p.lagByTagSent k t g h).kept = p.kept := by
  simp only [Part.lagByTagSent]
  (repeat' split) <;> simp

@[simp] theorem Part.lagByHandleSent_kept (p : Part) (k : Clock) (t : TreeId) (h : Nat) :
    (p.lagByHandleSent k t h).kept = p.kept := by
  simp only [Part.lagByHandleSent]
  (repeat' split) <;> simp

@[simp] theorem Part.reportSent_kept (p : Part) (k : Clock) (t : TreeId) (x0 : Order) :
    (p.reportSent k t x0).kept = p.kept := by
  simp only [Part.reportSent]
  (repeat' split) <;> simp

@[simp] theorem Part.orderCell_kept (p : Part) (k : Clock) (t : TreeId) :
    (p.orderCell k t).1.kept = p.kept := by
  simp only [Part.orderCell]
  (repeat' split) <;> simp [Part.modTree_kept]

@[simp] theorem Part.loadOrOrderCell_kept (p : Part) (k : Clock) (t : TreeId) :
    (p.loadOrOrderCell k t).1.kept = p.kept := by
  simp only [Part.loadOrOrderCell]
  (repeat' split) <;> simp

@[simp] theorem Part.fillField_kept (p : Part) (k : Clock) (t : TreeId) :
    (p.fillField k t).kept = p.kept := by
  simp only [Part.fillField]
  (repeat' split) <;> simp [Part.modTree_kept]

@[simp] theorem Part.prepareTimerTest_kept (p : Part) (k : Clock) (t : TreeId) :
    (p.prepareTimerTest k t).kept = p.kept := by
  simp only [Part.prepareTimerTest]
  (repeat' split) <;> simp

@[simp] theorem Part.beginTimerTest_kept (p : Part) (k : Clock) (t : TreeId) :
    (p.beginTimerTest k t).kept = p.kept := by
  simp only [Part.beginTimerTest]
  (repeat' split) <;> simp

@[simp] theorem Part.stallTimerTest_kept (p : Part) (k : Clock) (t : TreeId) :
    (p.stallTimerTest k t).kept = p.kept := by
  simp only [Part.stallTimerTest]
  (repeat' split) <;> simp

@[simp] theorem Part.commitTimerTest_kept (p : Part) (k : Clock) (t : TreeId) :
    (p.commitTimerTest k t).kept = p.kept := by
  simp only [Part.commitTimerTest]
  (repeat' split) <;> simp

@[simp] theorem Part.deadlineTest_kept (p : Part) (k : Clock) (t : TreeId) (h : Nat) :
    (p.deadlineTest k t h).kept = p.kept := by
  simp only [Part.deadlineTest]
  (repeat' split) <;> simp

@[simp] theorem Part.resumeTimerTest_kept (p : Part) (k : Clock) (t : TreeId) :
    (p.resumeTimerTest k t).kept = p.kept := by
  simp only [Part.resumeTimerTest]
  (repeat' split) <;> simp

@[simp] theorem Part.tenthTests_kept (p : Part) (k : Clock) (t : TreeId) :
    (p.tenthTests k t).kept = p.kept := by
  simp [Part.tenthTests, Part.foldl_kept _ fun p h => Part.deadlineTest_kept p k t h]

@[simp] theorem Part.staleTests_kept (p : Part) (t : TreeId) :
    (p.staleTests t).kept = p.kept := by
  simp only [Part.staleTests]
  exact Part.foldl_kept _ (fun p h => Part.foldl_kept _ (fun p x => Part.staleTest_kept p t h x) _ p) _ p

@[simp] theorem Part.ageAll_kept (p : Part) :
    (p.ageAll).kept = p.kept := by
  simp only [Part.ageAll]
  (repeat' split) <;> simp

@[simp] theorem Part.windowStep_kept (p : Part) (k : Clock) (t : TreeId) :
    (p.windowStep k t).kept = p.kept := by
  have h := Part.modTree_kept p t Tree.advanceTimer (by simp) (by simp)
  simp only [Part.windowStep]
  (repeat' split)
  · simp [h]
  · rw [Part.modTree_kept _ t (·.beginWindow k.cycle) rfl rfl, h]
  · exact h

@[simp] theorem Part.spanStep_kept (p : Part) (k : Clock) (t : TreeId) :
    (p.spanStep k t).kept = p.kept := by
  simp only [Part.spanStep]
  (repeat' split) <;> simp

@[simp] theorem Part.headerStep_kept (p : Part) (k : Clock) (t : TreeId) :
    (p.headerStep k t).kept = p.kept := by
  simp only [Part.headerStep]
  (repeat' split) <;> simp [Part.modTree_kept]

@[simp] theorem Part.settleStep_kept (p : Part) (k : Clock) (t : TreeId) :
    (p.settleStep k t).kept = p.kept := by
  simp only [Part.settleStep]
  (repeat' split) <;> simp

@[simp] theorem Part.darkStep_kept (p : Part) (k : Clock) (t : TreeId) :
    (p.darkStep k t).kept = p.kept := by
  simp only [Part.darkStep]
  (repeat' split) <;> simp

@[simp] theorem Part.enabledStart_kept (p : Part) (k : Clock) (boundary : Bool) (t : TreeId) :
    (p.enabledStart k boundary t).kept = p.kept := by
  simp only [Part.enabledStart]
  (repeat' split) <;> simp

@[simp] theorem Part.treeStart_kept (p : Part) (k : Clock) (boundary : Bool) (t : TreeId) :
    (p.treeStart k boundary t).kept = p.kept := by
  simp only [Part.treeStart]
  split
  · simp
  · exact Part.modTree_kept p t (·.disabledStart k.cycle) rfl rfl

theorem Part.eachTree_kept (p : Part) (f : Part → TreeId → Part) (hf : ∀ p t, (f p t).kept = p.kept) :
    (p.eachTree f).kept = p.kept := Part.foldl_kept f hf _ p

@[simp] theorem Part.finishStart_kept (p : Part) (k : Clock) :
    (p.finishStart k).kept = p.kept := by
  have h1 : ∀ q : Part, (q.eachTree fun p t => p.modTree t Tree.closeStart).kept = q.kept := fun q =>
    Part.eachTree_kept q _ fun p t => Part.modTree_kept p t _ rfl rfl
  simp only [Part.finishStart]
  split <;> simp [h1, Part.eachTree_kept]

@[simp] theorem Part.offerOn_kept (p : Part) (m : TreeMask) (o : Order) :
    (p.offerOn m o).kept = p.kept := Part.foldl_kept _ (fun p t => Part.offer_kept p t o) _ p

@[simp] theorem Part.standRecordDown_kept (p : Part) (k : Clock) (m : TreeMask) (g : Tag) :
    (p.standRecordDown k m g).kept = p.kept := by
  simp only [Part.standRecordDown]
  (repeat' split) <;> simp

end Sys2Proof.Machine
end

