-- ==== Sys2Proof/Laws/PerInstr.lean ====
section
/-!
SUPPORT. Laws/PerInstr.lean: the family of lemmas about each command as syntax: how many bytes it brings in.
-/

namespace Sys2Proof

/-- The bytes that a command brings in on a line: the length field of a request's frame (R181), the bytes of a reply cell
(R12), the bytes of a two-wire read (R190). Bytes that end a bad frame are counted by the receiver, not here. -/
def Instr.lineLength : Instr → Nat
  | .powerOnReset _ _ _ => 0
  | .softReset _ _ _ => 0
  | .storeLoadReadDone r => (r.getD []).length
  | .cycleStart _ => 0
  | .windowBegin _ => 0
  | .call _ => 0
  | .upkeepDue _ _ => 0
  | .darkArises _ => 0
  | .spanBoundary _ => 0
  | .settleEnd _ => 0
  | .tenthBoundary => 0
  | .reportStale _ _ _ => 0
  | .pollDue _ _ _ => 0
  | .refindDeadline _ _ => 0
  | .resumeTimerExpiry _ => 0
  | .prepareTimeout _ => 0
  | .beginTimeout _ => 0
  | .stallTimeout _ => 0
  | .commitTimeout _ => 0
  | .lightOnset _ _ _ => 0
  | .seekPeriodEnd _ _ => 0
  | .delimiterFound _ _ => 0
  | .cellDecoded _ _ _ cell => cell.length
  | .arrivalDispatch _ => 0
  | .expectationExpiry _ _ => 0
  | .helloArithmetic _ => 0
  | .measuredHelloTaken _ => 0
  | .windowClose _ _ => 0
  | .fetchDirectoryDone _ r => (r.getD []).length
  | .fetchDataDone _ r => (r.getD []).length
  | .savePageDone _ => 0
  | .frameSent => 0
  | .badFrame _ => 0
  | .unknownRequest _ b => b.length + 1
  | .identify b => b.length + 1
  | .reset b => b.length + 1
  | .storeSave b => b.length + 1
  | .treeEnable b => b.length + 1
  | .treeDisable b => b.length + 1
  | .treeSet b => b.length + 1
  | .treeGet b => b.length + 1
  | .admitTags b => b.length + 1
  | .unadmit b => b.length + 1
  | .admitRead b => b.length + 1
  | .admitClear b => b.length + 1
  | .unclaimedRead b => b.length + 1
  | .unclaimedClear b => b.length + 1
  | .terminalRead b => b.length + 1
  | .terminalFind b => b.length + 1
  | .terminalList b => b.length + 1
  | .retire b => b.length + 1
  | .release b => b.length + 1
  | .realign b => b.length + 1
  | .reload b => b.length + 1
  | .standdown b => b.length + 1
  | .lift b => b.length + 1
  | .profileOpen b => b.length + 1
  | .profileWrite b => b.length + 1
  | .profileClose b => b.length + 1
  | .profileErase b => b.length + 1
  | .profileInfo b => b.length + 1
  | .pushBegin b => b.length + 1
  | .pushData b => b.length + 1
  | .reportTableSet b => b.length + 1
  | .reportTableGet b => b.length + 1
  | .reportRead b => b.length + 1
  | .burstEnd _ _ _ _ => 0

namespace Laws.WireForm

/-- A well-formed command brings in no more bytes than a frame may carry. -/
def Statement (i : Instr) : Prop := i.wellFormed = true → i.lineLength ≤ Config.maxFrameLength

theorem of_bodyOk {n : Nat} {b : List Byte} (h : bodyOk b = true) (hn : n = b.length + 1) :
    n ≤ Config.maxFrameLength := by
  simp only [bodyOk, decide_eq_true_eq] at h
  omega

theorem of_readOk {r : Option (List Byte)} (h : readOk r = true) : (r.getD []).length ≤ Config.maxFrameLength := by
  cases r with
  | none => exact Nat.zero_le _
  | some bs =>
    have hb : bs.length ≤ Config.pageBytes := of_decide_eq_true (Bool.and_eq_true_iff.mp h).2
    exact Nat.le_trans hb (by decide)

theorem powerOnReset (rate0 rate1 store : Bool) : Statement (.powerOnReset rate0 rate1 store) :=
  fun _ => Nat.zero_le _
theorem softReset (rate0 rate1 store : Bool) : Statement (.softReset rate0 rate1 store) := fun _ => Nat.zero_le _
theorem storeLoadReadDone (result : Option (List Byte)) : Statement (.storeLoadReadDone result) :=
  fun h => of_readOk h
theorem cycleStart (lit : TreeMask) : Statement (.cycleStart lit) := fun _ => Nat.zero_le _
theorem windowBegin (t : TreeId) : Statement (.windowBegin t) := fun _ => Nat.zero_le _
theorem call (t : TreeId) : Statement (.call t) := fun _ => Nat.zero_le _
theorem upkeepDue (t : TreeId) (handle : Nat) : Statement (.upkeepDue t handle) := fun _ => Nat.zero_le _
theorem darkArises (t : TreeId) : Statement (.darkArises t) := fun _ => Nat.zero_le _
theorem spanBoundary (t : TreeId) : Statement (.spanBoundary t) := fun _ => Nat.zero_le _
theorem settleEnd (t : TreeId) : Statement (.settleEnd t) := fun _ => Nat.zero_le _
theorem tenthBoundary : Statement .tenthBoundary := fun _ => Nat.zero_le _
theorem reportStale (t : TreeId) (handle : Nat) (x : ReportSlot) : Statement (.reportStale t handle x) :=
  fun _ => Nat.zero_le _
theorem pollDue (t : TreeId) (handle : Nat) (x : ReportSlot) : Statement (.pollDue t handle x) :=
  fun _ => Nat.zero_le _
theorem refindDeadline (t : TreeId) (handle : Nat) : Statement (.refindDeadline t handle) := fun _ => Nat.zero_le _
theorem resumeTimerExpiry (t : TreeId) : Statement (.resumeTimerExpiry t) := fun _ => Nat.zero_le _
theorem prepareTimeout (t : TreeId) : Statement (.prepareTimeout t) := fun _ => Nat.zero_le _
theorem beginTimeout (t : TreeId) : Statement (.beginTimeout t) := fun _ => Nat.zero_le _
theorem stallTimeout (t : TreeId) : Statement (.stallTimeout t) := fun _ => Nat.zero_le _
theorem commitTimeout (t : TreeId) : Statement (.commitTimeout t) := fun _ => Nat.zero_le _
theorem lightOnset (t : TreeId) (pos dark : Nat) : Statement (.lightOnset t pos dark) := fun _ => Nat.zero_le _
theorem seekPeriodEnd (t : TreeId) (lit : Bool) : Statement (.seekPeriodEnd t lit) := fun _ => Nat.zero_le _
theorem delimiterFound (t : TreeId) (pos : Nat) : Statement (.delimiterFound t pos) := fun _ => Nat.zero_le _
theorem cellDecoded (t : TreeId) (n pos : Nat) (cell : List Byte) : Statement (.cellDecoded t n pos cell) :=
  fun h => by
  simp [Instr.wellFormed] at h
  simp [Instr.lineLength, h.2, Config.maxFrameLength]
theorem arrivalDispatch (t : TreeId) : Statement (.arrivalDispatch t) := fun _ => Nat.zero_le _
theorem expectationExpiry (t : TreeId) (pos : Nat) : Statement (.expectationExpiry t pos) := fun _ => Nat.zero_le _
theorem helloArithmetic (t : TreeId) : Statement (.helloArithmetic t) := fun _ => Nat.zero_le _
theorem measuredHelloTaken (t : TreeId) : Statement (.measuredHelloTaken t) := fun _ => Nat.zero_le _
theorem windowClose (t : TreeId) (pos : Nat) : Statement (.windowClose t pos) := fun _ => Nat.zero_le _
theorem fetchDirectoryDone (t : TreeId) (result : Option (List Byte)) : Statement (.fetchDirectoryDone t result) :=
  fun h => of_readOk h
theorem fetchDataDone (t : TreeId) (result : Option (List Byte)) : Statement (.fetchDataDone t result) :=
  fun h => of_readOk h
theorem savePageDone (ack : Bool) : Statement (.savePageDone ack) := fun _ => Nat.zero_le _
theorem frameSent : Statement (.frameSent) := fun _ => Nat.zero_le _
theorem badFrame (bytes : List Byte) : Statement (.badFrame bytes) := fun _ => Nat.zero_le _
theorem unknownRequest (kind : Byte) (body : List Byte) : Statement (.unknownRequest kind body) :=
  fun h => of_bodyOk (Bool.and_eq_true_iff.mp h).2 rfl
theorem identify (body : List Byte) : Statement (.identify body) := fun h => of_bodyOk h rfl
theorem reset (body : List Byte) : Statement (.reset body) := fun h => of_bodyOk h rfl
theorem storeSave (body : List Byte) : Statement (.storeSave body) := fun h => of_bodyOk h rfl
theorem treeEnable (body : List Byte) : Statement (.treeEnable body) := fun h => of_bodyOk h rfl
theorem treeDisable (body : List Byte) : Statement (.treeDisable body) := fun h => of_bodyOk h rfl
theorem treeSet (body : List Byte) : Statement (.treeSet body) := fun h => of_bodyOk h rfl
theorem treeGet (body : List Byte) : Statement (.treeGet body) := fun h => of_bodyOk h rfl
theorem admitTags (body : List Byte) : Statement (.admitTags body) := fun h => of_bodyOk h rfl
theorem unadmit (body : List Byte) : Statement (.unadmit body) := fun h => of_bodyOk h rfl
theorem admitRead (body : List Byte) : Statement (.admitRead body) := fun h => of_bodyOk h rfl
theorem admitClear (body : List Byte) : Statement (.admitClear body) := fun h => of_bodyOk h rfl
theorem unclaimedRead (body : List Byte) : Statement (.unclaimedRead body) := fun h => of_bodyOk h rfl
theorem unclaimedClear (body : List Byte) : Statement (.unclaimedClear body) := fun h => of_bodyOk h rfl
theorem terminalRead (body : List Byte) : Statement (.terminalRead body) := fun h => of_bodyOk h rfl
theorem terminalFind (body : List Byte) : Statement (.terminalFind body) := fun h => of_bodyOk h rfl
theorem terminalList (body : List Byte) : Statement (.terminalList body) := fun h => of_bodyOk h rfl
theorem retire (body : List Byte) : Statement (.retire body) := fun h => of_bodyOk h rfl
theorem release (body : List Byte) : Statement (.release body) := fun h => of_bodyOk h rfl
theorem realign (body : List Byte) : Statement (.realign body) := fun h => of_bodyOk h rfl
theorem reload (body : List Byte) : Statement (.reload body) := fun h => of_bodyOk h rfl
theorem standdown (body : List Byte) : Statement (.standdown body) := fun h => of_bodyOk h rfl
theorem lift (body : List Byte) : Statement (.lift body) := fun h => of_bodyOk h rfl
theorem profileOpen (body : List Byte) : Statement (.profileOpen body) := fun h => of_bodyOk h rfl
theorem profileWrite (body : List Byte) : Statement (.profileWrite body) := fun h => of_bodyOk h rfl
theorem profileClose (body : List Byte) : Statement (.profileClose body) := fun h => of_bodyOk h rfl
theorem profileErase (body : List Byte) : Statement (.profileErase body) := fun h => of_bodyOk h rfl
theorem profileInfo (body : List Byte) : Statement (.profileInfo body) := fun h => of_bodyOk h rfl
theorem pushBegin (body : List Byte) : Statement (.pushBegin body) := fun h => of_bodyOk h rfl
theorem pushData (body : List Byte) : Statement (.pushData body) := fun h => of_bodyOk h rfl
theorem reportTableSet (body : List Byte) : Statement (.reportTableSet body) := fun h => of_bodyOk h rfl
theorem reportTableGet (body : List Byte) : Statement (.reportTableGet body) := fun h => of_bodyOk h rfl
theorem reportRead (body : List Byte) : Statement (.reportRead body) := fun h => of_bodyOk h rfl
theorem burstEnd (t : TreeId) (pos : Nat) (endCode lit : Bool) : Statement (.burstEnd t pos endCode lit) :=
  fun _ => Nat.zero_le _

end Laws.WireForm

end Sys2Proof
end

