-- ==== Sys2Proof/Laws/Save.lean ====
section
/-!
SUPPORT. Laws/Save.lean: what the pages of a save are (R190, R191, 12.8).
-/

namespace Sys2Proof.Machine

theorem le_pageCount (n : Nat) : n ≤ 64 * pageCount n := by
  simp only [pageCount, Config.pageBytes]
  omega

/-- A filled block ends at the end of its last page. -/
@[simp] theorem filledBlock_length (save base : Nat) (bs : List Byte) :
    (filledBlock save base bs).length = 64 * pageCount bs.length := by
  have h := le_pageCount bs.length
  simp only [filledBlock, Config.pageBytes, List.length_append, List.length_map, List.length_range]
  omega

@[simp] theorem pagesOf_addresses (save base : Nat) (bs : List Byte) :
    (pagesOf save base bs).map (·.address) = (List.range (pageCount bs.length)).map fun i => base + 64 * i := by
  simp [pagesOf, Config.pageBytes]

/-- Every page of a block is a whole page. -/
theorem pagesOf_bytes_length {save base : Nat} {bs : List Byte} {g : Page} (h : g ∈ pagesOf save base bs) :
    g.bytes.length = 64 := by
  simp only [pagesOf, List.mem_map, List.mem_range] at h
  obtain ⟨i, hi, rfl⟩ := h
  simp only [fieldAt, Config.pageBytes, List.length_take, List.length_drop, filledBlock_length]
  omega

/-- The first `n` fields of a size, joined, are the bytes up to the end of the last of them. -/
theorem flatten_fieldAt (bs : List Byte) (size n : Nat) :
    ((List.range n).map fun i => fieldAt bs (size * i) size).flatten = bs.take (size * n) := by
  induction n with
  | zero => simp
  | succ n ih =>
    rw [List.range_succ, List.map_append, List.flatten_append, ih, Nat.mul_succ, List.take_add]
    simp [fieldAt]

/-- The pages of a block, joined, are the filled block. -/
@[simp] theorem pagesOf_flatten (save base : Nat) (bs : List Byte) :
    ((pagesOf save base bs).map (·.bytes)).flatten = filledBlock save base bs := by
  have h := flatten_fieldAt (filledBlock save base bs) Config.pageBytes (pageCount bs.length)
  rw [List.take_of_length_le (by simp [Config.pageBytes])] at h
  simpa [pagesOf, Function.comp_def] using h

end Sys2Proof.Machine
end

