-- ==== Sys2Proof/Laws/Watched.lean ====
section
/-!
SUPPORT. Laws/Watched.lean: what the DARK test of a cycle start looks at besides the light monitor (`watched`: the guard, the
mark that the test was taken, and which records are LOADING or IN_SERVICE) is left alone by the header, the control field and
the rest of the cycle start before it; what the DARK test and the span boundary do, said once; and a change made tree by tree
as each tree sees it.
-/

namespace Sys2Proof.Machine

/-- No two records have one tree and one handle. -/
def Part.KeysOnce (p : Part) : Prop := (p.records.map fun r => (r.tree, r.handle)).Nodup

theorem Part.KeysOnce.of_names {p q : Part} (h : q.names = p.names) (hp : p.KeysOnce) : q.KeysOnce := by
  have h1 : q.records.map (fun r => (r.tree, r.handle, r.tag)) = p.records.map fun r => (r.tree, r.handle, r.tag) :=
    congrArg Prod.fst h
  have e : ∀ l : List Record, (l.map fun r => (r.tree, r.handle)) =
      (l.map fun r => (r.tree, r.handle, r.tag)).map fun x => (x.1, x.2.1) := fun l => by simp
  simp only [Part.KeysOnce] at *
  rw [e, h1, ← e]
  exact hp

/-- With the keys once, a record of a tree and a handle is the one found for them. -/
theorem Part.KeysOnce.found {p : Part} (hp : p.KeysOnce) {t : TreeId} {h : Nat} {r r' : Record} (hr : p.record? t h = some r)
    (hm : r' ∈ p.records) (hn : r'.named t h = true) : r' = r := by
  have key : ∀ l : List Record, (l.map fun r => (r.tree, r.handle)).Nodup → ∀ a ∈ l, ∀ b ∈ l, a.tree = b.tree →
      a.handle = b.handle → a = b := by
    intro l hl x hx y hy e1 e2
    induction l with
    | nil => cases hx
    | cons z l ih =>
      simp only [List.map_cons, List.nodup_cons, List.mem_map, not_exists, not_and] at hl
      rcases List.mem_cons.1 hx with rfl | hx' <;> rcases List.mem_cons.1 hy with rfl | hy'
      · rfl
      · exact absurd (by simp [e1, e2]) (hl.1 _ hy')
      · exact absurd (by simp [e1, e2]) (hl.1 _ hx')
      · exact ih hl.2 hx' hy'
  have h2 := List.find?_some hr
  simp [Record.named] at hn h2
  exact key _ hp _ hm _ (List.mem_of_find?_eq_some hr) (by rw [hn.1, h2.1]) (by rw [hn.2, h2.2])

/-! ### What the DARK test looks at -/

/-- The guard of a tree with its DARK mark, and of each record its tree and whether it is LOADING or IN_SERVICE. -/
def Part.watched (p : Part) (u : TreeId) : (Guard × Bool) × List (TreeId × Bool) :=
  (((p.tree u).guard, (p.tree u).darkDone),
    p.records.map fun r => (r.tree, decide (r.state = .loading ∨ r.state = .inService)))

theorem Part.anyLoaded_iff (p : Part) (u : TreeId) :
    ((p.recordsOf u).any fun r => r.state == .loading || r.state == .inService) = true ↔ (u, true) ∈ (p.watched u).2 := by
  simp [Part.watched, Part.recordsOf]

theorem Part.modTree_watched (p : Part) (t u : TreeId) (f : Tree → Tree)
    (h : ((f (p.tree t)).guard, (f (p.tree t)).darkDone) = ((p.tree t).guard, (p.tree t).darkDone)) :
    (p.modTree t f).watched u = p.watched u := by
  simp only [Part.watched, Part.tree_modTree]
  split
  · subst_vars
    simp only [h]
    rfl
  · rfl

/-- A change of the records of one key that keeps their trees and whether they are LOADING or IN_SERVICE. -/
theorem Part.modRecord_watched_of (p : Part) (t u : TreeId) (h : Nat) (f : Record → Record)
    (hf : ∀ r ∈ p.records, r.named t h = true → (f r).tree = r.tree
      ∧ (((f r).state = .loading ∨ (f r).state = .inService) ↔ (r.state = .loading ∨ r.state = .inService))) :
    (p.modRecord t h f).watched u = p.watched u := by
  simp only [Part.watched, Part.modRecord]
  congr 1
  rw [List.map_map]
  refine List.map_congr_left fun r hr => ?_
  simp only [Function.comp]
  split
  · rename_i hn
    obtain ⟨h1, h2⟩ := hf r hr hn
    simp [h1, h2]
  · rfl

theorem Part.modRecord_watched (p : Part) (t u : TreeId) (h : Nat) (f : Record → Record) (h1 : ∀ r, (f r).tree = r.tree)
    (h2 : ∀ r, (f r).state = r.state) : (p.modRecord t h f).watched u = p.watched u :=
  Part.modRecord_watched_of _ _ _ _ _ fun r _ _ => ⟨h1 r, by rw [h2]⟩

@[simp] theorem Part.modEngine_watched (p : Part) (t u : TreeId) (f : Engine → Engine) :
    (p.modEngine t f).watched u = p.watched u := Part.modTree_watched _ _ _ _ rfl
@[simp] theorem Part.raise_watched (p : Part) (n : Notice) (u : TreeId) : (p.raise n).watched u = p.watched u := rfl

/-! ### The blocks of a cycle start -/

variable (p : Part) (k : Clock) (t u : TreeId)

@[simp] theorem Part.pauseUpdate_watched : (p.pauseUpdate k t).watched u = p.watched u := by
  simp only [Part.pauseUpdate]
  (repeat' split) <;> simp

@[simp] theorem Part.raiseAsk_watched : (p.raiseAsk k t).watched u = p.watched u := by
  simp only [Part.raiseAsk]
  (repeat' split) <;> simp

@[simp] theorem Part.streamAsk_watched : (p.streamAsk k t).watched u = p.watched u := by
  simp only [Part.streamAsk]
  (repeat' split) <;> simp

@[simp] theorem Part.markUnsent_watched (o : Order) (v : Bool) : (p.markUnsent t o v).watched u = p.watched u := by
  cases o <;> try rfl
  simp only [Part.watched, Part.markUnsent, Part.tree, List.map_map]
  congr 1
  refine List.map_congr_left fun r _ => ?_
  simp only [Function.comp]
  split <;> rfl

@[simp] theorem Part.reofferList_watched (os : List Order) : (p.reofferList t os).watched u = p.watched u := by
  induction os generalizing p with
  | nil => exact Part.modTree_watched _ _ _ _ rfl
  | cons o rest ih =>
    simp only [Part.reofferList]
    split
    · rw [ih, Part.markUnsent_watched]
      exact Part.modTree_watched _ _ _ _ rfl
    · exact Part.modTree_watched _ _ _ _ rfl

@[simp] theorem Part.reoffer_watched : (p.reoffer t).watched u = p.watched u := Part.reofferList_watched _ _ _ _

@[simp] theorem Part.enterStreaming_watched : (p.enterStreaming k t).watched u = p.watched u := by
  simp only [Part.enterStreaming, Part.pauseUpdate_watched]
  rw [Part.modRecord_watched _ _ _ _ _ ?_ ?_] <;> simp

@[simp] theorem Part.settleStep_watched : (p.settleStep k t).watched u = p.watched u := by
  simp only [Part.settleStep]
  (repeat' split) <;> simp

@[simp] theorem Record.granted_keeps_state (r : Record) (x : Candidate) : (r.granted k x).state = r.state := by
  simp only [Record.granted]
  (repeat' split) <;> rfl

@[simp] theorem Part.issueGrant_watched (slot : Nat) (x : Candidate) : (p.issueGrant k t slot x).watched u = p.watched u := by
  simp only [Part.issueGrant]
  split
  · rw [Part.modEngine_watched, Part.modRecord_watched _ _ _ _ _ (by simp) (by simp)]
    exact Part.modTree_watched _ _ _ _ rfl
  · rw [Part.modRecord_watched _ _ _ _ _ (by simp) (by simp)]
    exact Part.modTree_watched _ _ _ _ rfl

@[simp] theorem Part.settleSlot_watched (slot : Nat) : (p.settleSlot k t slot).1.watched u = p.watched u := by
  simp only [Part.settleSlot]
  rw [Part.modTree_watched _ _ _ _ rfl]
  split <;> simp

@[simp] theorem Part.settleSlots_watched (slot n : Nat) : (p.settleSlots k t slot n).1.watched u = p.watched u := by
  induction n generalizing p slot with
  | zero => rfl
  | succ n ih => simp [Part.settleSlots, ih]

@[simp] theorem Part.headerStep_watched : (p.headerStep k t).watched u = p.watched u := by
  simp only [Part.headerStep]
  split <;> rw [Part.modTree_watched _ _ _ _ rfl]
  simp

/-- Where the keys stand once: with two records of one key a LAG sent for one HEARD would move the other. -/
theorem Part.lagByTagSent_watched (g : Tag) (h : Nat) (hp : p.KeysOnce) :
    (p.lagByTagSent k t g h).watched u = p.watched u := by
  simp only [Part.lagByTagSent]
  split
  · rfl
  rename_i r hr
  split
  · rfl
  rw [Part.modRecord_watched _ _ _ _ _ (by exact fun r => rfl) (by exact fun r => rfl)]
  split
  · rename_i hs
    simp at hs
    simp only [Part.enterAligning, hr]
    refine Part.modRecord_watched_of p t u h (fun r => { r with state := .aligning, cause := .lagSent })
      fun r' hm hn => ⟨rfl, ?_⟩
    rw [hp.found hr hm hn]
    simp [hs]
  · rfl

theorem Part.reportSent_watched (o : Order) (hp : p.KeysOnce) : (p.reportSent k t o).watched u = p.watched u := by
  cases o <;> simp only [Part.reportSent]
  · exact Part.lagByTagSent_watched _ _ _ _ _ _ hp
  · simp only [Part.lagByHandleSent]
    rw [Part.modRecord_watched _ _ _ _ _ (by exact fun r => rfl) (by exact fun r => rfl)]
  · simp only [Part.prepareSent]
    (repeat' split) <;> simp
  · simp only [Part.commitSent]
    (repeat' split) <;> simp

theorem Part.orderCell_watched (hp : p.KeysOnce) : (p.orderCell k t).1.watched u = p.watched u := by
  simp only [Part.orderCell]
  split
  · rfl
  · show (Part.reportSent _ _ _ _).watched u = _
    rw [Part.reportSent_watched _ _ _ _ _ (by exact hp)]
    exact Part.modTree_watched _ _ _ _ rfl

theorem Part.loadOrOrderCell_watched (hp : p.KeysOnce) : (p.loadOrOrderCell k t).1.watched u = p.watched u := by
  simp only [Part.loadOrOrderCell]
  split
  · simp [Part.cellSupplied]
  · exact Part.orderCell_watched _ _ _ _ hp

theorem Part.fillField_watched (hp : p.KeysOnce) : (p.fillField k t).watched u = p.watched u := by
  have k1 := hp.of_names (Part.orderCell_names p k t)
  have k2 := k1.of_names (Part.orderCell_names (p.orderCell k t).1 k t)
  have k3 := k2.of_names (Part.loadOrOrderCell_names ((p.orderCell k t).1.orderCell k t).1 k t)
  simp only [Part.fillField]
  rw [Part.modTree_watched _ _ _ _ rfl, Part.loadOrOrderCell_watched _ _ _ _ k3, Part.loadOrOrderCell_watched _ _ _ _ k2,
    Part.orderCell_watched _ _ _ _ k1, Part.orderCell_watched _ _ _ _ hp]

/-! ### The span boundary and the DARK test -/

/-- The span boundary writes the guard of the tree and its mark, and nothing else of it or of the records; HUSH and DARK it
leaves alone (R174). -/
theorem Part.spanStep_tree : ∃ g b, (p.spanStep k u).tree u = { p.tree u with guard := g, spanDone := b }
    ∧ g.hush = (p.tree u).guard.hush ∧ g.present.dark = (p.tree u).guard.present.dark
    ∧ (k.cycle.toNat % 16 ≠ 0 → g = (p.tree u).guard) ∧ (p.spanStep k u).records = p.records := by
  have same : p.spanStep k u = p → ∃ g b, (p.spanStep k u).tree u = { p.tree u with guard := g, spanDone := b }
      ∧ g.hush = (p.tree u).guard.hush ∧ g.present.dark = (p.tree u).guard.present.dark
      ∧ (k.cycle.toNat % 16 ≠ 0 → g = (p.tree u).guard) ∧ (p.spanStep k u).records = p.records := fun h =>
    ⟨_, _, by rw [h], rfl, rfl, fun _ => rfl, by rw [h]⟩
  by_cases h : k.cycle.toNat % 16 = 0
  · by_cases h2 : (p.tree u).spanDone = true
    · exact same (by simp [Part.spanStep, h2])
    · refine ⟨((p.spanStep k u).tree u).guard, ((p.spanStep k u).tree u).spanDone, ?_, ?_, ?_, fun h' => absurd h h', ?_⟩
      all_goals
        simp only [Part.spanStep, h, h2, Part.spanEnds, Part.endFactor, Part.startResume]
        by_cases h3 : (p.tree u).guard.present.stray = true <;>
          by_cases h4 : (p.tree u).guard.strayCount < (p.tree u).settings.strayThreshold <;>
          simp [h3, h4, Part.modGuard] <;> (repeat' split) <;> simp [Factors.put]
  · exact same (by simp [Part.spanStep, h])

/-- The DARK test, not yet taken, writes of what the header and the control field hold nothing; only where it enters HUSH
does it cancel a lead-in (R46, R175). -/
theorem Part.darkStep_tree (hd : (p.tree u).darkDone = false) :
    ((p.darkStep k u).tree u).sent = (p.tree u).sent ∧ (p.darkStep k u).recordsOf u = p.recordsOf u
      ∧ ((p.darkStep k u).tree u).slotCounter = (p.tree u).slotCounter
      ∧ ((p.darkStep k u).tree u).expectations = (p.tree u).expectations
      ∧ ((p.darkStep k u).tree u).darkCount = (p.tree u).darkCount
      ∧ ((p.darkStep k u).tree u).lit = (p.tree u).lit ∧ ((p.darkStep k u).tree u).lightSeen = (p.tree u).lightSeen
      ∧ ((p.darkStep k u).tree u).scheduler =
        (if p.darkDue u && !(p.tree u).guard.hush then (p.tree u).cancelLeadIn.scheduler else (p.tree u).scheduler)
      ∧ ((p.darkStep k u).tree u).quiet =
        (if p.darkDue u && !(p.tree u).guard.hush then (p.tree u).cancelLeadIn.quiet else (p.tree u).quiet) := by
  simp only [Part.darkStep, hd, Part.darkTest, Part.arise]
  by_cases h1 : p.darkDue u = true
  · by_cases h2 : (p.tree u).guard.hush = true
    · simp [h1, h2, Part.modGuard, Tree.sent, Part.recordsOf]
    · simp [h1, h2, Part.modGuard, Tree.sent, Part.recordsOf]
      cases hp : (p.tree u).scheduler.phase <;> simp [Tree.cancelLeadIn, hp]
  · simp [h1, Tree.sent, Part.recordsOf]

/-! ### Tree by tree -/

/-- A change made tree by tree that is apart does to one tree what it does there, to a part that is for this tree the one it
started from. -/
theorem Part.eachTree_own (f : Part → TreeId → Part) (ho : ∀ p t, u ≠ t → (f p t).own u = p.own u)
    (hk : ∀ p t, (f p t).kept = p.kept) (hn : ∀ p t, (f p t).names = p.names) :
    ∃ q, q.own u = p.own u ∧ q.kept = p.kept ∧ q.names = p.names ∧ (p.eachTree f).own u = (f q u).own u := by
  simp only [Part.eachTree, allTrees, List.foldl_cons, List.foldl_nil]
  cases u
  · exact ⟨p, rfl, rfl, rfl, by rw [ho _ _ (by decide), ho _ _ (by decide), ho _ _ (by decide)]⟩
  · exact ⟨f p .t0, by rw [ho _ _ (by decide)], by rw [hk], by rw [hn],
      by rw [ho _ _ (by decide), ho _ _ (by decide)]⟩
  · exact ⟨f (f p .t0) .t1, by rw [ho _ _ (by decide), ho _ _ (by decide)], by rw [hk, hk], by rw [hn, hn],
      by rw [ho _ _ (by decide)]⟩
  · exact ⟨f (f (f p .t0) .t1) .t2, by rw [ho _ _ (by decide), ho _ _ (by decide), ho _ _ (by decide)],
      by rw [hk, hk, hk], by rw [hn, hn, hn], rfl⟩

/-- A change of every tree by itself. -/
theorem Part.eachTree_modTree_own (g : TreeId → Tree → Tree) :
    (p.eachTree fun p t => p.modTree t (g t)).own u = (g u (p.tree u), p.recordsOf u) := by
  cases u <;>
    simp [Part.eachTree, allTrees, Part.own, Part.tree, Part.modTree, PerTree.set, PerTree.get, Part.recordsOf]

end Sys2Proof.Machine
end

