-- ==== Sys2Proof/Tests/Slice0.lean ====
section
/-!
SUPPORT. Tests/Slice0.lean: the model's own tests: the small states they run on, the check of well-formedness, worked
numbers of the manual, and for each statement of Certificates/Slice0/Obligations.lean a witness that its premises can be
met (`met_…`, clause by clause, at values where clauses meet).
-/

open Sys2Proof Sys2Proof.Machine

namespace Sys2Proof.Tests

/-! ### Small states -/

/-- A tree that is ENABLED, fresh from its enabling. -/
def treeOn : Tree := { Tree.afterReset with enabled := true }

/-- A record of tree 1, as its hello made it. -/
def heardOne (h : Nat) (g : Tag) : Record :=
  newRecord .t1 h ⟨3, 1, g, 0x41424344#32, 2, .inReach, 97342, 102660⟩ .heard .new

/-- A record of tree 1 in a state. -/
def recordIn (h : Nat) (g : Tag) (x : RecState) : Record := { heardOne h g with state := x }

/-- A load part that waits in the push queue. -/
def waiting (n used : Nat) : Load := ⟨n, .queued, used, none⟩

/-- An admission entry that is not bound. -/
def entryFor (g : Tag) (mask : TreeMask) : AdmitEntry := ⟨g, 5, mask, [0x61#8], false, false, none⟩

/-- The state that the tests start from: cycle 5, trees 1 and 3 ENABLED, store strap high, the link silent; on tree 1 an
IN_SERVICE record 3 of tag 7, a LOADING record 5 of tag 9 and a HELD record 6 of tag 11, on tree 3 an ALIGNING record 3 of
tag 13; tag 20 admitted and unbound on tree 1, tag 21 on tree 0. -/
def base : State where
  clock := ⟨5, 1000, 5, 100, .closed⟩
  part :=
    { Part.afterReset ⟨true, false, true⟩ emptySlots with
      trees := ⟨.afterReset, treeOn, .afterReset, treeOn⟩
      records :=
        [recordIn 3 7 .inService,
         { recordIn 5 9 .loading with load := some (waiting 5 0) },
         { recordIn 6 11 .held with
           cause := .stoodDown
           held := some 255 },
         { recordIn 3 13 .aligning with tree := .t3 }]
      admission :=
        [{ entryFor 7 2 with bound := true }, { entryFor 9 2 with bound := true },
         { entryFor 11 2 with bound := true }, { entryFor 13 8 with bound := true }, entryFor 20 2, entryFor 21 1] }
  link := .afterReset 1
  pending := [.cycleStart 0]

/-- The state with tree 1 changed. -/
def on1 (s : State) (f : Tree → Tree) : State := { s with part := s.part.modTree .t1 f }

/-- The state with the engine of tree 1 changed. -/
def eng1 (s : State) (f : Engine → Engine) : State := { s with part := s.part.modEngine .t1 f }

/-- The state with a record of tree 1 changed. -/
def rec1 (s : State) (h : Nat) (f : Record → Record) : State := { s with part := s.part.modRecord .t1 h f }

/-- The start of cycle 16 is open. -/
def opened : State := { base with clock := ⟨16, 0, 5, 100, .opened⟩ }

/-- The start of cycle 763 is open, and its tenth boundary is due. -/
def boundaryOpen : State := { base with clock := ⟨763, 0, 762, 100, .boundaryDue⟩ }

/-- The same, its tenth boundary taken: tenth 101. -/
def boundaryTaken : State := { base with clock := ⟨763, 0, 0, 101, .boundaryTaken⟩ }


/-! ### Well-formedness (WellFormed.lean): a term that each check refuses, and one at the boundary that it lets pass -/

theorem test_position_refused :
    (Instr.lightOnset .t0 131072 0).wellFormed = false ∧ (Instr.delimiterFound .t0 131072).wellFormed = false
      ∧ (Instr.cellDecoded .t0 0 131072 (List.replicate 32 0)).wellFormed = false
      ∧ (Instr.expectationExpiry .t0 131072).wellFormed = false ∧ (Instr.windowClose .t0 131072).wellFormed = false
      ∧ (Instr.burstEnd .t0 131072 true true).wellFormed = false ∧ (Instr.lightOnset .t0 131071 0).wellFormed = true := by
  decide

theorem test_handle_refused :
    (Instr.upkeepDue .t0 0).wellFormed = false ∧ (Instr.refindDeadline .t0 65).wellFormed = false
      ∧ (Instr.reportStale .t0 65 .a).wellFormed = false ∧ (Instr.pollDue .t0 0 .c).wellFormed = false
      ∧ (Instr.pollDue .t0 64 .c).wellFormed = true := by
  decide

theorem test_cell_length_refused :
    (Instr.cellDecoded .t0 0 5 (List.replicate 31 0)).wellFormed = false
      ∧ (Instr.cellDecoded .t0 0 5 (List.replicate 32 0)).wellFormed = true := by
  decide

theorem test_read_length_refused :
    (Instr.storeLoadReadDone (some [])).wellFormed = false
      ∧ (Instr.fetchDataDone .t0 (some (List.replicate 65 0))).wellFormed = false
      ∧ (Instr.fetchDirectoryDone .t0 (some [])).wellFormed = false
      ∧ (Instr.fetchDataDone .t0 (some (List.replicate 64 0))).wellFormed = true := by
  decide +kernel

theorem test_body_length_refused :
    (Instr.identify (List.replicate 514 0)).wellFormed = false
      ∧ (Instr.identify (List.replicate 513 0)).wellFormed = true := by
  decide +kernel

theorem test_unknown_kind_refused :
    (Instr.unknownRequest 0x10#8 []).wellFormed = false ∧ (Instr.unknownRequest 0x16#8 []).wellFormed = true := by
  decide

/-- No row of the table gives bits: no word spells a command. -/
theorem test_no_word : decodeTableWord 8 1 = none := rfl

/-! ### Worked numbers of the manual -/

/-- 4.8, one terminal from stamps to lag: F 129 492, Qc 16 004, CALL cycle 4000, slice 5, O 150. -/
theorem test_one_terminal :
    (reconcile 129492 16004#18).toNat = 524417492
      ∧ ((⟨129492, 16004#18, 524417492#33, 5, 20, 5, 42, 4000⟩ : Hello).measure
          { Settings.default with treeOffset := 150 }) = ⟨42, 4000, 20, 5, 5, .inReach, 97342, 102660⟩ := by
  decide

/-- 4.8, the same window: its hello span, the NEGATIVE hello and the lags 200 000 and 68 928. -/
theorem test_same_window :
    (spanStartOf { Settings.default with treeOffset := 150 } 4000).toNat = 524312086
      ∧ (spanStopOf { Settings.default with treeOffset := 150 } 4000 16).toNat = 524537414
      ∧ classOf 200000 (-160) = .negative ∧ lagOfClass 200000 .near (-30) = 200000 ∧ lagOf 200000 131073 = 68928
      ∧ classOf 200000 203500 = .far := by
  decide

/-- 4.8, across the wrap of the cycle number: the first terminal of tree 3. -/
theorem test_across_wrap :
    (reconcile 65656 7#18).toNat = 196728
      ∧ (⟨65656, 7#18, 196728#33, 40, 20, 5, 42, 65535⟩ : Hello).rtt (-200) = 240000 ∧ lagOf 250000 240000 = 10000 := by
  decide

/-- 2.6: the expected arrival of a grant in slot 1 lies 330 646 steps after the start of the grant's cycle. -/
theorem test_expected_arrival :
    expectedArrival { Settings.default with treeOffset := 150 } 0 1 = 330646#33 := by decide

/-- R45: 2 collisions at spread 32 double it; none, and few hellos, at spread 16 with a minimum of 8, halve it. -/
theorem test_spread :
    nextSpread { Settings.default with spreadMin := 8 } ⟨0, 32, 0, 0, 2, 9⟩ = 64
      ∧ nextSpread { Settings.default with spreadMin := 8 } ⟨0, 16, 0, 0, 0, 4⟩ = 8 := by
  decide

/-- R130: the multiples of 4 nearest to errors of either sign, halves toward zero. -/
theorem test_correction : [5, 6, 7, -6, -7, 0, 2].map correctionOf = [4, 4, 8, -4, -8, 0, 0] := by decide

/-- R21: the CRC-16 of the nine characters 1 to 9 is 0x29B1 (the published check value of the CRC that R21 describes). -/
theorem test_crc16 : crc16 [0x31#8, 0x32#8, 0x33#8, 0x34#8, 0x35#8, 0x36#8, 0x37#8, 0x38#8, 0x39#8] = 0x29B1#16 := by
  decide +kernel

/-- R30: the CRC-32 of the same characters is 0xCBF43926 (the published check value; notes/assumptions/36.md). -/
theorem test_crc32 :
    crc32Value (crc32Feed 0xFFFFFFFF#32 [0x31#8, 0x32#8, 0x33#8, 0x34#8, 0x35#8, 0x36#8, 0x37#8, 0x38#8, 0x39#8]) =
      0xCBF43926#32 := by
  decide +kernel

/-- R188: a power-on reset with the straps low gives the reset state, whatever the state was. -/
theorem test_power_on : exec (.powerOnReset false false false) { base with pending := [] } = .next State.reset := by
  have h : ({ base with pending := [] } : State).powerOn ⟨false, false, false⟩ = State.reset := by decide +kernel
  exact congrArg _ h

/-- R4: TREE-ENABLE of tree 0 raises one TREE notice, and its reply starts before it. -/
theorem test_enable :
    (match exec (.treeEnable [1#8]) base with
      | .next t => (t.part.tree .t0).enabled && t.link.tx.any (·.kind == 0x88#8) && t.link.notices.length == 1
      | _ => false) = true := by
  decide +kernel

/-! ### Witnesses: the machine -/

/-- A statement about every tree holds when it holds of each. -/
theorem forall_tree {p : TreeId → Prop} (h0 : p .t0) (h1 : p .t1) (h2 : p .t2) (h3 : p .t3) : ∀ t, p t := by
  intro t
  cases t <;> assumption

/-- A statement about every report slot holds when it holds of each. -/
theorem forall_slot {p : ReportSlot → Prop} (ha : p .a) (hb : p .b) (hc : p .c) : ∀ x, p x := by
  intro x
  cases x <;> assumption

theorem met_StepRunsFront : base.pending = .cycleStart 0 :: [] := rfl

theorem met_TickAdvancesTime :
    (({ base with pending := [] } : State).pending = [] ∧ base.clock.Ok ∧ base.clock.stage = .closed ∧ base.clock.pos < 131071)
      ∧ Clock.Ok ⟨65535, 131071, 762, 100, .closed⟩ := by
  decide

/-- The state that tests start from meets the invariants, and a step from it goes on. -/
theorem base_meets_invariants : base.clock.Ok ∧ base.LinkOk ∧ base.StoredOk ∧ base.part.TableOk := by
  refine ⟨by decide, by decide, ⟨?_, ?_, ?_⟩, by decide, by decide, by decide, by decide, by decide, by decide,
    by decide, ?_⟩
  · exact forall_tree (by decide) (by decide) (by decide) (by decide)
  · intro n h1 h2
    have : ∀ k : Fin 16, (base.part.slot (k.val + 1)).Ok := by decide +kernel
    have h := this ⟨n - 1, by omega⟩
    simpa [Nat.sub_add_cancel h1] using h
  · exact forall_slot (by decide) (by decide) (by decide)
  · intro g
    constructor
    · rintro ⟨e, he, hg, hb⟩
      have : ∀ e ∈ base.part.admission, e.bound = true → ∃ r ∈ base.part.records, r.tag = e.tag := by decide +kernel
      exact hg ▸ this e he hb
    · rintro ⟨r, hr, hg⟩
      have : ∀ r ∈ base.part.records, ∃ e ∈ base.part.admission, e.tag = r.tag ∧ e.bound = true := by decide +kernel
      exact hg ▸ this r hr

theorem base_steps : ∃ t, step base = .next t := ⟨_, rfl⟩

theorem met_StepKeepsClockOk : base.clock.Ok ∧ ∃ t, step base = .next t := ⟨base_meets_invariants.1, base_steps⟩

theorem met_StepKeepsLinkOk : base.LinkOk ∧ ∃ t, step base = .next t := ⟨base_meets_invariants.2.1, base_steps⟩

theorem met_StepKeepsStoredOk : base.StoredOk ∧ ∃ t, step base = .next t := ⟨base_meets_invariants.2.2.1, base_steps⟩

theorem met_StepKeepsTableOk : base.part.TableOk ∧ ∃ t, step base = .next t :=
  ⟨base_meets_invariants.2.2.2, base_steps⟩

theorem met_OnlyHostWritesStored :
    (∃ t, exec (.cycleStart 0) base = .next t)
      ∧ mayWriteSettings (.cycleStart 0) = false ∧ mayWriteEnabled (.treeSet []) = false
      ∧ mayWriteSlots (.treeEnable []) = false ∧ mayWriteReportTable (.profileOpen []) = false :=
  ⟨⟨_, rfl⟩, rfl, rfl, rfl, rfl⟩

/-! ### Witnesses: arithmetic, cells, stored blocks, orders -/

/-- A delimiter in the last step before the wrap, decoded 98 303 steps later: the greatest decode time allowed. -/
theorem met_ReconcileExact :
    (131071 : Nat) < 131072 ∧ (98302 : Nat) < 131072
      ∧ elapsed (⟨0, 98302, 0, 0, .closed⟩ : Clock).treeTime (⟨65535, 131071, 0, 0, .closed⟩ : Clock).treeTime = 98303 := by
  decide

/-- A hello of slice 1 whose round trip is `r`, called in cycle 4. -/
def hello (r : Int) : Hello := ⟨3, 4, startOf 4 + BitVec.ofInt 33 (24000 + 1600 + r), 1, 20, 5, 4, 4⟩

theorem met_HelloArithmetic :
    ((hello (-64)).arrival = startOf 4 + BitVec.ofInt 33 (24000 + 1600 * ((hello (-64)).slice : Int) + (-64) + 0))
      ∧ Settings.default.Ok := by
  decide

theorem met_SpanGeometry : Settings.default.Ok ∧ (64 = 8 ∨ 64 = 16 ∨ 64 = 32 ∨ 64 = 64) := by decide

/-- The default settings in raw-stamp mode, with the least spread. -/
def rawSettings : Settings :=
  { Settings.default with
    rawStamps := true
    spreadMin := 8 }

theorem met_WindowCloses_spread :
    Settings.default.Ok ∧ Settings.default.rawStamps = false ∧ rawSettings.Ok ∧ rawSettings.rawStamps = true
      ∧ (4 ≤ 16 / 4 ∧ Settings.default.spreadMin < 32) ∧ (16 / 4 < 5 ∧ 16 ≤ Settings.default.spreadMin) :=
  ⟨by decide, by decide, by decide, by decide, by decide, by decide⟩

theorem met_UpkeepArithmetic :
    (100 % 4 = 0 ∧ Settings.default.reachDepth % 4 = 0 ∧ 100 ≤ Settings.default.reachDepth)
      ∧ (heardOne 3 7).level ≤ 3 ∧ (heardOne 3 7).impaired = false
      ∧ Settings.default.raiseThreshold < (33 : Int).natAbs ∧ (3 : Int).natAbs < Settings.default.lowerThreshold
      ∧ Settings.default.lowerThreshold ≤ (4 : Int).natAbs ∧ (32 : Int).natAbs ≤ Settings.default.raiseThreshold := by
  decide

theorem met_UpkeepArithmetic_bounds :
    ((100 : Int) - correctionOf 102 ≤ 0 ∧ (100 : Int) - correctionOf 103 < 0)
      ∧ (Settings.default.reachDepth : Int) - correctionOf (-3) > Settings.default.reachDepth := by
  decide

/-- Record 5 of tree 1 ALIGNING with its CHECK granted and some attempts made; its entry names a profile. -/
def checking (attempts profile : Nat) : Part :=
  (base.part.modRecord .t1 5 fun r =>
    { r with
      state := .aligning
      check := .granted
      checkAttempts := attempts
      load := none }).modEntry 9 fun e => { e with profile := profile }

theorem met_UpkeepArithmetic_check :
    ((checking 3 5).record? .t1 5).any (fun r => r.state == .aligning && r.check == .granted && r.checkAttempts == 3)
      ∧ ((64 : Int).natAbs ≤ Settings.default.alignTolerance ∧ Settings.default.alignTolerance < (65 : Int).natAbs
        ∧ (512 : Int).natAbs ≤ Settings.default.driftLimit ∧ Settings.default.driftLimit < (513 : Int).natAbs)
      ∧ ((checking 2 0).entry? 9 = some { entryFor 9 2 with
          bound := true
          profile := 0 })
      ∧ ((checking 2 5).entry? 9).any (·.profile != 0)
      ∧ ((checking 2 5).record? .t1 5).any (·.checkAttempts + 1 < 4) ∧ ((checking 3 5).engine .t1).serving ≠ some 5 := by
  decide

/-- Record 3 of tree 1 with a nudge-pending mark. -/
def nudged (m : Option CycleNo) : Part := base.part.modRecord .t1 3 fun r => { r with nudgePending := m }

/-- The grant in cycle 20: later than the mark + 1 for the mark 18, not for the mark 19. -/
theorem met_UpkeepArithmetic_upkeep :
    ((nudged (some 18)).record? .t1 3).any (fun r => r.state == .inService && r.nudgePending == some 18)
      ∧ (2 ≤ cyclesSince 20 18 ∧ cyclesSince 20 18 ≤ 32767) ∧ ¬(2 ≤ cyclesSince 20 19)
      ∧ (nudged none).hasOrder .t1 (Order.isLag 3) = false ∧ Settings.default.deadband < (9 : Int).natAbs
      ∧ ((nudged none).engine .t1).serving ≠ some 3 := by
  decide

theorem met_ReplyCellsDecode :
    (List.replicate 13 (0 : Byte)).length = 13 ∧ (List.replicate 27 (0 : Byte)).length = 27 ∧ 65535 < 65536
      ∧ (List.replicate 24 (7 : Byte)).length = min 24 (25#8).toNat ∧ ([] : List Byte).length = min 24 (0#8).toNat
      ∧ ([9#8] : List Byte).length = 25 - (List.replicate 24 (7 : Byte)).length
      ∧ (List.replicate 30 (0x45 : Byte)).length = 30
      ∧ [0#8, 0#8] ≠ be 2 (crc16 (List.replicate 30 (0x45 : Byte))).toNat
      ∧ byteAt (List.replicate 30 (0x45 : Byte)) 0 ≠ 0x44#8 := by
  decide +kernel

theorem met_HuntFindsFrame : Config.syncByte ∉ [1#8, 2#8] ∧ (List.replicate 513 (Config.syncByte)).length ≤ 513 := by
  decide +kernel

theorem met_SavedSettingsReload : base.StoredOk := base_meets_invariants.2.2.1

theorem met_EntriesReload :
    (entryFor 7 2).profile ≤ 64 ∧ (entryFor 7 2).label.length ≤ 16 ∧ (entryFor 7 2).mask ≠ 0 ∧ (entryFor 7 0).mask = 0 := by
  decide

/-- Tree 1 with `n` orders queued and `m` held by tag. -/
def queued (n m : Nat) : Part :=
  base.part.modTree .t1 fun T =>
    { T with
      queue := List.replicate n (.relisten 9)
      heldOrders := List.replicate m (.lift 9) }

theorem met_OrderQueueRules :
    ((base.part.tree .t0).enabled = false)
      ∧ (((queued 31 0).tree .t1).enabled = true ∧ ((queued 31 0).tree .t1).queue.length < 32
        ∧ ((queued 31 0).tree .t1).heldOrders = [])
      ∧ (32 ≤ ((queued 32 63).tree .t1).queue.length ∧ (((queued 32 63).tree .t1).heldOrders.filter Order.isByTag).length < 64)
      ∧ (64 ≤ (((queued 3 64).tree .t1).heldOrders.filter Order.isByTag).length
        ∧ ((queued 3 64).tree .t1).heldOrders ≠ [] ∧ Order.isByTag (.lift 4) = true) := by
  decide

/-- Tree 1 with an engine that streams an image of 100 bytes to record 5, 60 of them in the FIFO, in a state, with its
counts; and with orders queued. -/
def pushing (x : EngineState) (fill cells : Nat) (os : List Order) : Part :=
  (base.part.modTree .t1 fun T => { T with queue := os }).modEngine .t1 fun e =>
    { e with
      state := x
      serving := some 5
      profile := 5
      source := some .streamed
      imageLength := 100
      fifo := List.replicate fill 7
      cellCount := cells }

theorem met_FieldTakesOldest :
    (base.part.engine .t1).state = .idle
      ∧ ((pushing .streaming 60 0 []).tree .t1).queue = []
      ∧ ((pushing .streaming 60 0 [.lift 3]).tree .t1).queue = .lift 3 :: []
      ∧ ((pushing .streaming 40 0 []).engine .t1).sendable = true ∧ ((pushing .streaming 39 0 []).engine .t1).sendable = false
      ∧ ((pushing .streaming 40 0 []).engine .t1).stallTimer = none := by
  decide

/-- A LAG by tag is for record 3 (tag 7) and not for the record of another tag; a PREPARE and a COMMIT for record 5. -/
theorem met_FieldTakesOldest_sent :
    (base.part.record? .t1 3).any (fun r => r.tag == 7 && r.tag != 8)
      ∧ (((pushing .preparing 60 0 []).engine .t1).serving = some 5 ∧ ((pushing .preparing 60 0 []).engine .t1).serving ≠ some 3
        ∧ ((pushing .preparing 60 0 []).engine .t1).awaiting = false ∧ ((pushing .preparing 60 0 []).engine .t1).ask = none)
      ∧ ((pushing .committing 60 0 []).engine .t1).state = .committing
      ∧ ((pushing .committing 60 0 []).tree .t1).expectations = []
      ∧ ((pushing .streaming 60 15 []).engine .t1).cellCount < 16
      ∧ 16 ≤ ((pushing .streaming 60 16 []).engine .t1).cellCount := by
  decide

/-- Tree 1 with the UPKEEP of record 3 due. -/
def upkeepIsDue : Part := base.part.modRecord .t1 3 fun r => { r with upkeepDue := true }

/-- The CHECK of record 3 of tree 3 eligible since cycle 4, and the engine of tree 1 asking for the status of record 5. -/
def checkAndAsk : Part :=
  (base.part.modRecord .t3 3 fun r => { r with check := .eligible 4 }).modEngine .t1 fun e =>
    { e with
      serving := some 5
      ask := some 5 }

/-- Slots B and C on, both due for record 3 of tree 1 since cycle 2, slot A off with a due mark left. -/
def pollsDue : Part :=
  { base.part.modRecord .t1 3 fun r => { r with polls := ⟨⟨none, some 0⟩, ⟨some 40, some 2⟩, ⟨none, some 2⟩⟩ } with
    reportTable := ⟨⟨0, 50, 4, false⟩, ⟨9, 50, 4, false⟩, ⟨8, 50, 4, false⟩⟩ }

theorem met_ArbiterChoice : upkeepIsDue.choose base.clock .t1 7 = some ⟨3, .upkeep, 1024, none⟩ := by decide

/-- A candidate of each class; the polls due since one cycle name the first slot of them; two records of a tree in order. -/
theorem met_ArbiterChoice_candidates :
    base.part.TableOk
      ∧ checkAndAsk.candidates base.clock .t3 .check = [⟨3, .check, 4, none⟩]
      ∧ checkAndAsk.candidates base.clock .t1 .loadStatus = [⟨5, .loadStatus, 5, none⟩]
      ∧ (upkeepIsDue.modRecord .t1 5 fun r => { r with upkeepDue := true }).candidates base.clock .t1 .upkeep =
        [⟨3, .upkeep, 1024, none⟩, ⟨5, .upkeep, 1024, none⟩]
      ∧ pollsDue.candidates base.clock .t1 .poll = [⟨3, .poll, 2, some (.b, 9)⟩] :=
  ⟨base_meets_invariants.2.2.2, by decide, by decide, by decide, by decide⟩

theorem met_GrantMakesExpectation :
    (⟨5, .loadStatus, 3, none⟩ : Candidate).purpose = .loadStatus ∧ (⟨3, .upkeep, 3, none⟩ : Candidate).purpose ≠ .loadStatus
      ∧ (⟨3, .check, 3, none⟩ : Candidate).purpose = .check
      ∧ ((⟨3, .poll, 3, some (.a, 9)⟩ : Candidate).purpose = .poll
        ∧ (⟨3, .poll, 3, some (.a, 9)⟩ : Candidate).report = some (.a, 9))
      ∧ (⟨3, .poll, 3, some (.c, 9)⟩ : Candidate).report = some (.c, 9) ∧ ReportSlot.c ≠ .a := by
  decide

/-- R113 and R168 by hand: the UPKEEP grant of cycle 5 clears the mark; the POLL grant of slot B in tenth 100 clears its due
mark and leaves the other slots. -/
theorem test_grant_marks_record :
    ((upkeepIsDue.issueGrant base.clock .t1 0 ⟨3, .upkeep, 1024, none⟩).record? .t1 3).map (fun r =>
        (r.upkeepDue, r.lastUpkeepGrant)) = some (false, 5)
      ∧ ((pollsDue.issueGrant base.clock .t1 0 ⟨3, .poll, 2, some (.b, 9)⟩).record? .t1 3).map (·.polls) =
        some ⟨⟨none, some 0⟩, ⟨some 100, none⟩, ⟨none, some 2⟩⟩ := by
  decide

/-! ### Witnesses: start-up, cycle start, tenth boundary -/

/-- Start-up runs: a read of `n` bytes at EEPROM offset `a` is under way. -/
def loading (v : Loader) (a n : Nat) : State :=
  { base with part := { base.part with
      loader := some v
      master := ⟨some ⟨.loader, .block, a, n, false⟩, .saver⟩ } }

theorem met_LoaderReadEnds :
    ((loading ⟨.soft, none, []⟩ 0 64).Settled ∧ (loading ⟨.soft, none, []⟩ 0 64).part.loader = some ⟨.soft, none, []⟩
      ∧ (loading ⟨.soft, none, []⟩ 0 64).part.master = ⟨some ⟨.loader, .block, 0, 64, false⟩, .saver⟩)
      ∧ (List.replicate 64 (1 : Byte)).length = 64 ∧ ([] ++ List.replicate 64 (1 : Byte)).length < 465
      ∧ 465 ≤ (List.replicate 448 (1 : Byte) ++ List.replicate 17 1).length
      ∧ ([] : List Byte) ++ [0xC4#8, 0#8, 0#8, 0xFF#8, 0xFF#8] =
        0xC4#8 :: be 2 ([] : List AdmitEntry).length
          ++ be 2 (crc16 (([] : List AdmitEntry).map AdmitEntry.stored).flatten).toNat
          ++ (([] : List AdmitEntry).map AdmitEntry.stored).flatten := by
  decide +kernel

/-- Two trees with auto_start on, one of them ENABLED already; an admission block of one entry that ADMIT would refuse. -/
theorem met_LoaderReadEnds_admission :
    ([] : List Byte) ++ [0xC4#8, 1#8, 1#8, 0#8, 0#8] = 0xC4#8 :: 1#8 :: 1#8 :: [0#8, 0#8]
      ∧ 256 < (1#8).toNat * 256 + (1#8).toNat ∧ (1#8).toNat * 256 + (0#8).toNat ≤ 256
      ∧ ([] : List Byte).length < 27 * ((0#8).toNat * 256 + (1#8).toNat)
      ∧ [List.replicate 27 (0xFF : Byte)].length = (0#8).toNat * 256 + (1#8).toNat
      ∧ [0#8, 0#8] ≠ be 2 (crc16 [List.replicate 27 (0xFF : Byte)].flatten).toNat
      ∧ entryOf (List.replicate 27 (0xFF : Byte)) = none := by
  decide +kernel

theorem met_CycleStartSendsHeaders :
    base.clock.stage = .closed ∧ base.clock.Ok ∧ (base.part.tree .t0).enabled = false
      ∧ (base.part.tree .t1).enabled = true := by
  decide

/-- Before the start of cycle 16: cycle `n` of its tenth, tree 1 with its scheduler in a phase, its timer and a dark count. -/
def beforeStart (n : Nat) (x : Phase) (timer dark : Nat) : State :=
  on1 { base with clock := ⟨15, 1000, n, 100, .closed⟩ } fun T =>
    { T with
      scheduler := ⟨x, timer, 8, 255⟩
      darkCount := dark }

/-- What every clause about an ENABLED tree asks, in and outside the last cycle of a tenth, in each phase. -/
theorem met_CycleStartSendsHeaders_enabled :
    (beforeStart 762 .idle 0 0).part.TableOk ∧ (beforeStart 5 (.leadIn 16) 800 63).part.TableOk
      ∧ ((beforeStart 762 .idle 0 0).clock.stage = .closed ∧ (beforeStart 762 .idle 0 0).clock.Ok
        ∧ ((beforeStart 762 .idle 0 0).part.tree .t1).enabled = true
        ∧ ((beforeStart 762 .idle 0 0).part.tree .t1).timerDone = false
        ∧ ((beforeStart 762 .idle 0 0).part.tree .t1).windowBegun = false
        ∧ ((beforeStart 762 .idle 0 0).part.tree .t1).darkDone = false)
      ∧ (∀ win, ((beforeStart 5 (.listening ⟨15, 8, 0, 9, 0, 0⟩) 0 0).part.tree .t1).scheduler.phase = .listening win →
        win.w ≠ 16)
      ∧ ((∀ win, ((beforeStart 5 .idle 0 0).part.tree .t1).scheduler.phase = .listening win → win.w ≠ 16)
        ∧ ∀ win, ((beforeStart 5 (.leadIn 16) 0 0).part.tree .t1).scheduler.phase = .listening win → win.w ≠ 16) := by
  refine ⟨base_meets_invariants.2.2.2, base_meets_invariants.2.2.2, by decide, ?_, ?_, ?_⟩ <;> intro win h <;> cases h
  decide

/-- The four window steps: the CALL cycle, a cycle of a lead-in, a window that begins (at the last timer value that does not
begin one, the timer counting up to it), and a cycle outside them; and a lead-in that DARK ends, at the first count that
does. -/
theorem met_CycleStartSendsHeaders_window :
    (((beforeStart 5 (.leadIn 16) 800 63).part.tree .t1).scheduler.phase = .leadIn (15 + 1)
        ∧ ((beforeStart 5 (.leadIn 17) 800 63).part.tree .t1).scheduler.phase = .leadIn 17 ∧ (17 : CycleNo) ≠ 15 + 1)
      ∧ (Settings.default.windowInterval = 763 ∧ ((beforeStart 5 .idle 762 0).part.tree .t1).settings = Settings.default
        ∧ ((beforeStart 5 .idle 762 0).part.tree .t1).scheduler.phase = .idle
        ∧ ((beforeStart 5 .idle 762 0).part.tree .t1).guard.hush = false
        ∧ min 65535 (((beforeStart 5 .idle 762 0).part.tree .t1).scheduler.timer + 1) = 763
        ∧ min 65535 (((beforeStart 5 .idle 761 0).part.tree .t1).scheduler.timer + 1) < 763)
      ∧ (((beforeStart 5 (.leadIn 17) 800 63).part.tree .t1).settings.guardMask.dark = true
        ∧ ((beforeStart 5 (.leadIn 17) 800 63).part.tree .t1).guard.present.dark = false
        ∧ ((beforeStart 5 (.leadIn 17) 800 63).part.tree .t1).lightSeen = false
        ∧ Settings.default.darkCycles = 63 + 1
        ∧ ∃ r ∈ (beforeStart 5 (.leadIn 17) 800 63).part.records, r.tree = .t1 ∧ (r.state = .loading ∨ r.state = .inService)) := by
  decide

/-- R38, R46, R107 by hand: the window that begins leaves the slot counter and asserts QUIET; DARK ends a lead-in at once. -/
theorem test_start_of_lead_in :
    (((beforeStart 5 .idle 762 0).cycleStart 0).part.tree .t1).quiet = true
      ∧ (((beforeStart 5 .idle 762 0).cycleStart 0).part.tree .t1).slotCounter = 0
      ∧ (((beforeStart 5 (.leadIn 17) 800 63).cycleStart 0).part.tree .t1).scheduler = ⟨.idle, 0, 8, 255⟩
      ∧ (((beforeStart 5 (.leadIn 17) 800 63).cycleStart 0).part.tree .t1).quiet = false := by
  decide +kernel

/-- The slots of a header: none chosen with a full list or without a candidate, one chosen; and an engine in SETTLING. -/
theorem met_CycleStartSendsHeaders_slots :
    (upkeepIsDue.tree .t1).expectations.length < 16 ∧ upkeepIsDue.choose base.clock .t1 (upkeepIsDue.tree .t1).slotCounter =
        some ⟨3, .upkeep, 1024, none⟩
      ∧ base.part.choose base.clock .t1 (base.part.tree .t1).slotCounter = none
      ∧ ¬((upkeepIsDue.modTree .t1 fun T =>
          { T with expectations := List.replicate 16 ⟨5, .upkeep, none, 4, 0, 0, none, false⟩ }).tree .t1).expectations.length < 16
      ∧ (base.part.engine .t1).state ≠ .settling
      ∧ (((base.part.modEngine .t1 fun e => { e with state := .settling, settleLeft := 2 }).engine .t1).state = .settling
        ∧ 2 ≤ ((base.part.modEngine .t1 fun e => { e with state := .settling, settleLeft := 2 }).engine .t1).settleLeft) := by
  decide

/-- The window timer of tree 1 reaches the window interval when it is increased. -/
def windowDue : State := on1 opened fun T => { T with scheduler := { T.scheduler with timer := 762 } }

/-- The lead-in of tree 1 ends in the CALL of this cycle. -/
def callDue : State := on1 opened fun T => { T with scheduler := ⟨.leadIn 16, 800, 8, 255⟩ }

theorem met_WindowBeginsAndCalls :
    (windowDue.part.raised = [] ∧ (windowDue.startOpen.part.tree .t1).enabled = true
      ∧ (windowDue.startOpen.part.tree .t1).scheduler.phase = .idle
      ∧ (windowDue.startOpen.part.tree .t1).timerDone = false
      ∧ (windowDue.startOpen.part.tree .t1).settings.windowInterval ≤
        min 65535 ((windowDue.startOpen.part.tree .t1).scheduler.timer + 1)
      ∧ (windowDue.startOpen.part.tree .t1).guard.hush = false)
      ∧ callDue.part.raised = [] ∧ (callDue.startOpen.part.tree .t1).enabled = true
      ∧ (callDue.startOpen.part.tree .t1).scheduler.phase = .leadIn callDue.startOpen.clock.cycle := by
  decide

/-- Record 3 of tree 1 was last granted its upkeep exactly one interval of level 0 ago. -/
def upkeepFalls : State := rec1 opened 3 fun r => { r with lastUpkeepGrant := 16 - 1024 }

theorem met_UpkeepFallsDue :
    upkeepFalls.part.raised = []
      ∧ upkeepFalls.startOpen.part.record? .t1 3 =
        some { recordIn 3 7 .inService with lastUpkeepGrant := 16 - 1024 }
      ∧ upkeepInterval 0 ≤ cyclesSince upkeepFalls.startOpen.clock.cycle (16 - 1024) := by
  decide

/-- Tree 1 with a dark count and a guard. -/
def guarded (dark : Nat) (g : Guard) : State :=
  on1 opened fun T =>
    { T with
      darkCount := dark
      guard := g }

/-- DARK is due on tree 1 at an open start of cycle 16 whose window timer has not advanced, in a lead-in to cycle `w`. -/
def darkInLeadIn (w : CycleNo) : State := on1 (guarded 64 .clear) fun T => { T with scheduler := ⟨.leadIn w, 800, 8, 255⟩ }

theorem met_GuardTestsAtCycleStart_leadIn :
    (darkInLeadIn 16).part.raised = [] ∧ ((darkInLeadIn 16).startOpen.part.tree .t1).enabled = true
      ∧ ((darkInLeadIn 16).startOpen.part.tree .t1).darkDone = false
      ∧ ((darkInLeadIn 16).startOpen.part.tree .t1).timerDone = false
      ∧ ((darkInLeadIn 16).startOpen.part.tree .t1).windowBegun = false
      ∧ (darkInLeadIn 16).startOpen.part.darkDue .t1 = true
      ∧ ((darkInLeadIn 16).startOpen.part.tree .t1).guard.hush = false
      ∧ ((darkInLeadIn 16).startOpen.part.tree .t1).scheduler.phase = .leadIn 16 := by
  decide

/-- R46 by hand: HUSH taken first at the start of the CALL cycle leaves no CALL, and that cycle start counts as the first of
the window timer. -/
theorem test_hush_before_call :
    (match exec (.darkArises .t1) (darkInLeadIn 16) with
      | .next u => some ((u.cycleStart 0).part.tree .t1)
      | _ => none).map (fun T : Tree => (T.scheduler, T.header.call, T.slotCounter)) = some (⟨.idle, 1, 8, 255⟩, none, 2) := by
  decide +kernel

theorem met_GuardTestsAtCycleStart :
    ((guarded 64 .clear).part.raised = [] ∧ ((guarded 64 .clear).startOpen.part.tree .t1).enabled = true
      ∧ ((guarded 64 .clear).startOpen.part.tree .t1).darkDone = false
      ∧ (guarded 64 .clear).startOpen.part.darkDue .t1 = true
      ∧ ((guarded 64 .clear).startOpen.part.tree .t1).guard.hush = false)
      ∧ (guarded 64 ⟨true, ⟨true, false, false⟩, ⟨true, false, false⟩, 3, none⟩).startOpen.part.darkDue .t1 = true
      ∧ opened.startOpen.clock.cycle.toNat % 16 = 0 ∧ (opened.startOpen.part.tree .t1).spanDone = false
      ∧ (Settings.default.strayThreshold ≤ 4 ∧ 3 < Settings.default.strayThreshold) := by
  decide

/-- The engine of tree 1 serves record 5 in a state, with what its FIFO holds of an image of 60 bytes. -/
def serving (s : State) (x : EngineState) (src : Option Source) (fifo : List Byte) : State :=
  eng1 (rec1 s 5 fun r => { r with load := some ⟨5, .settling, 1, src⟩ }) fun e =>
    { e with
      state := x
      serving := some 5
      profile := 5
      source := src
      imageLength := 60
      fifo := fifo
      settleLeft := 1 }

theorem met_SettlingEnds :
    ((serving opened .settling (some .streamed) [1]).part.raised = []
      ∧ ((serving opened .settling (some .streamed) [1]).startOpen.part.engine .t1).state = .settling
      ∧ ((serving opened .settling (some .streamed) [1]).startOpen.part.engine .t1).settleLeft ≤ 1
      ∧ ((serving opened .settling (some .streamed) [1]).startOpen.part.engine .t1).serving = some 5
      ∧ ((serving opened .settling (some .streamed) [1]).startOpen.part.engine .t1).stallTimer = none
      ∧ (serving opened .settling (some .streamed) [1]).startOpen.part.record? .t1 5 =
        some { recordIn 5 9 .loading with load := some ⟨5, .settling, 1, some .streamed⟩ })
      ∧ ((serving opened .settling (some .streamed) [1]).startOpen.part.engine .t1).paused = true
      ∧ ((serving opened .settling (some .streamed) (List.replicate 40 1)).startOpen.part.engine .t1).paused = false := by
  decide

/-- Record 3 of tree 1 with slot A at its stale limit of 6 tenths and last polled 2 tenths ago. -/
def reported : State :=
  let s := rec1 boundaryTaken 3 fun r =>
    { r with
      reports := { r.reports with a := ⟨true, 1, [7], 6, false⟩ }
      polls := { r.polls with a := ⟨some 99, none⟩ } }
  { s with part := { s.part with reportTable := { s.part.reportTable with a := ⟨1, 2, 3, true⟩ } } }

theorem met_TenthBoundaryReports :
    (boundaryOpen.part.raised = [] ∧ boundaryOpen.atStart.clock.stage = .boundaryDue)
      ∧ (reported.part.raised = [] ∧ reported.startOpen.clock.stage = .boundaryTaken)
      ∧ (reported.startOpen.part.record? .t1 3).any (fun r =>
          r.state == .inService && (r.reports.get .a).valid && !(r.reports.get .a).stale && (r.reports.get .a).age == 3 * 2
            && (r.polls.get .a).due == none && (r.polls.get .a).lastPoll == some 99) = true
      ∧ (reported.startOpen.part.reportTable.get .a).interval
        ≤ tenthsSince reported.startOpen.clock.tenth 99 := by
  decide

/-- Record 3 of tree 1 in REFIND, its deadline reached at this boundary. -/
def deadline : State :=
  rec1 boundaryTaken 3 fun r =>
    { r with
      state := .refind
      refind := some 101 }

/-- The resume timer of tree 1 expires at this boundary. -/
def resuming : State :=
  on1 boundaryTaken fun T => { T with guard := ⟨true, .none, ⟨true, false, false⟩, 3, some ⟨81, 20⟩⟩ }

theorem met_DeadlineAndResume :
    (deadline.part.raised = [] ∧ deadline.startOpen.clock.stage = .boundaryTaken
      ∧ deadline.startOpen.part.record? .t1 3 =
        some { recordIn 3 7 .refind with refind := some 101 }
      ∧ tenthsSince deadline.startOpen.clock.tenth 101 < 2147483648
      ∧ (deadline.startOpen.part.engine .t1).serving ≠ some 3)
      ∧ resuming.part.raised = [] ∧ resuming.startOpen.clock.stage = .boundaryTaken
      ∧ (resuming.startOpen.part.tree .t1).guard.hush = true
      ∧ (resuming.startOpen.part.tree .t1).guard.resume = some ⟨81, 20⟩
      ∧ 20 ≤ tenthsSince resuming.startOpen.clock.tenth 81 := by
  decide

/-- The four push timers of tree 1 expire at this boundary: each is read in one state of the engine only. -/
def timedOut (x : EngineState) (used : Nat) (dark : Bool) : State :=
  let s := rec1 (serving boundaryTaken x (some .internal) [1]) 5 fun r => { r with load := some (waiting 5 used) }
  let s := eng1 s fun e =>
    { e with
      prepareTimer := some ⟨96, 5⟩
      beginTimer := some ⟨86, 15⟩
      stallTimer := some ⟨86, 15⟩
      commitTimer := some ⟨81, 20⟩ }
  on1 s fun T => { T with guard := { T.guard with present := { T.guard.present with dark := dark } } }

/-- What every clause of PushTimersFail supposes, for a state of the engine. -/
def timerMet (x : EngineState) (used : Nat) (dark : Bool) : Bool :=
  (timedOut x used dark).part.raised == [] && (timedOut x used dark).startOpen.clock.stage == .boundaryTaken
    && ((timedOut x used dark).startOpen.part.engine .t1).state == x
    && ((timedOut x used dark).startOpen.part.engine .t1).serving == some 5
    && (timedOut x used dark).startOpen.part.record? .t1 5 ==
      some { recordIn 5 9 .loading with load := some (waiting 5 used) }
    && ((timedOut x used dark).startOpen.part.tree .t1).guard.present.dark == dark

/-- Each timer at its length, and the boundary of push_retries (2): 1 attempt used is taken again, 2 are HELD, and under
DARK 2 are taken again. -/
theorem met_PushTimersFail :
    (timerMet .preparing 1 false = true ∧ ((timedOut .preparing 1 false).startOpen.part.engine .t1).prepareTimer =
        some ⟨96, 5⟩ ∧ 5 ≤ tenthsSince (timedOut .preparing 1 false).startOpen.clock.tenth 96)
      ∧ (timerMet .resolving 2 false = true ∧ ((timedOut .resolving 2 false).startOpen.part.engine .t1).beginTimer =
        some ⟨86, 15⟩ ∧ 15 ≤ tenthsSince (timedOut .resolving 2 false).startOpen.clock.tenth 86)
      ∧ (timerMet .streaming 2 true = true ∧ ((timedOut .streaming 2 true).startOpen.part.engine .t1).stallTimer =
        some ⟨86, 15⟩)
      ∧ (timerMet .committing 1 false = true ∧ ((timedOut .committing 1 false).startOpen.part.engine .t1).commitTimer =
        some ⟨81, 20⟩ ∧ 20 ≤ tenthsSince (timedOut .committing 1 false).startOpen.clock.tenth 81)
      ∧ Settings.default.pushRetries = 2 := by
  decide +kernel

theorem met_PushTimersFail_other :
    ((timedOut .streaming 2 false).part.engine .t1).serving = some 5
      ∧ ((timedOut .streaming 2 false).part.record? .t1 5).any (fun r => r.load == some (waiting 5 2)) := by
  decide

/-- Records 3 and 5 wait in the push queue of tree 1, record 3 IMPAIRED, and slot 5 is READY. -/
def mayTake (n : Nat) : Part :=
  (((base.part.setSlot 5 ⟨.ready, [1, 2, 3]⟩).modTree .t1 fun T => { T with pushQueue := [3, 5] }).modRecord .t1 3 fun r =>
    { r with impaired := true }).modRecord .t1 5 fun r => { r with load := some (waiting n 0) }

/-- The same without a READY slot 6, with a fallback and a store strap. -/
def mayNotTake (n : Nat) (fallback : Fallback) (store : Bool) : Part :=
  { (mayTake n).modTree .t1 fun T => { T with settings := { T.settings with fallback := fallback } } with
    straps := ⟨true, false, store⟩ }

theorem met_EngineTakes :
    ((mayTake 5).engine .t1).state = .idle ∧ ((mayTake 5).tree .t1).guard.present.dark = false
      ∧ ((mayTake 5).tree .t1).pushQueue = [3] ++ 5 :: []
      ∧ ((mayTake 5).record? .t1 3).all (·.impaired) = true
      ∧ (mayTake 5).record? .t1 5 = some { recordIn 5 9 .loading with load := some (waiting 5 0) }
      ∧ ((mayTake 5).slot 5).state = .ready
      ∧ (((mayTake 5).tree .t1).enabled = true ∧ ((mayTake 5).tree .t1).accepts = true)
      ∧ (mayTake 64).record? .t1 5 = some { recordIn 5 9 .loading with load := some (waiting 64 0) }
      ∧ (mayTake 5).record? .t1 7 = none
      ∧ ((mayNotTake 16 .hold true).slot 16).state ≠ .ready
      ∧ (mayNotTake 17 .useDefault false).straps.store = false ∧ (mayNotTake 63 .hold true).straps.store = true := by
  decide +kernel

/-- The engine serves record 5 and awaits its status. -/
def awaiting (x : EngineState) (settle : Nat) : Part :=
  ((pushing x 60 0 []).modEngine .t1 fun e => { e with awaiting := true }).modTree .t1 fun T =>
    { T with settings := { T.settings with settleCycles := settle } }

theorem met_EngineTakes_outcome :
    ((awaiting .streaming 0).engine .t1).serving = some 5 ∧ ((awaiting .streaming 0).engine .t1).awaiting = true
      ∧ ((awaiting .streaming 0).engine .t1).ask = none ∧ ((awaiting .streaming 0).tree .t1).expectations = []
      ∧ ((awaiting .preparing 1).tree .t1).settings.settleCycles ≠ 0
      ∧ ((awaiting .preparing 0).tree .t1).settings.settleCycles = 0
      ∧ (((awaiting .preparing 0).engine .t1).paused = false)
      ∧ (0 % 40 = 0 ∧ 100 = ((awaiting .streaming 0).engine .t1).imageLength ∧ 41 % 40 ≠ 0 ∧ 40 % 40 = 0)
      ∧ ((awaiting .committing 0).record? .t1 5).any (fun r => r.load.isSome) := by
  decide

/-! ### Witnesses: the upstream side -/

/-- The tree time of `base`. -/
def now : TreeTime := base.clock.treeTime

/-- Tree 1 with a seek period opened 1000 steps before its end at position 2900, DARK present or absent. -/
def seeking (dark : Bool) : State :=
  on1 base fun T =>
    { T with
      seeks := [⟨5 * 131072 + 900, true⟩]
      guard := { T.guard with present := ⟨false, dark, false⟩ } }

theorem met_LightAndSeek :
    (base.Settled ∧ base.clock.pos ≤ 131071 ∧ (131071 : Nat) < 131072 ∧ (base.part.tree .t0).enabled = false)
      ∧ (((seeking false).part.tree .t1).enabled = true ∧ ((seeking false).part.tree .t1).guard.present.dark = false)
      ∧ ((seeking true).Settled ∧ ((seeking true).part.tree .t1).guard.present.dark = true)
      ∧ ((seeking false).part.tree .t1).seeks = ⟨5 * 131072 + 900, true⟩ :: []
      ∧ ((seeking false).atPos 2900).clock.treeTime = (5 * 131072 + 900) + 2000#33 := by
  decide

/-- Tree 1 receives the burst `b`. -/
def receiving (b : Burst) : State := on1 base fun T => { T with bursts := [b] }

/-- A burst found at position 300 of cycle 5. -/
def burstAt (ended : Option Bool) (decoded : Option (QuarterNo × Option TreeReply)) : Burst :=
  ⟨5 * 131072 + 3, true, 5 * 131072 + 300, 300, ended, decoded⟩

theorem met_BurstReceived :
    ((seeking false).Settled ∧ (seeking false).clock.pos ≤ 2900
      ∧ ((seeking false).part.tree .t1).seeks.getLast? = some ⟨5 * 131072 + 900, true⟩
      ∧ elapsed ((seeking false).atPos 2900).clock.treeTime (5 * 131072 + 900) ≤ 2000)
      ∧ ((receiving (burstAt none none)).Settled
        ∧ ((receiving (burstAt none none)).part.tree .t1).bursts = burstAt none none :: []
        ∧ (burstAt none none).ended = none ∧ (burstAt none (some (20, none))).ended = none
        ∧ (burstAt none none).decoded = none ∧ (burstAt (some true) none).decoded = none
        ∧ elapsed ((receiving (burstAt none none)).atPos 98603).clock.treeTime (burstAt none none).found = 98303) := by
  decide

/-- Tree 1 with one arrival waiting, its window record and its expectation list as given. -/
def arrived (c : Content) (win : Window) (es : List Expectation) (strays : Nat) : State :=
  on1 base fun T =>
    { T with
      arrivals := [⟨now - 100, now - 200, c⟩]
      scheduler := ⟨.listening win, 9, 16, 4⟩
      expectations := es
      guard := { T.guard with strayCount := strays } }

/-- A window whose span begins exactly at the arrival, and one whose span begins one step after it. -/
def windowFrom (start : TreeTime) : Window := ⟨4, 16, start, now + 50, 0, 0⟩

/-- A hello reply of a window number. -/
def helloOf (number : Byte) : Content := .valid 7 8 ⟨0, false, .hello number 3 20 5⟩

/-- An orphan whose expected arrival lies `d` steps before the arrival. -/
def orphanAt (d : Nat) : Expectation := ⟨9, .upkeep, none, 1, 1, now - 100 - BitVec.ofNat 33 d, none, true⟩

theorem met_DispatchOrder :
    ((arrived .errored (windowFrom (now - 100)) [] 0).part.tree .t1).nextArrival now = some ⟨now - 100, now - 200, .errored⟩
      ∧ (base.part.tree .t1).seeks = [] ∧ (base.part.tree .t1).bursts = [] ∧ (base.part.tree .t1).arrivals = []
      ∧ now - 200 ∈ ((arrived .errored (windowFrom now) [] 0).part.tree .t1).arrivals.map (·.opened) := by
  decide

/-- A light event without burst on a tree whose DARK keeps it in HUSH. -/
def strayInHush (n : Nat) : State :=
  on1 (arrived .lightOnly (windowFrom (now - 99)) [] n) fun T =>
    { T with guard := { T.guard with
        hush := true
        present := ⟨false, true, false⟩
        seen := ⟨false, true, false⟩ } }

theorem met_DispatchGivesOwner :
    ((arrived .errored (windowFrom (now - 100)) [] 0).Settled
      ∧ ((arrived .errored (windowFrom (now - 100)) [] 0).part.tree .t1).nextArrival now =
        some ⟨now - 100, now - 200, .errored⟩
      ∧ (windowFrom (now - 100)).contains (now - 100) = true)
      ∧ (((arrived (helloOf 4) (windowFrom (now - 100)) [] 0).part.tree .t1).nextArrival now =
          some ⟨now - 100, now - 200, helloOf 4⟩
        ∧ ((arrived (helloOf 4) (windowFrom (now - 100)) [] 0).part.tree .t1).scheduler.number = 4 ∧ (3 : Byte) ≠ 4)
      ∧ ((windowFrom (now - 99)).contains (now - 100) = false
        ∧ 2048 < (timeDiff (now - 100) (orphanAt 2049).expected).natAbs
        ∧ (timeDiff (now - 100) (orphanAt 2048).expected).natAbs ≤ 2048 ∧ (orphanAt 2048).orphan = true
        ∧ ((arrived .lightOnly (windowFrom (now - 99)) [orphanAt 2049, orphanAt 2048] 0).part.engine .t1).askDeferred = false)
      ∧ (min 255 (2 + 1) < Settings.default.strayThreshold ∧ Settings.default.strayThreshold ≤ min 255 (3 + 1)
        ∧ Settings.default.guardMask.stray = true
        ∧ ((arrived .lightOnly (windowFrom (now - 99)) [] 3).part.tree .t1).guard.hush = false)
      ∧ (((strayInHush 3).part.tree .t1).nextArrival now = some ⟨now - 100, now - 200, .lightOnly⟩
        ∧ ((strayInHush 3).part.tree .t1).guard.hush = true ∧ ((strayInHush 3).part.tree .t1).guard.present.stray = false) := by
  decide

/-- A live entry of record 3 whose expected arrival lies `d` steps before the arrival. -/
def liveAt (u : Purpose) (d : Nat) : Expectation := { orphanAt d with
  handle := 3
  purpose := u
  report := if u == .poll then some (.a, 1) else none
  orphan := false }

/-- A reply of a handle. -/
def replyOf (h : Nat) (b : ReplyBody) : Content := .valid 7 8 ⟨h, true, b⟩

theorem met_DispatchGivesOwner_live :
    (timeDiff (now - 100) (liveAt .upkeep 2048).expected).natAbs ≤ 2048 ∧ (liveAt .upkeep 2048).orphan = false
      ∧ ((arrived (replyOf 3 .echo) (windowFrom (now - 99)) [orphanAt 2049, liveAt .upkeep 2048] 0).part.tree
          .t1).nextArrival now = some ⟨now - 100, now - 200, replyOf 3 .echo⟩
      ∧ (liveAt .upkeep 0).handle = 3 ∧ (replyOf 4 .echo = .valid 7 8 ⟨4, true, .echo⟩)
      ∧ (liveAt .loadStatus 0).purpose ≠ .check ∧ (liveAt .poll 0).report = some (.a, 1) := by
  decide

/-- Record 5 of tree 1 with counts. -/
def counted (impaired : Bool) (errors misses : Nat) : Part :=
  base.part.modRecord .t1 5 fun r =>
    { r with
      impaired := impaired
      errorCount := errors
      missCount := misses }

/-- At error_limit (4) a clean reply clears IMPAIRED, below it not; at miss_limit (8) a miss sends a record to REFIND. -/
theorem met_DispatchGivesOwner_counting :
    (Settings.default.errorLimit = 4 ∧ Settings.default.missLimit = 8)
      ∧ ((counted true 4 0).record? .t1 5).any (fun r => r.impaired && r.errorCount == 4)
      ∧ (((counted true 4 0).countOutcome base.clock .t1 5 (.answered 3 false .echo)).record? .t1 5).any
          (fun r => !r.impaired && r.state != .refind)
      ∧ (((counted true 3 0).countOutcome base.clock .t1 5 (.answered 3 false .echo)).record? .t1 5).any (·.impaired)
      ∧ (((counted false 3 7).countOutcome base.clock .t1 5 .missed).record? .t1 5).any (·.state == .refind)
      ∧ ((counted false 3 7).engine .t1).serving ≠ some 5 := by
  decide +kernel

/-- The engine of tree 1 has deferred its ask, and nothing stands in its way. -/
theorem met_DispatchGivesOwner_ask :
    let p := (pushing .streaming 60 16 []).modEngine .t1 fun e => { e with askDeferred := true }
    (p.engine .t1).askDeferred = true ∧ (p.engine .t1).serving = some 5 ∧ (p.engine .t1).awaiting = false
      ∧ (p.engine .t1).ask = none ∧ (p.tree .t1).expectations = [] := by
  decide

/-- Tree 1 with one entry, whose expiry point is just passed at position 1000, and a miss count of record 3. -/
def expiring (orphan dark : Bool) (misses : Nat) : State :=
  on1 (rec1 base 3 fun r => { r with missCount := misses }) fun T =>
    { T with
      expectations := [⟨3, .upkeep, none, 1, 1, now - 2049, none, orphan⟩]
      guard := { T.guard with present := ⟨false, dark, false⟩ } }

theorem met_ExpectationExpires :
    ((expiring true false 0).Settled ∧ (expiring true false 0).clock.pos ≤ 1000
      ∧ ((expiring true false 0).part.tree .t1).expectations = ⟨3, .upkeep, none, 1, 1, now - 2049, none, true⟩ :: []
      ∧ ((expiring true false 0).part.tree .t1).passed ((expiring true false 0).atPos 1000).clock.treeTime
        (now - 2049 + 2048#33) = true
      ∧ ((expiring true false 0).part.engine .t1).askDeferred = false)
      ∧ ((expiring false true 0).part.tree .t1).guard.present.dark = true
      ∧ ((expiring false false 6).part.record? .t1 3 = some { recordIn 3 7 .inService with missCount := 6 }
        ∧ 6 + 1 < ((expiring false false 6).part.tree .t1).settings.missLimit)
      ∧ (7 + 1 = ((expiring false false 7).part.tree .t1).settings.missLimit
        ∧ ((expiring false false 7).part.engine .t1).serving ≠ some 3
        ∧ ((expiring false false 7).part.tree .t1).enabled = true
        ∧ ((expiring false false 7).part.tree .t1).accepts = true) := by
  decide

/-- Tree 1 with one live entry of record 5 for a purpose, its expiry point passed; the record, and an engine that serves
it or not. -/
def expiringFor (u : Purpose) (x : RecState) (misses attempts : Nat) (served dark : Bool) : State :=
  eng1 (on1 (rec1 base 5 fun r =>
      { r with
        state := x
        missCount := misses
        checkAttempts := attempts }) fun T =>
    { T with
      expectations :=
        [⟨5, u, if u == .poll then some (.b, 3) else none, 1, 1, now - 2049, if u == .loadStatus then some 40 else none,
          false⟩]
      guard := { T.guard with present := ⟨false, dark, false⟩ } }) fun e =>
    { e with
      state := if served then .streaming else .idle
      serving := if served then some 5 else none
      awaiting := served }

theorem met_ExpectationExpires_purposes :
    ((expiringFor .check .aligning 9 3 false false).Settled
      ∧ ((expiringFor .check .aligning 9 3 false false).part.tree .t1).passed
        ((expiringFor .check .aligning 9 3 false false).atPos 1000).clock.treeTime (now - 2049 + 2048#33) = true
      ∧ ((expiringFor .check .aligning 9 3 false false).part.record? .t1 5).any (·.checkAttempts + 1 == 4)
      ∧ ((expiringFor .check .aligning 9 2 false false).part.record? .t1 5).any (·.checkAttempts + 1 == 3)
      ∧ ((expiringFor .check .aligning 9 3 false false).part.engine .t1).serving ≠ some 5)
      ∧ (((expiringFor .poll .inService 6 0 false true).part.tree .t1).guard.present.dark = true
        ∧ ((expiringFor .poll .inService 6 0 false true).part.record? .t1 5).any (·.state == .inService)
        ∧ ((expiringFor .check .aligning 6 0 false true).part.record? .t1 5).any (·.state != .refind)
        ∧ ((expiringFor .loadStatus .loading 6 0 true true).part.record? .t1 5).all (·.state != .refind))
      ∧ (((expiringFor .loadStatus .loading 6 0 true true).part.engine .t1).serving = some 5
        ∧ ((expiringFor .loadStatus .loading 6 0 true true).part.engine .t1).awaiting = true
        ∧ ((expiringFor .loadStatus .loading 6 0 true true).part.engine .t1).ask = none
        ∧ ((expiringFor .loadStatus .loading 6 0 true false).part.record? .t1 5).any
          (·.missCount + 1 < Settings.default.missLimit))
      ∧ (((expiringFor .upkeep .loading 9 0 true false).part.tree .t1).pushQueue = []
        ∧ ((expiringFor .upkeep .loading 9 0 true false).part.record? .t1 5).any (Settings.default.missLimit ≤ ·.missCount)
        ∧ ((expiringFor .upkeep .loading 9 0 true false).part.engine .t1).askDeferred = false) := by
  decide

/-- Tree 1 with a window whose span end is just passed, and its collision count. -/
def closingWindow (c : Nat) : State :=
  on1 base fun T => { T with scheduler := ⟨.listening ⟨4, 16, now - 90, now - 1, c, 3⟩, 9, 16, 4⟩ }

theorem met_WindowCloses :
    ((closingWindow 15).Settled ∧ (closingWindow 15).clock.pos ≤ 1000
      ∧ ((closingWindow 15).part.tree .t1).scheduler.phase = .listening ⟨4, 16, now - 90, now - 1, 15, 3⟩
      ∧ ((closingWindow 15).part.tree .t1).passed ((closingWindow 15).atPos 1000).clock.treeTime (now - 1) = true)
      ∧ 15 < Settings.default.stormThreshold ∧ Settings.default.stormThreshold ≤ 16
      ∧ Settings.default.guardMask.storm = true := by
  decide

/-- Tree 1 with a hello waiting for its measurement. -/
def helloWaits (r : Int) (raw : Bool) (n : Nat) : State :=
  on1 base fun T =>
    { T with
      hellos := [hello r]
      settings := { T.settings with rawStamps := raw }
      rawCount := n }

theorem met_HelloMeasured :
    ((helloWaits (-65) false 0).Settled ∧ ((helloWaits (-65) false 0).part.tree .t1).hellos = hello (-65) :: []
      ∧ (hello (-65)).rtt ((helloWaits (-65) false 0).part.tree .t1).settings.treeOffset < -64)
      ∧ -64 ≤ (hello (-64)).rtt ((helloWaits (-64) false 0).part.tree .t1).settings.treeOffset
      ∧ (((helloWaits 0 true 3).part.tree .t1).settings.rawStamps = true ∧ ((helloWaits 0 true 3).part.tree .t1).rawCount < 4)
      ∧ 4 ≤ ((helloWaits 0 true 4).part.tree .t1).rawCount := by
  decide

/-- Tree 1 with a measured hello of a tag waiting. -/
def measured (g : Tag) (cls : HelloClass) : State := on1 base fun T => { T with measured := [⟨9, 4, g, 66, 3, cls, 100, 4000⟩] }

/-- The unclaimed list holds tag 99 and 14 more. -/
def unclaimedFull (g : Tag) : State :=
  { measured g .near with part := { (measured g .near).part with
      unclaimedTags := (List.range 15).map fun n => ⟨BitVec.ofNat 64 (85 + n), .t3, 7, 4, 5, 255⟩ } }

/-- The table holds 192 records, none of tag 20, and the tree has told it. -/
def tableFull : State :=
  { measured 20 .near with part := { ((measured 20 .near).part.modTree .t1 fun T => { T with turnedAway := true }) with
      records := (List.range 192).map fun n => recordIn (n % 64 + 1) (BitVec.ofNat 64 (n + 1000)) .inService } }

theorem met_MeasuredHelloTaken :
    ((unclaimedFull 100).Settled
      ∧ ((unclaimedFull 100).part.tree .t1).measured = ⟨9, 4, 100, 66, 3, .near, 100, 4000⟩ :: []
      ∧ (unclaimedFull 100).part.entry? 100 = none ∧ (∀ e ∈ (unclaimedFull 100).part.unclaimedTags, e.tag ≠ 100)
      ∧ (unclaimedFull 100).part.unclaimedTags.length < 16)
      ∧ ((unclaimedFull 99).part.entry? 99 = none ∧ ∃ e ∈ (unclaimedFull 99).part.unclaimedTags, e.tag = 99)
      ∧ ((measured 11 .near).part.recordOf? 11).any (fun r =>
          r.state == .held && (measured 11 .near).part.record? r.tree r.handle == some r) = true
      ∧ ((measured 21 .near).part.entry? 21 = some (entryFor 21 1) ∧ (measured 21 .near).part.recordOf? 21 = none
        ∧ inMask (entryFor 21 1).mask .t1 = false) := by
  decide +kernel

theorem met_MeasuredHelloTaken_new :
    (tableFull.part.entry? 20 = some (entryFor 20 2) ∧ tableFull.part.recordOf? 20 = none
      ∧ inMask (entryFor 20 2).mask .t1 = true ∧ 192 ≤ tableFull.part.records.length
      ∧ (tableFull.part.tree .t1).turnedAway = true)
      ∧ ((measured 20 .near).part.record? .t1 1 = none ∧ (measured 20 .near).part.reserved .t1 1 = false
        ∧ ((measured 20 .near).part.tree .t1).enabled = true ∧ ((measured 20 .near).part.tree .t1).accepts = true)
      ∧ (measured 20 .far).part.record? .t1 1 = none := by
  decide +kernel

/-- Tree 1 with a full unclaimed list: tag 202 heard longest ago, nearer the head than tag 203. -/
def unclaimedOver : State :=
  { measured 100 .near with part := { (measured 100 .near).part with
      unclaimedTags :=
        [⟨200, .t3, 7, 4, 50, 1⟩, ⟨201, .t3, 7, 4, 21, 1⟩] ++ ⟨202, .t3, 7, 4, 20, 1⟩ :: ⟨203, .t3, 7, 4, 20, 1⟩
          :: (List.range 12).map fun n => ⟨BitVec.ofNat 64 (204 + n), .t3, 7, 4, 60, 1⟩ } }

theorem met_MeasuredHelloTaken_displaced :
    16 ≤ unclaimedOver.part.unclaimedTags.length
      ∧ (∀ y ∈ unclaimedOver.part.unclaimedTags.take 2,
        tenthsSince unclaimedOver.clock.tenth y.lastHeard < tenthsSince unclaimedOver.clock.tenth 20)
      ∧ (∀ y ∈ unclaimedOver.part.unclaimedTags.drop 3,
        tenthsSince unclaimedOver.clock.tenth y.lastHeard ≤ tenthsSince unclaimedOver.clock.tenth 20)
      ∧ ∀ y ∈ unclaimedOver.part.unclaimedTags.take 2 ++ unclaimedOver.part.unclaimedTags.drop 3, y.tag ≠ 202 := by
  decide +kernel

/-- A measured hello of a tag with the conflict mark of its entry set. -/
def conflicting (g : Tag) : State :=
  { measured g .near with part := (measured g .near).part.modEntry g fun e => { e with conflict := true } }

/-- A measured hello of record 3 (tag 7) in a state, heard before in the window given; and of tag 13, bound on tree 3. -/
def heardAgain (x : RecState) (window : Byte) (cls : HelloClass) : State :=
  rec1 (measured 7 cls) 3 fun r =>
    { r with
      state := x
      heardWindow := some window }

theorem met_MeasuredHelloTaken_bound :
    ((conflicting 20).part.recordOf? 20 = none ∧ ((conflicting 20).part.entry? 20).any (·.conflict) = true)
      ∧ (((heardAgain .aligning 9 .near).part.recordOf? 7).any (fun r =>
          r.state == .aligning && r.heardWindow == some 9 && r.tree == .t1
            && (heardAgain .aligning 9 .near).part.record? r.tree r.handle == some r) = true
        ∧ ((heardAgain .aligning 9 .near).part.engine .t1).serving ≠ some 3
        ∧ ((heardAgain .aligning 9 .near).part.entry? 7).any (fun e => !e.conflict && inMask e.mask .t1) = true)
      ∧ ((heardAgain .refind 8 .far).part.recordOf? 7).any (fun r => r.state == .refind && r.heardWindow != some 9) = true
      ∧ ((heardAgain .inService 8 .near).part.tree .t1).enabled = true
      ∧ (((measured 13 .near).part.modEntry 13 fun e => { e with mask := 15 }).recordOf? 13).any (fun r =>
          r.tree == .t3 && r.state == .aligning) = true
      ∧ (((measured 13 .near).part.modRecord .t3 3 fun r => { r with state := .refind }).recordOf? 13).any
          (·.state == .refind) = true := by
  decide

/-- The 63 records of tree 1, and its last handle reserved by an orphan. -/
def handlesFull : State :=
  on1 { measured 20 .near with part := { (measured 20 .near).part with
      records := (List.range 63).map fun n => recordIn (n + 1) (BitVec.ofNat 64 (n + 1000)) .inService } } fun T =>
    { T with expectations := [⟨64, .upkeep, none, 1, 1, now, none, true⟩] }

theorem met_MeasuredHelloTaken_handles :
    handlesFull.part.records.length < 192
      ∧ (∀ h ∈ allHandles, (handlesFull.part.record? .t1 h).isSome = true ∨ handlesFull.part.reserved .t1 h = true)
      ∧ (handlesFull.part.tree .t1).turnedAway = false := by
  decide +kernel

/-! ### Witnesses: the bus and the link -/

/-- The read that the fetcher of a tree asks for. -/
def fetchOf (t : TreeId) (a : Nat) : Transfer := ⟨.fetcher t, .data, a, 64, false⟩

/-- The bus free after a requester, with the fetchers of the trees given waiting, and a save. -/
def busFree (ts : List TreeId) (save : Option Save) (last : Requester) : Part :=
  { ts.foldl (fun p t => p.modTree t fun T => { T with fetchWait := some (fetchOf t 0) }) base.part with
    save := save
    master := ⟨none, last⟩ }

/-- A transfer of the fetcher of tree 1 is under way, and its engine serves record 5. -/
def fetching (kind : TransferKind) (n : Nat) (discard : Bool) (x : EngineState) (src : Option Source) : State :=
  let s := serving base x src (List.replicate 57 1)
  { s with part := { s.part with master := ⟨some ⟨.fetcher .t1, kind, 16384, n, discard⟩, .saver⟩ } }

theorem met_BusRotation :
    ((busFree [.t1, .t3] (some ⟨3, [⟨0, [1, 2]⟩], false⟩) (.fetcher .t1)).straps.store = true
      ∧ (busFree [.t1, .t3] (some ⟨3, [⟨0, [1, 2]⟩], false⟩) (.fetcher .t1)).master.current = none)
      ∧ rotationAfter (busFree [.t1, .t3] (some ⟨3, [⟨0, [1, 2]⟩], false⟩) (.fetcher .t1)).master.last =
        [.fetcher .t2] ++ .fetcher .t3 :: [.saver, .fetcher .t0, .fetcher .t1]
      ∧ (busFree [.t1, .t3] (some ⟨3, [⟨0, [1, 2]⟩], false⟩) (.fetcher .t1)).waitingTransfer (.fetcher .t2) = none
      ∧ (busFree [.t1, .t3] (some ⟨3, [⟨0, [1, 2]⟩], false⟩) (.fetcher .t1)).waitingTransfer (.fetcher .t3) =
        some (fetchOf .t3 0)
      ∧ (fetchOf .t3 0).requester = .fetcher .t3
      ∧ (rotationAfter (busFree [.t1] (some ⟨3, [⟨0, [1, 2]⟩], false⟩) (.fetcher .t3)).master.last).head? = some .saver
      ∧ (busFree [.t1] (some ⟨3, [⟨0, [1, 2]⟩], false⟩) (.fetcher .t3)).waitingTransfer .saver =
        some ⟨.saver, .page [1, 2], 0, 2, false⟩
      ∧ (busFree [.t1] (some ⟨3, [], false⟩) .saver).waitingTransfer .saver = none
      ∧ (fetching .data 3 false .preparing (some .external)).part.master.current ≠ none := by
  decide

theorem met_TransfersEnd :
    ((fetching .directory 4 false .resolving none).Settled
      ∧ (fetching .directory 4 false .resolving none).part.master.current =
        some ⟨.fetcher .t1, .directory, 16384, 4, false⟩
      ∧ [0x5A#8, 0x10#8, 0x00#8, 0x00#8].length = 4 ∧ (0x10#8).toNat * 256 + (0x00#8).toNat ≤ 4096
      ∧ 1 ≤ (0x00#8).toNat * 256 + (0x01#8).toNat
      ∧ ((fetching .directory 4 false .resolving none).part.engine .t1).serving = some 5
      ∧ (fetching .directory 4 false .resolving none).part.record? .t1 5 =
        some { recordIn 5 9 .loading with load := some ⟨5, .settling, 1, none⟩ })
      ∧ ((fetching .data 3 false .preparing (some .external)).part.master.current =
          some ⟨.fetcher .t1, .data, 16384, 3, false⟩
        ∧ ((fetching .data 3 false .preparing (some .external)).part.engine .t1).source = some .external
        ∧ ((fetching .data 3 false .preparing (some .external)).part.engine .t1).state ≠ .streaming
        ∧ ((fetching .data 3 false .preparing (some .external)).part.engine .t1).ackPoint
            + ((fetching .data 3 false .preparing (some .external)).part.engine .t1).fifo.length + [7#8, 8#8, 9#8].length =
          ((fetching .data 3 false .preparing (some .external)).part.engine .t1).imageLength)
      ∧ (fetching .data 3 true .preparing (some .external)).part.master.current.any (·.discard) = true := by
  decide

/-- Directory entries that make no profile available, at the bounds of the length, with either fallback. -/
theorem met_TransfersEnd_unavailable :
    [0x5B#8, 0x00#8, 0x01#8, 0x00#8].length = 4 ∧ (0x5B#8 ≠ 0x5A#8) ∧ (0x00#8).toNat * 256 + (0x00#8).toNat = 0
      ∧ 4096 < (0x10#8).toNat * 256 + (0x01#8).toNat
      ∧ ((fetching .directory 4 false .resolving none).part.tree .t1).settings.fallback = .hold
      ∧ ((on1 (fetching .directory 4 false .resolving none) fun T =>
          { T with settings := { T.settings with fallback := .useDefault } }).part.tree .t1).settings.fallback =
        .useDefault := by
  decide

/-- A data read that is not the last of its image: of a paused STREAMING engine with its stall timer running, too. -/
theorem met_TransfersEnd_more :
    let s := eng1 (fetching .data 3 false .streaming (some .external)) fun e =>
      { e with
        imageLength := 1000
        stallTimer := some ⟨3, 4⟩ }
    s.Settled ∧ s.part.master.current = some ⟨.fetcher .t1, .data, 16384, 3, false⟩
      ∧ (s.part.engine .t1).source = some .external
      ∧ (s.part.engine .t1).ackPoint + (s.part.engine .t1).fifo.length + [7#8, 8#8, 9#8].length
        ≤ (s.part.engine .t1).imageLength
      ∧ (s.part.engine .t1).fifo.length + [7#8, 8#8, 9#8].length ≤ 2048 ∧ (s.part.engine .t1).stallTimer.isSome = true := by
  decide

/-- A save writes its page at 64, with the pages of `rest` after it. -/
def saving (rest : List Page) : State :=
  { base with part := { base.part with
      save := some ⟨3, ⟨64, [1]⟩ :: rest, true⟩
      master := ⟨some ⟨.saver, .page [1], 64, 1, false⟩, .saver⟩ } }

theorem met_TransfersEnd_save :
    ((saving [⟨128, [2]⟩]).Settled ∧ (saving [⟨128, [2]⟩]).part.straps.store = true
      ∧ (saving [⟨128, [2]⟩]).part.save = some ⟨3, ⟨64, [1]⟩ :: [⟨128, [2]⟩], true⟩
      ∧ (saving [⟨128, [2]⟩]).part.master.current = some ⟨.saver, .page [1], 64, 1, false⟩)
      ∧ (saving []).part.save = some ⟨3, ⟨64, [1]⟩ :: [], true⟩
      ∧ ∀ t, ((saving []).part.tree t).fetchWait = none :=
  ⟨by decide, by decide, forall_tree (by decide) (by decide) (by decide) (by decide)⟩

/-- A reply of the request in the slot, and a notice in the queue. -/
def aReply : LinkReply := ⟨0x81#8, .ok, [], true, false⟩

/-- A link that sends a frame of a source, with a notice queued. -/
def sending (x : TxSource) : State :=
  { base with link := { base.link with
      tx := some ⟨x, 0x81#8, []⟩
      notices := [⟨.storeDone 1 .ok 0, true⟩] } }

theorem met_LinkSends :
    (63 < 64 ∧ (List.replicate 63 (⟨.storeDone 1 .ok 0, true⟩ : QueuedNotice)).length < 64
      ∧ 64 ≤ (List.replicate 64 (⟨.storeDone 1 .ok 0, true⟩ : QueuedNotice)).length)
      ∧ ((sending .reply).link.tx ≠ none ∧ base.link.replies = [] ∧ base.link.notices = [] ∧ base.link.tx = none)
      ∧ (({ base.link with replies := [aReply] }).tx = none ∧ ({ base.link with replies := [aReply] }).replies = aReply :: [])
      ∧ ((sending .reply).Settled ∧ (sending .reply).link.tx = some ⟨.reply, 0x81#8, []⟩
        ∧ (sending .notice).link.tx = some ⟨.notice, 0x81#8, []⟩
        ∧ (sending .resetReply).link.tx = some ⟨.resetReply, 0x81#8, []⟩) := by
  decide

theorem met_ResetLeaves :
    (sending .resetReply).link.tx = some ⟨.resetReply, 0x81#8, []⟩ ∧ (sending .reply).clock.stage = .closed
      ∧ (sending .reply).link.tx = some ⟨.reply, 0x81#8, []⟩ ∧ TxSource.reply ≠ .resetReply := by
  decide

/-- A link with `n` replies waiting, the slot occupied or free, a RESET armed or not. -/
def waitingReplies (n : Nat) (slot armed : Bool) : State :=
  { base with link := { base.link with
      replies := List.replicate n { aReply with fromSlot := false }
      slotBusy := slot
      resetArmed := armed } }

theorem met_LinkRefusals :
    (base.Settled ∧ base.link.rx = [] ∧ Config.syncByte ∉ [1#8, 2#8, 3#8]
      ∧ (be 2 ([4#8] : List Byte).length.succ ++ 1#8 :: [4#8] ++ [9#8, 9#8]).length = 6
      ∧ [9#8, 9#8] ≠ be 2 (crc16 (be 2 2 ++ 1#8 :: [4#8])).toNat
      ∧ (0#8).toNat * 256 + (0#8).toNat = 0 ∧ 514 < (2#8).toNat * 256 + (3#8).toNat)
      ∧ (base.Taking ∧ (0x16#8) ∉ requestKinds)
      ∧ (requestOf (.identify [1#8]) = some (0x01#8, [1#8]) ∧ bodyLengthOk 0x01#8 1 = false)
      ∧ ((waitingReplies 6 true false).Settled ∧ (waitingReplies 6 true false).link.replies.length < 7
        ∧ (waitingReplies 7 false true).link.replies.length < 8 ∧ (waitingReplies 7 false true).link.resetArmed = true)
      ∧ (7 ≤ (waitingReplies 7 true false).link.replies.length ∧ (waitingReplies 7 true false).link.slotBusy = true
        ∧ 8 ≤ (waitingReplies 8 false false).link.replies.length) := by
  decide +kernel

/-! ### Witnesses: the requests, each taken in `base` or a state near it -/

theorem met_IdentifyResetSave :
    base.Taking ∧ ((0 : Byte) = 0 ∧ 3 < (4 : Byte).toNat) ∧ (1 ≤ (1 : Byte).toNat ∧ (3 : Byte).toNat ≤ 3)
      ∧ base.part.straps.store = true ∧ base.part.save = none ∧ base.part.master.current = none
      ∧ ((saving []).Taking ∧ (saving []).part.save ≠ none)
      ∧ (∀ t ∈ allTrees, (base.part.tree t).fetchWait = none)
      ∧ ({ base.part with straps := ⟨true, true, false⟩ } : Part).straps.store = false
      ∧ (base.part.admission ≠ [] ∧ ∀ e ∈ base.part.admission, e.label.length ≤ 16) := by
  decide

/-- 12.8 and 12.9: a settings block is 8 whole pages from 0, a list of 100 entries 43 from 1024. -/
theorem test_save_pages :
    (base.part.snapshot 1).map (fun g => (g.address, g.bytes.length)) =
        [(0, 64), (64, 64), (128, 64), (192, 64), (256, 64), (320, 64), (384, 64), (448, 64)]
      ∧ pageCount (5 + 27 * 100) = 43 ∧ 1024 + 64 * 42 = 3712 := by
  decide +kernel

theorem met_TreeEnableDisable :
    base.Taking ∧ (1 : TreeMask) ≠ 0 ∧ (15 : TreeMask) ≠ 0 ∧ ((0 : Byte) = 0 ∧ 15 < (16 : Byte).toNat) := by decide

theorem met_TreeSetGet :
    (base.Taking ∧ (2 : TreeMask) ≠ 0)
      ∧ (∀ q ∈ [((5 : Nat), (7 : Int))], q.1 < 256 ∧ -2147483648 ≤ q.2 ∧ q.2 < 2147483648) ∧ badPair 5 7 = true
      ∧ (badPair 3 4 = false ∧ inMask 2 .t1 = true ∧ (base.part.tree .t1).enabled = true
        ∧ changesLocked (base.part.tree .t1).settings (3, 4) = true)
      ∧ (changesLocked (base.part.tree .t1).settings (3, 2) = false ∧ badPair 23 7 = false
        ∧ (base.part.tree .t1).guard.present.stray = false ∧ (base.part.tree .t1).guard.present.dark = false)
      ∧ Settings.default.Ok :=
  ⟨by decide, by decide, by decide, by decide, by decide, by decide⟩

/-- STRAY and DARK present on tree 1 in HUSH, with a record to take or none; a guard_mask without DARK ends it. -/
def hushed (waiting : List Nat) : State :=
  on1 base fun T =>
    { T with
      guard := ⟨true, ⟨true, true, false⟩, ⟨true, true, false⟩, 3, none⟩
      pushQueue := waiting }

theorem met_TreeSetGet_guard :
    ((hushed []).Taking ∧ badPair 23 4 = false ∧ changesLocked ((hushed []).part.tree .t1).settings (23, 4) = false)
      ∧ ((storePairs ((hushed []).part.tree .t1).settings [(23, 4)]).guardMask = ⟨false, false, true⟩)
      ∧ ((hushed []).part.tree .t1).pushQueue = [] ∧ (((hushed [5]).part.engine .t1).state = .idle)
      ∧ (∀ u ∈ allTrees, inMask 2 u = true ↔ u = .t1) ∧ ((0 : Byte) = 0 ∧ 15 < (16 : Byte).toNat) := by
  decide

/-- The admission list is full. -/
def admissionFull : State :=
  { base with part := { base.part with
      admission := (List.range 256).map fun n => entryFor (BitVec.ofNat 64 (n + 500)) 1 } }

theorem met_AdmitStores :
    (base.Taking ∧ ({ entryFor 41 15 with profile := 64 }).profile ≤ 64 ∧ (entryFor 41 15).label.length ≤ 16
      ∧ (15#4 = if (entryFor 41 0).mask = 0 then 15#4 else (entryFor 41 0).mask)
      ∧ (2#4 = if (entryFor 41 2).mask = 0 then 15#4 else (entryFor 41 2).mask))
      ∧ (base.part.entry? (entryFor 7 2).tag).isSome = true
      ∧ (base.part.entry? (entryFor 41 15).tag = none ∧ base.part.admission.length < 256)
      ∧ (admissionFull.Taking ∧ admissionFull.part.entry? 41 = none ∧ 256 ≤ admissionFull.part.admission.length)
      ∧ (1 ≤ [entryFor 41 15].length ∧ (entryFor 41 15).bound = false ∧ (entryFor 41 15).sighting = none)
      ∧ ((List.replicate 27 (0xFF : Byte)).length = 27 ∧ 64 < (byteAt (List.replicate 27 (0xFF : Byte)) 8).toNat) := by
  decide +kernel

theorem met_ListRemovals :
    base.Taking ∧ base.part.entry? 99 = none ∧ base.part.entry? 7 = some { entryFor 7 2 with bound := true }
      ∧ base.part.entry? 20 = some (entryFor 20 2)
      ∧ ((unclaimedFull 99).Taking ∧ ∃ e ∈ (unclaimedFull 99).part.unclaimedTags, e.tag = 99)
      ∧ ∀ e ∈ base.part.unclaimedTags, e.tag ≠ 99 := by
  decide +kernel

theorem met_ListReads :
    base.Taking ∧ ((0 : Byte) = 0 ∧ 16 < (17 : Byte).toNat) ∧ (1 ≤ (1 : Byte).toNat ∧ (16 : Byte).toNat ≤ 16) := by decide

theorem met_TerminalFindReply :
    base.Taking ∧ (∃ r ∈ base.part.records, r.tag = 7 ∧ ∀ q ∈ base.part.records, q.tag = 7 → q = r)
      ∧ ∀ r ∈ base.part.records, r.tag ≠ 20 := by
  decide

theorem met_RecordReads :
    base.Taking ∧ base.part.record? .t1 3 = some (recordIn 3 7 .inService) ∧ base.part.record? .t1 64 = none
      ∧ (3 < (4 : Byte).toNat ∧ 64 < (65 : Byte).toNat ∧ 15 < (16 : Byte).toNat) ∧ (2 : TreeMask) ≠ 0
      ∧ ((1 : Byte).getLsbD 0 = true ∧ (0x80#8 &&& 0x7E#8) = 0)
      ∧ ((0x7E#8).getLsbD 0 = false ∧ (0x7E#8 &&& 0x7E#8) ≠ 0) := by
  decide

theorem met_RecordReads_bytes :
    (∀ x ∈ [ReportSlot.a, .b, .c], ((recordIn 3 7 .inService).reports.get x).body.length ≤ 24)
      ∧ (recordIn 3 7 .inService).bytes.length = 138 ∧ (recordIn 3 7 .inService).load = none
      ∧ ({ recordIn 5 9 .loading with load := some (waiting 5 0) } : Record).load.isSome := by
  decide +kernel

theorem met_RecordReads_keys : base.part.TableOk := base_meets_invariants.2.2.2

/-- The engine of tree 1 serves record 5 and nothing waits behind it. -/
def servingOne : State := serving base .preparing (some .internal) [1]

theorem met_RetireRelease :
    base.Taking ∧ (3 < (4 : Byte).toNat ∧ 64 < (65 : Byte).toNat ∧ (0 : Byte) = 0) ∧ base.part.record? .t1 4 = none
      ∧ (base.part.record? .t1 6).any (·.state == .held) = true ∧ (base.part.engine .t1).serving ≠ some 6
      ∧ (base.part.record? .t1 3).any (·.state == .inService) = true
      ∧ (servingOne.Taking ∧ (servingOne.part.record? .t1 5).any (·.state == .loading) = true
        ∧ (servingOne.part.engine .t1).serving = some 5 ∧ (servingOne.part.tree .t1).pushQueue = []) := by
  decide

theorem met_RealignReload :
    base.Taking ∧ (3 < (4 : Byte).toNat ∧ 64 < (65 : Byte).toNat ∧ (0 : Byte) = 0) ∧ base.part.record? .t1 4 = none
      ∧ (base.part.record? .t1 6).any (·.state == .held) = true
      ∧ (base.part.record? .t1 3 = some (recordIn 3 7 .inService) ∧ (base.part.engine .t1).serving ≠ some 3
        ∧ (base.part.tree .t1).enabled = true ∧ (base.part.tree .t1).accepts = true)
      ∧ (servingOne.Taking ∧ servingOne.part.entry? 7 = some { entryFor 7 2 with bound := true }
        ∧ ({ entryFor 7 2 with bound := true }).profile ≠ 0 ∧ (servingOne.part.engine .t1).state ≠ .idle)
      ∧ ((base.part.modEntry 7 fun e => { e with profile := 0 }).entry? 7).any (·.profile == 0) = true := by
  decide

/-- `base` with an order offered on tree 1 alone. -/
def offeredOn1 (o : Order) : Part := base.part.modTree .t1 fun T => { T with queue := T.queue ++ [o] }

theorem met_StanddownLift :
    (base.Taking ∧ ((0 : Byte) = 0 ∧ 15 < (16 : Byte).toNat) ∧ (2 : TreeMask) ≠ 0 ∧ base.part.recordOf? 20 = none)
      ∧ (∀ t, (base.part.tree t).accepts = true)
      ∧ (∀ o, offeredOn1 o = { base.part with trees := (offeredOn1 o).trees }
        ∧ ∀ t, (offeredOn1 o).tree t =
          if inMask 2 t = true ∧ (base.part.tree t).enabled = true then
            { base.part.tree t with queue := (base.part.tree t).queue ++ [o] }
          else base.part.tree t)
      ∧ (base.part.recordOf? 7 = some (recordIn 3 7 .inService) ∧ inMask 2 (recordIn 3 7 .inService).tree = true
        ∧ (base.part.engine .t1).serving ≠ some 3 ∧ base.part.record? .t1 3 = some (recordIn 3 7 .inService)) :=
  ⟨by decide, forall_tree (by decide) (by decide) (by decide) (by decide),
    fun _ => ⟨rfl, forall_tree rfl rfl rfl rfl⟩, by decide⟩

/-- Slot 16 is being written, and holds one byte. -/
def writing : State := { base with part := base.part.setSlot 16 ⟨.writing, [7]⟩ }

theorem met_ProfileOpenWriteErase :
    (base.Taking ∧ (base.part.engine .t1).state = .idle)
      ∧ ((servingOne.part.engine .t1).state ≠ .idle ∧ (servingOne.part.engine .t1).source = some .internal
        ∧ (servingOne.part.engine .t1).profile = 5)
      ∧ (writing.Taking ∧ (writing.part.slot 16).bytes.length < 4096 ∧ (writing.part.slot 16).state = .writing
        ∧ (writing.part.slot 16).bytes.length + [1#8].length ≤ 4096 ∧ (base.part.slot 1).state ≠ .writing
        ∧ 0 ≠ (writing.part.slot 16).bytes.length)
      ∧ ((0 : Byte) = 0 ∧ 16 < (17 : Byte).toNat) ∧ (1 ≤ [1#8].length ∧ [1#8].length ≤ 192) := by
  decide +kernel

theorem met_ProfileCloseInfo :
    writing.Taking ∧ ((writing.part.slot 16).state = .writing ∧ (writing.part.slot 16).bytes.length ≠ 0)
      ∧ ((base.part.setSlot 1 ⟨.writing, []⟩).slot 1).state = .writing
      ∧ ((base.part.setSlot 1 ⟨.writing, []⟩).slot 1).bytes.length = 0 ∧ (writing.part.slot 1).state ≠ .writing := by
  decide +kernel

/-- The engine of tree 1 waits for the image of record 5, or serves it as a streamed one. -/
def streaming (x : EngineState) (src : Option Source) (stall : Option Timer) : State :=
  eng1 (serving base x src [1]) fun e =>
    { e with
      profile := 64
      stallTimer := stall }

theorem met_PushBeginData :
    (base.Taking ∧ (3 < (4 : Byte).toNat ∧ 4096 < 4097 ∧ 4097 < 65536) ∧ (base.part.engine .t1).state ≠ .resolving)
      ∧ ((streaming .resolving none none).Taking ∧ ((streaming .resolving none none).part.engine .t1).state = .resolving
        ∧ ((streaming .resolving none none).part.engine .t1).profile = 64
        ∧ ((streaming .resolving none none).part.engine .t1).serving = some 5
        ∧ (streaming .resolving none none).part.record? .t1 5 =
          some { recordIn 5 9 .loading with load := some ⟨5, .settling, 1, none⟩ }
        ∧ ((streaming .resolving none none).part.tree .t1).accepts = true)
      ∧ (base.part.engine .t1).source ≠ some .streamed
      ∧ (((streaming .preparing (some .streamed) none).part.engine .t1).source = some .streamed
        ∧ ((streaming .preparing (some .streamed) none).part.engine .t1).state = .preparing)
      ∧ (((streaming .streaming (some .streamed) (some ⟨3, 4⟩)).part.engine .t1).state = .streaming
        ∧ ((streaming .streaming (some .streamed) (some ⟨3, 4⟩)).part.engine .t1).stallTimer.isSome = true) := by
  decide

theorem met_ReportTableSets :
    base.Taking ∧ ((0 : Byte) = 0 ∧ 3 < (4 : Byte).toNat) ∧ 1 < (2 : Byte).toNat ∧ (1 : Byte).toNat ≤ 1
      ∧ (base.part.reportTable.get .a).kind = 0
      ∧ (base.part.reportTable.get .a).kind ≠ 1 := by
  decide

/-- Record 3 with its attention mark set since cycle 2, and a record that is not IN_SERVICE. -/
theorem met_ReportTableSets_attention :
    ((base.part.modRecord .t1 5 fun r => { r with attentionMark := some 2 }).record? .t1 5).any (fun r =>
      r.state != .inService && r.attentionMark == some 2 && (r.polls.get .a).due == none) = true := by
  decide

theorem met_ReportTableGetReply : base.Taking := by decide

end Sys2Proof.Tests
end

section
/-!
PROOFS. What a request that is taken leaves: one rule for its outcome, and one for each shape of answer that raises no
notice (refused, carried out, a read).
-/

namespace Sys2Proof.Machine

/-- Between commands no notice of the part waits for the link, so to forget them changes nothing. -/
theorem Part.forget_raised {p : Part} (h : p.raised = []) : { p with raised := [] } = p := by
  cases p
  cases h
  rfl

theorem State.Taking.raised_eq {s : State} (h : s.Taking) : s.part.raised = [] := by
  obtain ⟨-, -, -, -, -, hraised⟩ := h
  exact hraised

section
variable {s : State} (h : s.Taking) {kind : Byte} {fits : Bool} (hfits : fits = true) {act : Clock → Part → Answer}
include h hfits

/-- The rule of a request that is taken and whose body has a length of its kind. -/
theorem State.request_of_answer {p : Part} {status : Status} {data : List Byte}
    (hact : act s.clock s.part = (p, status, data)) :
    s.request kind fits act = s.afterRequest { p with raised := [] } p.raised kind status data := by
  have hserve : act s.consumed.clock s.consumed.part = (p, status, data) := hact
  rw [State.request_of_taking h]
  simp only [State.serve, hfits, if_true, hserve]
  rfl

/-- A request carried out without a notice. -/
theorem State.request_okay {p : Part} {data : List Byte} (hact : act s.clock s.part = okay p data)
    (hp : p.raised = s.part.raised) : s.request kind fits act = s.afterRequest p [] kind .ok data := by
  have hquiet : p.raised = [] := hp.trans h.raised_eq
  rw [State.request_of_answer h hfits hact, Part.forget_raised hquiet, hquiet]

/-- A request that only reads. -/
theorem State.request_read {data : List Byte} (hact : act s.clock s.part = okay s.part data) :
    s.request kind fits act = s.answered kind .ok data :=
  State.request_okay h hfits hact rfl

/-- A refused request (R181). -/
theorem State.request_refuse {status : Status} (hact : act s.clock s.part = refuse s.part status) :
    s.request kind fits act = s.answered kind status [] := by
  rw [State.request_of_answer h hfits hact, Part.forget_raised h.raised_eq, h.raised_eq]
  rfl

end

end Sys2Proof.Machine
end

section
/-!
PROOFS. Numbers and tags in bytes: how many bytes they take, and that they are read back.
-/

namespace Sys2Proof.Machine

@[simp] theorem be_length (n v : Nat) : (be n v).length = n := by
  induction n with
  | zero => rfl
  | succ n ih => simp [be, ih]

@[simp] theorem tagBytes_length (g : Tag) : (tagBytes g).length = 8 := be_length 8 g.toNat

@[simp] theorem tagBytes_isEmpty (g : Tag) : (tagBytes g).isEmpty = false := rfl

/-- Reading the bytes of a number on from a number `acc` read before them (`fromBe` is this fold from 0). -/
theorem foldl_be (n v acc : Nat) :
    (be n v).foldl (fun x b => x * 256 + b.toNat) acc = acc * 256 ^ n + v % 256 ^ n := by
  induction n generalizing acc with
  | zero => rw [be, List.foldl_nil, Nat.pow_zero, Nat.mod_one, Nat.mul_one, Nat.add_zero]
  | succ n ih =>
    have hpow : 2 ^ (8 * n) = 256 ^ n := Nat.pow_mul 2 8 n
    have hbyte : (BitVec.ofNat 8 (v >>> (8 * n))).toNat = v / 256 ^ n % 256 := by
      rw [BitVec.toNat_ofNat, Nat.shiftRight_eq_div_pow, hpow]
    calc (be (n + 1) v).foldl (fun x b => x * 256 + b.toNat) acc
        = (acc * 256 + v / 256 ^ n % 256) * 256 ^ n + v % 256 ^ n := by rw [be, List.foldl_cons, ih, hbyte]
      _ = acc * 256 ^ (n + 1) + (v % 256 ^ n + 256 ^ n * (v / 256 ^ n % 256)) := by
        rw [Nat.add_mul, Nat.mul_assoc, Nat.pow_succ', Nat.mul_comm (v / 256 ^ n % 256), Nat.add_assoc,
          Nat.add_comm (256 ^ n * _)]
      _ = acc * 256 ^ (n + 1) + v % 256 ^ (n + 1) := by rw [← Nat.mod_pow_succ]

@[simp] theorem fromBe_be (n v : Nat) : fromBe (be n v) = v % 256 ^ n := by
  rw [fromBe, foldl_be, Nat.zero_mul, Nat.zero_add]

@[simp] theorem tagOf_tagBytes (g : Tag) : tagOf (tagBytes g) = g := by
  have hlt : g.toNat < 256 ^ 8 := g.isLt
  rw [tagOf, tagBytes, fromBe_be, Nat.mod_eq_of_lt hlt, BitVec.ofNat_toNat, BitVec.setWidth_eq]

/-- A field that is the whole body. -/
theorem fieldAt_zero_of_length {bs : List Byte} {n : Nat} (h : bs.length = n) : fieldAt bs 0 n = bs := by
  simp [fieldAt, ← h]

@[simp] theorem fieldAt_tagBytes (g : Tag) : fieldAt (tagBytes g) 0 8 = tagBytes g :=
  fieldAt_zero_of_length (tagBytes_length g)

end Sys2Proof.Machine
end

section
/-!
PROOFS. The requests on the admission list and the unclaimed list other than ADMIT (chapter 5): the effect of each case,
then the request as a command.
-/

namespace Sys2Proof.Machine

/-! ### UNADMIT (R70) -/

theorem exec_unadmit (body : List Byte) (s : State) :
    exec (.unadmit body) s = .next (s.request 0x11#8 (body.length == 8) (unadmitAnswer body)) := rfl

theorem unadmitAnswer_of_none {p : Part} {g : Tag} (k : Clock) (h : p.entry? g = none) :
    unadmitAnswer (tagBytes g) k p = refuse p .notFound := by
  simp [unadmitAnswer, h]

theorem unadmitAnswer_of_bound {p : Part} {g : Tag} {e : AdmitEntry} (k : Clock) (h : p.entry? g = some e)
    (hb : e.bound = true) : unadmitAnswer (tagBytes g) k p = refuse p .inUse := by
  simp [unadmitAnswer, h, hb]

theorem unadmitAnswer_of_not_bound {p : Part} {g : Tag} {e : AdmitEntry} (k : Clock) (h : p.entry? g = some e)
    (hb : e.bound = false) :
    unadmitAnswer (tagBytes g) k p = okay { p with admission := p.admission.filter fun x => x.tag != g } [] := by
  simp [unadmitAnswer, h, hb]

section
variable {s : State} (h : s.Taking)
include h

theorem exec_unadmit_of_none {g : Tag} (hg : s.part.entry? g = none) :
    exec (.unadmit (tagBytes g)) s = .next (s.answered 0x11#8 .notFound []) :=
  (exec_unadmit _ s).trans (congrArg _ (State.request_refuse h rfl (unadmitAnswer_of_none s.clock hg)))

theorem exec_unadmit_of_bound {g : Tag} {e : AdmitEntry} (hg : s.part.entry? g = some e) (hb : e.bound = true) :
    exec (.unadmit (tagBytes g)) s = .next (s.answered 0x11#8 .inUse []) :=
  (exec_unadmit _ s).trans (congrArg _ (State.request_refuse h rfl (unadmitAnswer_of_bound s.clock hg hb)))

theorem exec_unadmit_of_not_bound {g : Tag} {e : AdmitEntry} (hg : s.part.entry? g = some e) (hb : e.bound = false) :
    exec (.unadmit (tagBytes g)) s =
      .next (s.afterRequest { s.part with admission := s.part.admission.filter fun x => x.tag != g } []
        0x11#8 .ok []) :=
  (exec_unadmit _ s).trans (congrArg _ (State.request_okay h rfl (unadmitAnswer_of_not_bound s.clock hg hb) rfl))

end

/-! ### ADMIT-READ (R71) -/

theorem exec_admitRead (body : List Byte) (s : State) :
    exec (.admitRead body) s = .next (s.request 0x12#8 (body.length == 2) (admitReadAnswer body)) := rfl

theorem admitReadAnswer_of_badCount {start count : Byte} (k : Clock) (p : Part) (h : count = 0 ∨ 16 < count.toNat) :
    admitReadAnswer [start, count] k p = refuse p .badField := by
  have hcount : count.toNat = 0 ∨ 16 < count.toNat := h.imp_left fun h0 => by simp [h0]
  simp [admitReadAnswer, byteAt, hcount]

theorem admitReadAnswer_of_count {start count : Byte} (k : Clock) (p : Part) (h1 : 1 ≤ count.toNat)
    (h16 : count.toNat ≤ 16) :
    admitReadAnswer [start, count] k p =
      okay p (be 2 p.admission.length ++ listedFrom p.admission start.toNat count.toNat) := by
  have hcount : ¬(count.toNat = 0 ∨ 16 < count.toNat) := by omega
  simp [admitReadAnswer, byteAt, hcount]

/-- Numbering a segment of a list from where it begins, or taking that segment of the numbered list. -/
theorem zipIdx_take_drop {α : Type} (l : List α) (start count : Nat) :
    ((l.drop start).take count).zipIdx start = (l.zipIdx.drop start).take count := by
  apply List.ext_getElem?
  intro i
  by_cases hi : i < count
  · simp only [List.getElem?_zipIdx, List.getElem?_take_of_lt hi, List.getElem?_drop, Nat.zero_add]
  · simp only [List.getElem?_zipIdx, List.getElem?_take_eq_none (Nat.le_of_not_lt hi), Option.map_none]

theorem listedFrom_eq (list : List AdmitEntry) (start count : Nat) :
    listedFrom list start count = (((list.zipIdx.drop start).take count).map fun q => q.1.listed q.2).flatten := by
  rw [listedFrom, zipIdx_take_drop]

/-- The marks byte of an entry: bound, conflict, and whether a sighting is present (12.10). -/
theorem AdmitEntry.marks_eq (e : AdmitEntry) :
    e.marks = (if e.bound then 1#8 else 0) ||| (if e.conflict then 2#8 else 0)
      ||| (if e.sighting = none then 0 else 4#8) := by
  cases hs : e.sighting <;> simp [AdmitEntry.marks, markByte, hs]

/-- The bytes of a listed entry, in full. -/
theorem AdmitEntry.listed_eq (e : AdmitEntry) (index : Nat) :
    e.listed index =
      BitVec.ofNat 8 index :: tagBytes e.tag ++ [BitVec.ofNat 8 e.profile, e.mask.setWidth 8]
        ++ BitVec.ofNat 8 e.label.length :: e.label ++ List.replicate (16 - e.label.length) 0#8
        ++ [(if e.bound then 1#8 else 0) ||| (if e.conflict then 2#8 else 0) ||| (if e.sighting = none then 0 else 4#8)]
        ++ match e.sighting with
          | some (t, n) => BitVec.ofNat 8 (treeNo t) :: be 4 n.toNat
          | none => [0#8, 0#8, 0#8, 0#8, 0#8] := by
  rw [AdmitEntry.listed, AdmitEntry.marks_eq]
  rcases e.sighting with _ | ⟨t, n⟩ <;> simp [AdmitEntry.stored, labelBytes, padTo, byte, be]

section
variable {s : State} (h : s.Taking) {start count : Byte}
include h

theorem exec_admitRead_of_badCount (hbad : count = 0 ∨ 16 < count.toNat) :
    exec (.admitRead [start, count]) s = .next (s.answered 0x12#8 .badField []) :=
  (exec_admitRead _ s).trans (congrArg _ (State.request_refuse h rfl (admitReadAnswer_of_badCount s.clock s.part hbad)))

theorem exec_admitRead_of_count (h1 : 1 ≤ count.toNat) (h16 : count.toNat ≤ 16) :
    exec (.admitRead [start, count]) s =
      .next (s.answered 0x12#8 .ok
        (be 2 s.part.admission.length ++ listedFrom s.part.admission start.toNat count.toNat)) :=
  (exec_admitRead _ s).trans (congrArg _ (State.request_read h rfl (admitReadAnswer_of_count s.clock s.part h1 h16)))

end

/-! ### ADMIT-CLEAR (R72) -/

theorem exec_admitClear (body : List Byte) (s : State) :
    exec (.admitClear body) s = .next (s.request 0x13#8 (body.length == 0) admitClearAnswer) := rfl

/-- The elements that a filter drops are those that its negation keeps. -/
theorem length_sub_length_filter {α : Type} (f : α → Bool) (l : List α) :
    l.length - (l.filter f).length = (l.filter fun x => !f x).length := by
  have hsplit := List.length_eq_countP_add_countP f (l := l)
  simp only [List.countP_eq_length_filter, decide_not, Bool.decide_eq_true] at hsplit
  omega

theorem admitClearAnswer_eq (k : Clock) (p : Part) :
    admitClearAnswer k p =
      okay { p with admission := p.admission.filter fun x => x.bound }
        (be 2 (p.admission.filter fun x => !x.bound).length) := by
  rw [admitClearAnswer, length_sub_length_filter]

theorem exec_admitClear_nil {s : State} (h : s.Taking) :
    exec (.admitClear []) s =
      .next (s.afterRequest { s.part with admission := s.part.admission.filter fun x => x.bound } [] 0x13#8 .ok
        (be 2 (s.part.admission.filter fun x => !x.bound).length)) :=
  (exec_admitClear _ s).trans (congrArg _ (State.request_okay h rfl (admitClearAnswer_eq s.clock s.part) rfl))

/-! ### UNCLAIMED-READ (R75) -/

theorem exec_unclaimedRead (body : List Byte) (s : State) :
    exec (.unclaimedRead body) s = .next (s.request 0x14#8 (body.length == 0) unclaimedReadAnswer) := rfl

theorem exec_unclaimedRead_nil {s : State} (h : s.Taking) :
    exec (.unclaimedRead []) s =
      .next (s.answered 0x14#8 .ok
        (BitVec.ofNat 8 s.part.unclaimedTags.length :: (s.part.unclaimedTags.map UnclaimedEntry.bytes).flatten)) :=
  (exec_unclaimedRead _ s).trans (congrArg _ (State.request_read h rfl rfl))

/-! ### UNCLAIMED-CLEAR (R76) -/

theorem exec_unclaimedClear (body : List Byte) (s : State) :
    exec (.unclaimedClear body) s =
      .next (s.request 0x15#8 (body.length == 0 || body.length == 8) (unclaimedClearAnswer body)) := rfl

theorem unclaimedClearAnswer_nil (k : Clock) (p : Part) :
    unclaimedClearAnswer [] k p =
      okay { p with unclaimedTags := [] } [BitVec.ofNat 8 p.unclaimedTags.length] := rfl

theorem unclaimedClearAnswer_of_mem {p : Part} {g : Tag} (k : Clock) (h : ∃ e ∈ p.unclaimedTags, e.tag = g) :
    unclaimedClearAnswer (tagBytes g) k p =
      okay { p with unclaimedTags := p.unclaimedTags.filter fun e => e.tag != g } [1#8] := by
  have hany : p.unclaimedTags.any (·.tag == g) = true := by simpa using h
  simp [unclaimedClearAnswer, hany]

theorem unclaimedClearAnswer_of_not_mem {p : Part} {g : Tag} (k : Clock) (h : ∀ e ∈ p.unclaimedTags, e.tag ≠ g) :
    unclaimedClearAnswer (tagBytes g) k p = refuse p .notFound := by
  have hany : p.unclaimedTags.any (·.tag == g) = false := by simpa using h
  simp [unclaimedClearAnswer, hany]

section
variable {s : State} (h : s.Taking)
include h

theorem exec_unclaimedClear_nil :
    exec (.unclaimedClear []) s =
      .next (s.afterRequest { s.part with unclaimedTags := [] } [] 0x15#8 .ok
        [BitVec.ofNat 8 s.part.unclaimedTags.length]) :=
  (exec_unclaimedClear _ s).trans (congrArg _ (State.request_okay h rfl (unclaimedClearAnswer_nil s.clock s.part) rfl))

theorem exec_unclaimedClear_of_mem {g : Tag} (hg : ∃ e ∈ s.part.unclaimedTags, e.tag = g) :
    exec (.unclaimedClear (tagBytes g)) s =
      .next (s.afterRequest { s.part with unclaimedTags := s.part.unclaimedTags.filter fun e => e.tag != g } []
        0x15#8 .ok [1#8]) :=
  (exec_unclaimedClear _ s).trans (congrArg _ (State.request_okay h rfl (unclaimedClearAnswer_of_mem s.clock hg) rfl))

theorem exec_unclaimedClear_of_not_mem {g : Tag} (hg : ∀ e ∈ s.part.unclaimedTags, e.tag ≠ g) :
    exec (.unclaimedClear (tagBytes g)) s = .next (s.answered 0x15#8 .notFound []) :=
  (exec_unclaimedClear _ s).trans (congrArg _ (State.request_refuse h rfl (unclaimedClearAnswer_of_not_mem s.clock hg)))

end

/-! ### The statements -/

/-- Settles O49: one lemma for each case of the three requests. -/
theorem listRemovals : Obligations.ListRemovals := by
  unfold Obligations.ListRemovals
  refine ⟨fun s h => ⟨fun g => ⟨exec_unadmit_of_none h, fun e hg => ?_⟩, exec_admitClear_nil h⟩,
    fun s h => ⟨exec_unclaimedClear_nil h, fun g => ?_⟩⟩
  · exact ⟨exec_unadmit_of_bound h hg, exec_unadmit_of_not_bound h hg⟩
  · exact ⟨exec_unclaimedClear_of_mem h, exec_unclaimedClear_of_not_mem h⟩

/-- Settles O50: both requests answer a read, whose data are the bytes of the list's entries written out. -/
theorem listReads : Obligations.ListReads := by
  unfold Obligations.ListReads
  refine ⟨fun s start count h => ⟨exec_admitRead_of_badCount h, fun h1 h16 => ?_⟩,
    fun s h => exec_unclaimedRead_nil h⟩
  rw [exec_admitRead_of_count h h1 h16, listedFrom_eq]
  simp only [AdmitEntry.listed_eq] <;> rfl

end Sys2Proof.Machine
end

section
/-!
PROOFS. The request TERMINAL-FIND (chapter 6): which record the look-up of a tag finds, then the request as a command.
-/

namespace Sys2Proof.Machine

/-! ### The record of a tag -/

theorem Part.recordOf?_eq_none_iff {p : Part} {g : Tag} :
    p.recordOf? g = none ↔ ∀ r ∈ p.records, r.tag ≠ g := by
  simp [Part.recordOf?]

theorem Part.recordOf?_of_unique {p : Part} {g : Tag} {r : Record} (hr : r ∈ p.records) (hg : r.tag = g)
    (hunique : ∀ q ∈ p.records, q.tag = g → q = r) : p.recordOf? g = some r := by
  cases hfind : p.recordOf? g with
  | none => exact absurd hg (Part.recordOf?_eq_none_iff.mp hfind r hr)
  | some q =>
    have hq : q.tag = g := beq_iff_eq.mp (List.find?_some (p := fun x : Record => x.tag == g) hfind)
    rw [hunique q (List.mem_of_find?_eq_some hfind) hq]

/-! ### TERMINAL-FIND (R98) -/

theorem exec_terminalFind (body : List Byte) (s : State) :
    exec (.terminalFind body) s = .next (s.request 0x19#8 (body.length == 8) (terminalFindAnswer body)) := rfl

theorem terminalFindAnswer_of_none {p : Part} {g : Tag} (k : Clock) (h : p.recordOf? g = none) :
    terminalFindAnswer (tagBytes g) k p = refuse p .notFound := by
  simp [terminalFindAnswer, h]

theorem terminalFindAnswer_of_some {p : Part} {g : Tag} {r : Record} (k : Clock) (h : p.recordOf? g = some r) :
    terminalFindAnswer (tagBytes g) k p =
      okay p [BitVec.ofNat 8 (treeNo r.tree), BitVec.ofNat 8 r.handle, BitVec.ofNat 8 r.state.code,
        BitVec.ofNat 8 r.cause.code] := by
  simp [terminalFindAnswer, h, byte]

section
variable {s : State} (h : s.Taking) {g : Tag}
include h

theorem exec_terminalFind_of_none (hg : s.part.recordOf? g = none) :
    exec (.terminalFind (tagBytes g)) s = .next (s.answered 0x19#8 .notFound []) :=
  (exec_terminalFind _ s).trans (congrArg _ (State.request_refuse h rfl (terminalFindAnswer_of_none s.clock hg)))

theorem exec_terminalFind_of_some {r : Record} (hg : s.part.recordOf? g = some r) :
    exec (.terminalFind (tagBytes g)) s =
      .next (s.answered 0x19#8 .ok
        [BitVec.ofNat 8 (treeNo r.tree), BitVec.ofNat 8 r.handle, BitVec.ofNat 8 r.state.code,
          BitVec.ofNat 8 r.cause.code]) :=
  (exec_terminalFind _ s).trans (congrArg _ (State.request_read h rfl (terminalFindAnswer_of_some s.clock hg)))

end

/-! ### The statement -/

/-- Settles O51: the look-up finds the only record of the tag, or none, and the reply follows it. -/
theorem terminalFindReply : Obligations.TerminalFindReply := by
  unfold Obligations.TerminalFindReply
  intro s g h
  constructor
  · intro r hr hg hunique
    exact exec_terminalFind_of_some h (Part.recordOf?_of_unique hr hg hunique)
  · intro hnone
    exact exec_terminalFind_of_none h (Part.recordOf?_eq_none_iff.mpr hnone)

end Sys2Proof.Machine
end

section
/-!
PROOFS. The requests PROFILE-CLOSE and PROFILE-INFO (9.2): which slot a body names, the effect of each case, then the
request as a command.
-/

namespace Sys2Proof.Machine

/-! ### The slot that a body names (R138) -/

theorem profileSlotAt_of_le {n : Nat} (h1 : 1 ≤ n) (h16 : n ≤ 16) (rest : List Byte) :
    profileSlotAt (BitVec.ofNat 8 n :: rest) = some n := by
  have hbyte : (byteAt (BitVec.ofNat 8 n :: rest) 0).toNat = n := Nat.mod_eq_of_lt (by omega)
  simp [profileSlotAt, hbyte, h1, h16]

theorem profileSlotAt_of_bad {b : Byte} (h : b = 0 ∨ 16 < b.toNat) (rest : List Byte) :
    profileSlotAt (b :: rest) = none := by
  have hbyte : (byteAt (b :: rest) 0).toNat = b.toNat := rfl
  have hout : ¬(1 ≤ b.toNat ∧ b.toNat ≤ 16) := by
    rcases h with rfl | h
    · decide
    · omega
  simp [profileSlotAt, hbyte, hout]

theorem withSlot_of_le {n : Nat} (h1 : 1 ≤ n) (h16 : n ≤ 16) (p : Part) (rest : List Byte) (f : Nat → Answer) :
    withSlot p (BitVec.ofNat 8 n :: rest) f = f n := by
  rw [withSlot, profileSlotAt_of_le h1 h16]

theorem withSlot_of_bad {b : Byte} (h : b = 0 ∨ 16 < b.toNat) (p : Part) (rest : List Byte) (f : Nat → Answer) :
    withSlot p (b :: rest) f = refuse p .badField := by
  rw [withSlot, profileSlotAt_of_bad h]

/-! ### PROFILE-CLOSE (R141) -/

theorem exec_profileClose (body : List Byte) (s : State) :
    exec (.profileClose body) s = .next (s.request 0x2A#8 (body.length == 1) (profileCloseAnswer body)) := rfl

theorem profileCloseAnswer_of_bad {b : Byte} (k : Clock) (p : Part) (h : b = 0 ∨ 16 < b.toNat) :
    profileCloseAnswer [b] k p = refuse p .badField :=
  withSlot_of_bad h p [] _

section
variable {n : Nat} (h1 : 1 ≤ n) (h16 : n ≤ 16) (k : Clock) {p : Part}
include h1 h16

theorem profileCloseAnswer_of_not_writing (hw : (p.slot n).state ≠ .writing) :
    profileCloseAnswer [BitVec.ofNat 8 n] k p = refuse p .wrongState := by
  rw [profileCloseAnswer, withSlot_of_le h1 h16]
  simp [hw]

theorem profileCloseAnswer_ready (hw : (p.slot n).state = .writing) (hlen : (p.slot n).bytes.length ≠ 0) :
    profileCloseAnswer [BitVec.ofNat 8 n] k p =
      okay (p.setSlot n ⟨.ready, (p.slot n).bytes⟩) (2#8 :: be 2 (p.slot n).bytes.length) := by
  have hbytes : (p.slot n).bytes ≠ [] := mt List.length_eq_zero_iff.mpr hlen
  rw [profileCloseAnswer, withSlot_of_le h1 h16]
  simp [hw, hbytes, SlotState.code, byte]

theorem profileCloseAnswer_empty (hw : (p.slot n).state = .writing) (hlen : (p.slot n).bytes.length = 0) :
    profileCloseAnswer [BitVec.ofNat 8 n] k p = okay (p.setSlot n ⟨.empty, []⟩) (0#8 :: be 2 0) := by
  have hbytes : (p.slot n).bytes = [] := List.length_eq_zero_iff.mp hlen
  rw [profileCloseAnswer, withSlot_of_le h1 h16]
  simp [hw, hbytes, SlotState.code, byte]

end

/-! ### PROFILE-INFO (R143) -/

theorem exec_profileInfo (body : List Byte) (s : State) :
    exec (.profileInfo body) s = .next (s.request 0x2C#8 (body.length == 1) (profileInfoAnswer body)) := rfl

theorem profileInfoAnswer_of_bad {b : Byte} (k : Clock) (p : Part) (h : b = 0 ∨ 16 < b.toNat) :
    profileInfoAnswer [b] k p = refuse p .badField :=
  withSlot_of_bad h p [] _

theorem profileInfoAnswer_of_le {n : Nat} (h1 : 1 ≤ n) (h16 : n ≤ 16) (k : Clock) (p : Part) :
    profileInfoAnswer [BitVec.ofNat 8 n] k p =
      okay p (BitVec.ofNat 8 (p.slot n).state.code :: be 2 (p.slot n).bytes.length
        ++ [(p.slotUsers n).setWidth 8]) :=
  withSlot_of_le h1 h16 p [] _

/-! ### The two requests as commands -/

section
variable {s : State} (h : s.Taking)
include h

theorem exec_profileClose_of_bad {b : Byte} (hb : b = 0 ∨ 16 < b.toNat) :
    exec (.profileClose [b]) s = .next (s.answered 0x2A#8 .badField []) :=
  (exec_profileClose _ s).trans (congrArg _ (State.request_refuse h rfl (profileCloseAnswer_of_bad s.clock s.part hb)))

theorem exec_profileInfo_of_bad {b : Byte} (hb : b = 0 ∨ 16 < b.toNat) :
    exec (.profileInfo [b]) s = .next (s.answered 0x2C#8 .badField []) :=
  (exec_profileInfo _ s).trans (congrArg _ (State.request_refuse h rfl (profileInfoAnswer_of_bad s.clock s.part hb)))

variable {n : Nat} (h1 : 1 ≤ n) (h16 : n ≤ 16)
include h1 h16

theorem exec_profileClose_of_not_writing (hw : (s.part.slot n).state ≠ .writing) :
    exec (.profileClose [BitVec.ofNat 8 n]) s = .next (s.answered 0x2A#8 .wrongState []) :=
  (exec_profileClose _ s).trans
    (congrArg _ (State.request_refuse h rfl (profileCloseAnswer_of_not_writing h1 h16 s.clock hw)))

theorem exec_profileClose_ready (hw : (s.part.slot n).state = .writing) (hlen : (s.part.slot n).bytes.length ≠ 0) :
    exec (.profileClose [BitVec.ofNat 8 n]) s =
      .next (s.afterRequest (s.part.setSlot n ⟨.ready, (s.part.slot n).bytes⟩) [] 0x2A#8 .ok
        (2#8 :: be 2 (s.part.slot n).bytes.length)) :=
  (exec_profileClose _ s).trans
    (congrArg _ (State.request_okay h rfl (profileCloseAnswer_ready h1 h16 s.clock hw hlen) rfl))

theorem exec_profileClose_empty (hw : (s.part.slot n).state = .writing) (hlen : (s.part.slot n).bytes.length = 0) :
    exec (.profileClose [BitVec.ofNat 8 n]) s =
      .next (s.afterRequest (s.part.setSlot n ⟨.empty, []⟩) [] 0x2A#8 .ok (0#8 :: be 2 0)) :=
  (exec_profileClose _ s).trans
    (congrArg _ (State.request_okay h rfl (profileCloseAnswer_empty h1 h16 s.clock hw hlen) rfl))

theorem exec_profileInfo_of_le :
    exec (.profileInfo [BitVec.ofNat 8 n]) s =
      .next (s.answered 0x2C#8 .ok
        (BitVec.ofNat 8 (s.part.slot n).state.code :: be 2 (s.part.slot n).bytes.length
          ++ [(s.part.slotUsers n).setWidth 8])) :=
  (exec_profileInfo _ s).trans (congrArg _ (State.request_read h rfl (profileInfoAnswer_of_le h1 h16 s.clock s.part)))

end

/-! ### The statement -/

/-- Settles O57: one lemma for each case of the two requests; the users told are those of `Part.slotUsers`. -/
theorem profileCloseInfo : Obligations.ProfileCloseInfo := by
  unfold Obligations.ProfileCloseInfo
  intro s h
  constructor
  · intro n h1 h16
    exact ⟨exec_profileClose_ready h h1 h16, exec_profileClose_empty h h1 h16,
      exec_profileClose_of_not_writing h h1 h16, exec_profileInfo_of_le h h1 h16⟩
  · intro b hb
    exact ⟨exec_profileClose_of_bad h hb, exec_profileInfo_of_bad h hb⟩

end Sys2Proof.Machine
end

section
/-!
PROOFS. The request REPORT-TABLE-GET (R166): the bytes of the report table slot by slot, then the request as a command.
-/

namespace Sys2Proof.Machine

/-- The four bytes of a slot of the report table, in full (12.10). -/
theorem TableSlot.bytes_eq (t : TableSlot) :
    t.bytes = [t.kind, BitVec.ofNat 8 t.interval, BitVec.ofNat 8 t.multiple, if t.clearOnStale then 1#8 else 0] := rfl

/-- The reply's data: the slots' bytes, for A, B and C in that order. -/
theorem reportTableGetAnswer_eq (k : Clock) (p : Part) :
    reportTableGetAnswer k p =
      okay p ([ReportSlot.a, .b, .c].map fun x => (p.reportTable.get x).bytes).flatten := by
  simp [reportTableGetAnswer, PerSlot.get]

theorem exec_reportTableGet (body : List Byte) (s : State) :
    exec (.reportTableGet body) s = .next (s.request 0x31#8 (body.length == 0) reportTableGetAnswer) := rfl

theorem exec_reportTableGet_nil {s : State} (h : s.Taking) :
    exec (.reportTableGet []) s =
      .next (s.answered 0x31#8 .ok
        ([ReportSlot.a, .b, .c].map fun x => (s.part.reportTable.get x).bytes).flatten) :=
  (exec_reportTableGet _ s).trans (congrArg _ (State.request_read h rfl (reportTableGetAnswer_eq s.clock s.part)))

/-- Settles O60: the request answers a read, whose data are the bytes of the three slots written out. -/
theorem reportTableGetReply : Obligations.ReportTableGetReply := by
  unfold Obligations.ReportTableGetReply
  intro s h
  simpa only [TableSlot.bytes_eq] using exec_reportTableGet_nil h

end Sys2Proof.Machine
end

section
/-!
PROOFS. Two facts about choices that core Lean does not name.
-/

namespace Sys2Proof.Machine

theorem ite_of_iff {P Q : Prop} [Decidable P] [Decidable Q] {α : Sort _} {a b : α} (h : P ↔ Q) :
    (if P then a else b) = if Q then a else b := ite_congr (propext h) (fun _ => rfl) fun _ => rfl

theorem ite_and_eq {P Q : Prop} [Decidable P] [Decidable Q] {α : Sort _} (a b : α) :
    (if P ∧ Q then a else b) = if P then (if Q then a else b) else b := by
  by_cases hP : P
  · rw [if_pos hP, ite_of_iff (and_iff_right hP)]
  · rw [if_neg hP, if_neg fun h => hP h.1]

end Sys2Proof.Machine
end

section
/-!
PROOFS. The law of the table and the admission list (R64, R66, R77, R99): it reads names only, and the operations that
make or free a record, or that change the admission list, keep it.
-/

namespace Sys2Proof.Machine

/-! ### The law reads names only -/

/-- Two parts with the same names have the same list of anything read off the records' names. -/
theorem Part.map_records_of_names {p q : Part} (h : q.names = p.names) {α : Type} (f : TreeId × Nat × Tag → α) :
    q.records.map (fun r => f (r.tree, r.handle, r.tag)) = p.records.map fun r => f (r.tree, r.handle, r.tag) := by
  have hnames : q.records.map (fun r => (r.tree, r.handle, r.tag)) = p.records.map fun r => (r.tree, r.handle, r.tag) :=
    congrArg Prod.fst h
  simpa [Function.comp_def] using congrArg (List.map f) hnames

/-- The same of the admission list, tag and bound mark. -/
theorem Part.map_admission_of_names {p q : Part} (h : q.names = p.names) {α : Type} (f : Tag × Bool → α) :
    q.admission.map (fun e => f (e.tag, e.bound)) = p.admission.map fun e => f (e.tag, e.bound) := by
  have hnames : q.admission.map (fun e => (e.tag, e.bound)) = p.admission.map fun e => (e.tag, e.bound) :=
    congrArg Prod.snd h
  simpa [Function.comp_def] using congrArg (List.map f) hnames

theorem exists_mem_iff_mem_map {α β : Type} (l : List α) (f : α → β) (b : β) :
    (∃ a ∈ l, f a = b) ↔ b ∈ l.map f := by
  simp [List.mem_map]

theorem Part.TableOk.of_names {p q : Part} (h : q.names = p.names) (hp : p.TableOk) : q.TableOk := by
  obtain ⟨htags, hrtags, hnamed, hlen, halen, hhandles, hkeys, hbound⟩ := hp
  have etags := Part.map_admission_of_names h fun x => x.1
  have ertags := Part.map_records_of_names h fun x => x.2.2
  have enamed := Part.map_records_of_names h fun x => (x.1, x.2.1)
  have ekeys := Part.map_records_of_names h fun x => treeNo x.1 * 64 + x.2.1 - 1
  have ehandles := Part.map_records_of_names h fun x => x.2.1
  have ebound := Part.map_admission_of_names h fun x => x
  have elen := congrArg List.length ertags
  have ealen := congrArg List.length etags
  simp only [List.length_map] at elen ealen
  refine ⟨etags ▸ htags, ertags ▸ hrtags, enamed ▸ hnamed, elen ▸ hlen, ealen ▸ halen, ?_, ekeys ▸ hkeys, ?_⟩
  · intro r hr
    have hmem : r.handle ∈ p.records.map fun x => x.handle := ehandles ▸ List.mem_map_of_mem hr
    obtain ⟨r', hr', he⟩ := List.mem_map.mp hmem
    exact he ▸ hhandles r' hr'
  · intro g
    have hentries : ∀ l : List AdmitEntry,
        (∃ e ∈ l, e.tag = g ∧ e.bound = true) ↔ (g, true) ∈ l.map fun e => (e.tag, e.bound) := by
      intro l
      simp [List.mem_map, Prod.ext_iff]
    have hq := hbound g
    rw [hentries, exists_mem_iff_mem_map] at hq ⊢
    rwa [ebound, ertags]

/-- A part with no record and an empty admission list meets the law. -/
theorem Part.tableOk_of_empty {p : Part} (hr : p.records = []) (ha : p.admission = []) : p.TableOk := by
  simp [Part.TableOk, hr, ha]

/-! ### Records and names -/

theorem Record.named_iff {r : Record} {t : TreeId} {h : Nat} : r.named t h = true ↔ r.tree = t ∧ r.handle = h := by
  simp [Record.named]

theorem Part.record?_mem {p : Part} {t : TreeId} {h : Nat} {r : Record} (hr : p.record? t h = some r) : r ∈ p.records :=
  List.mem_of_find?_eq_some hr

theorem Part.record?_named {p : Part} {t : TreeId} {h : Nat} {r : Record} (hr : p.record? t h = some r) :
    r.tree = t ∧ r.handle = h :=
  Record.named_iff.mp (List.find?_some (p := fun x : Record => x.named t h) hr)

theorem Part.record?_eq_none_iff {p : Part} {t : TreeId} {h : Nat} :
    p.record? t h = none ↔ ∀ r ∈ p.records, ¬(r.tree = t ∧ r.handle = h) := by
  simp [Part.record?, Record.named]

theorem Part.recordOf?_mem {p : Part} {g : Tag} {r : Record} (hr : p.recordOf? g = some r) :
    r ∈ p.records ∧ r.tag = g :=
  ⟨List.mem_of_find?_eq_some hr, beq_iff_eq.mp (List.find?_some (p := fun x : Record => x.tag == g) hr)⟩

theorem Part.entry?_mem {p : Part} {g : Tag} {e : AdmitEntry} (he : p.entry? g = some e) :
    e ∈ p.admission ∧ e.tag = g :=
  ⟨List.mem_of_find?_eq_some he, beq_iff_eq.mp (List.find?_some (p := fun x : AdmitEntry => x.tag == g) he)⟩

theorem Part.entry?_eq_none_iff {p : Part} {g : Tag} : p.entry? g = none ↔ ∀ e ∈ p.admission, e.tag ≠ g := by
  simp [Part.entry?]

/-- Of a list without duplicates under `f`, an element is known by its value under `f`. -/
theorem eq_of_nodup_map {α β : Type} {f : α → β} {l : List α} (h : (l.map f).Nodup) {a b : α} (ha : a ∈ l) (hb : b ∈ l)
    (hab : f a = f b) : a = b := by
  induction l with
  | nil => cases ha
  | cons x xs ih =>
    obtain ⟨hx, hxs⟩ := List.nodup_cons.mp h
    rcases List.mem_cons.mp ha with rfl | htail
    · rcases List.mem_cons.mp hb with rfl | hb
      · rfl
      · exact absurd (by rw [hab]; exact List.mem_map_of_mem hb) hx
    · rcases List.mem_cons.mp hb with rfl | hb
      · exact absurd (by rw [← hab]; exact List.mem_map_of_mem htail) hx
      · exact ih hxs htail hb

theorem Part.modEntry_tags (p : Part) (g : Tag) {f : AdmitEntry → AdmitEntry} (hf : ∀ e, (f e).tag = e.tag) :
    (p.modEntry g f).admission.map (·.tag) = p.admission.map (·.tag) := by
  simp only [Part.modEntry, List.map_map]
  refine List.map_congr_left fun e _ => ?_
  simp only [Function.comp]
  split <;> simp [hf]

/-! ### A record is freed -/

theorem nodup_map_filter {α β : Type} {f : α → β} {l : List α} (h : (l.map f).Nodup) (c : α → Bool) :
    ((l.filter c).map f).Nodup :=
  h.sublist (List.filter_sublist.map f)

/-- Records leave the table, and the entries of their tags lose the bound mark. -/
theorem Part.TableOk.drop {p q : Part} (hp : p.TableOk) (keep : Record → Bool)
    (hrecords : q.records = p.records.filter keep) (gone : Tag → Bool)
    (hgone : ∀ r ∈ p.records, gone r.tag = !keep r)
    (hadmission : q.admission = p.admission.map fun e => if gone e.tag then { e with bound := false } else e) :
    q.TableOk := by
  obtain ⟨htags, hrtags, hnamed, hlen, halen, hhandles, hkeys, hbound⟩ := hp
  have etags : q.admission.map (·.tag) = p.admission.map (·.tag) := by
    rw [hadmission, List.map_map]
    refine List.map_congr_left fun e _ => ?_
    simp only [Function.comp]
    split <;> rfl
  refine ⟨etags ▸ htags, ?_, ?_, ?_, ?_, ?_, ?_, ?_⟩
  · rw [hrecords]; exact nodup_map_filter hrtags keep
  · rw [hrecords]; exact nodup_map_filter hnamed keep
  · rw [hrecords]; exact Nat.le_trans (List.length_filter_le _ _) hlen
  · simpa [hadmission] using halen
  · intro r hr
    rw [hrecords] at hr
    exact hhandles r (List.mem_filter.mp hr).1
  · rw [hrecords]; exact hkeys.sublist (List.filter_sublist.map _)
  · intro g
    constructor
    · rintro ⟨e, he, rfl, hb⟩
      rw [hadmission] at he
      obtain ⟨e', he', rfl⟩ := List.mem_map.mp he
      by_cases hg : gone e'.tag = true
      · simp [hg] at hb
      · simp only [hg] at hb ⊢
        obtain ⟨r, hr, htag⟩ := (hbound e'.tag).mp ⟨e', he', rfl, hb⟩
        refine ⟨r, ?_, htag⟩
        rw [hrecords]
        refine List.mem_filter.mpr ⟨hr, ?_⟩
        have hkeep := hgone r hr
        rw [htag] at hkeep
        simpa [hg] using hkeep
    · rintro ⟨r, hr, rfl⟩
      rw [hrecords] at hr
      obtain ⟨hr, hkeep⟩ := List.mem_filter.mp hr
      obtain ⟨e, he, htag, hb⟩ := (hbound r.tag).mpr ⟨r, hr, rfl⟩
      have hstay : gone e.tag = false := by rw [htag, hgone r hr, hkeep]; rfl
      refine ⟨e, ?_, htag, hb⟩
      rw [hadmission]
      exact List.mem_map.mpr ⟨e, he, by simp [hstay]⟩

/-- What is freed is dropped from a part with the names of `p`, its entry unbound. -/
theorem Part.freeRecord_names {p : Part} {t : TreeId} {h : Nat} {r : Record} (hr : p.record? t h = some r) (k : Clock)
    (cause : Cause) :
    (p.freeRecord k t h cause).names =
      ((p.modEntry r.tag fun e => { e with bound := false }).dropRecord t h).names := by
  have hnames : ((((p.modEntry r.tag fun e => { e with bound := false }).withdraw t (Order.isOfFreed h)).orphan t
      h).leavePush k t h).names = (p.modEntry r.tag fun e => { e with bound := false }).names := by simp
  have hfilter : ∀ l : List Record,
      (l.filter fun q => !q.named t h).map (fun q => (q.tree, q.handle, q.tag)) =
        (l.map fun q => (q.tree, q.handle, q.tag)).filter fun x => !(x.1 == t && x.2.1 == h) := by
    intro l
    rw [List.filter_map]
    rfl
  simp only [Part.freeRecord, hr]
  exact Prod.ext ((hfilter _).trans ((congrArg (List.filter _) (congrArg Prod.fst hnames)).trans (hfilter _).symm))
    (congrArg Prod.snd hnames :)

theorem Part.freeRecord_of_none {p : Part} {t : TreeId} {h : Nat} (hr : p.record? t h = none) (k : Clock)
    (cause : Cause) : p.freeRecord k t h cause = p := by
  simp only [Part.freeRecord, hr]

/-- R96: the freeing of a record keeps the law. -/
theorem Part.freeRecord_tableOk {p : Part} (k : Clock) (t : TreeId) (h : Nat) (cause : Cause) (hp : p.TableOk) :
    (p.freeRecord k t h cause).TableOk := by
  cases hr : p.record? t h with
  | none => rwa [Part.freeRecord_of_none hr]
  | some r =>
    obtain ⟨htags, hrtags, hnamed, -⟩ := id hp
    have hmem := Part.record?_mem hr
    have hname := Part.record?_named hr
    refine Part.TableOk.of_names (Part.freeRecord_names hr k cause) ?_
    refine hp.drop (fun q => !q.named t h) rfl (fun g => g == r.tag) (fun q hq => ?_) rfl
    rw [Bool.not_not, Bool.eq_iff_iff, beq_iff_eq, Record.named_iff]
    constructor
    · intro htag
      rw [eq_of_nodup_map hrtags hq hmem htag]
      exact hname
    · rintro ⟨htree, hhandle⟩
      rw [eq_of_nodup_map hnamed hq hmem (by simp [htree, hhandle, hname])]

/-- R5: the freeing of a tree's records keeps the law. -/
theorem Part.freeTree_tableOk {p : Part} (t : TreeId) (hp : p.TableOk) : (p.freeTree t).TableOk := by
  obtain ⟨htags, hrtags, -⟩ := id hp
  refine hp.drop (fun q => !(q.tree == t)) rfl (fun g => ((p.recordsOf t).map (·.tag)).contains g) (fun q hq => ?_) rfl
  rw [Bool.not_not, Bool.eq_iff_iff, beq_iff_eq, List.contains_iff_mem, List.mem_map]
  constructor
  · rintro ⟨r, hr, htag⟩
    obtain ⟨hr, htree⟩ := List.mem_filter.mp hr
    rw [← eq_of_nodup_map hrtags hr hq htag]
    simpa using htree
  · intro htree
    exact ⟨q, List.mem_filter.mpr ⟨hq, by simpa using htree⟩, rfl⟩

/-! ### A record is made -/

theorem insertRecord_perm (r : Record) (l : List Record) : (insertRecord r l).Perm (r :: l) := by
  induction l with
  | nil => exact List.Perm.refl _
  | cons q rest ih =>
    simp only [insertRecord]
    split
    · exact List.Perm.refl _
    · exact (ih.cons q).trans (List.Perm.swap r q rest)

theorem mem_insertRecord {r q : Record} {l : List Record} : q ∈ insertRecord r l ↔ q = r ∨ q ∈ l := by
  rw [(insertRecord_perm r l).mem_iff, List.mem_cons]

/-- A record of a new key takes its place in ascending order. -/
theorem insertRecord_sorted {r : Record} {l : List Record} (hl : (l.map Record.key).Pairwise (· < ·))
    (hr : ∀ q ∈ l, q.key ≠ r.key) : ((insertRecord r l).map Record.key).Pairwise (· < ·) := by
  induction l with
  | nil => simp [insertRecord]
  | cons q rest ih =>
    simp only [List.map_cons, List.pairwise_cons] at hl
    obtain ⟨hq, hrest⟩ := hl
    simp only [insertRecord]
    split
    case isTrue hlt =>
      simp only [List.map_cons, List.pairwise_cons, List.mem_cons]
      refine ⟨?_, hq, hrest⟩
      rintro a (rfl | ha)
      · exact hlt
      · exact Nat.lt_trans hlt (hq a ha)
    case isFalse hge =>
      simp only [List.map_cons, List.pairwise_cons]
      refine ⟨?_, ih hrest fun x hx => hr x (List.mem_cons_of_mem _ hx)⟩
      intro a ha
      obtain ⟨x, hx, rfl⟩ := List.mem_map.mp ha
      rcases mem_insertRecord.mp hx with rfl | hx
      · have := hr q List.mem_cons_self
        omega
      · exact hq _ (List.mem_map_of_mem hx)

/-- A key names one tree and one handle. -/
theorem Record.key_inj {q r : Record} (hq : 1 ≤ q.handle ∧ q.handle ≤ Config.maxHandles)
    (hr : 1 ≤ r.handle ∧ r.handle ≤ Config.maxHandles) (h : q.key = r.key) : q.tree = r.tree ∧ q.handle = r.handle := by
  simp only [Config.maxHandles, Record.key] at *
  have htree : treeNo q.tree = treeNo r.tree := by omega
  refine ⟨?_, by omega⟩
  revert htree
  cases q.tree <;> cases r.tree <;> simp [treeNo]

/-- A record with a tag, a tree and a handle of its own joins the table, and its entry becomes bound. -/
theorem Part.TableOk.insert {p : Part} (hp : p.TableOk) {r : Record} (htag : ∀ q ∈ p.records, q.tag ≠ r.tag)
    (hname : ∀ q ∈ p.records, ¬(q.tree = r.tree ∧ q.handle = r.handle))
    (hhandle : 1 ≤ r.handle ∧ r.handle ≤ Config.maxHandles) (hroom : p.records.length < Config.maxRecords)
    (hentry : ∃ e ∈ p.admission, e.tag = r.tag) :
    ({ p.modEntry r.tag fun e => { e with bound := true, sighting := none } with
        records := insertRecord r p.records } : Part).TableOk := by
  obtain ⟨htags, hrtags, hnamed, hlen, halen, hhandles, hkeys, hbound⟩ := hp
  have hperm := insertRecord_perm r p.records
  refine ⟨?_, ?_, ?_, ?_, ?_, ?_, ?_, ?_⟩
  · rw [Part.modEntry_tags]
    · exact htags
    · exact fun _ => rfl
  · refine (hperm.map _).nodup_iff.mpr (List.nodup_cons.mpr ⟨?_, hrtags⟩)
    simpa using htag
  · refine (hperm.map _).nodup_iff.mpr (List.nodup_cons.mpr ⟨?_, hnamed⟩)
    simpa using hname
  · rw [hperm.length_eq]
    exact hroom
  · simpa [Part.modEntry] using halen
  · intro q hq
    rcases mem_insertRecord.mp hq with rfl | hq
    · exact hhandle
    · exact hhandles q hq
  · exact insertRecord_sorted hkeys fun q hq hkey => hname q hq (Record.key_inj (hhandles q hq) hhandle hkey)
  · intro g
    simp only [Part.modEntry, List.mem_map, mem_insertRecord]
    constructor
    · rintro ⟨_, ⟨e, he, rfl⟩, rfl, hb⟩
      by_cases hg : e.tag = r.tag
      · exact ⟨r, .inl rfl, by simp [hg]⟩
      · simp only [beq_iff_eq, hg, if_false] at hb ⊢
        obtain ⟨q, hq, heq⟩ := (hbound e.tag).mp ⟨e, he, rfl, hb⟩
        exact ⟨q, .inr hq, heq⟩
    · rintro ⟨q, rfl | hq, rfl⟩
      · obtain ⟨e, he, hetag⟩ := hentry
        exact ⟨_, ⟨e, he, rfl⟩, by simp [hetag], by simp [hetag]⟩
      · obtain ⟨e, he, hetag, hb⟩ := (hbound q.tag).mpr ⟨q, hq, rfl⟩
        have hne : ¬e.tag = r.tag := by rw [hetag]; exact htag q hq
        exact ⟨_, ⟨e, he, rfl⟩, by simp [hne, ← hetag], by simp [hne, hb]⟩

/-- The lowest free handle is one of 1..64 and carried by no record of the tree (R81). -/
theorem Part.freeHandle_spec {p : Part} {t : TreeId} {h : Nat} (hh : p.freeHandle t = some h) :
    (1 ≤ h ∧ h ≤ Config.maxHandles) ∧ p.record? t h = none := by
  have hmem := List.mem_of_find?_eq_some hh
  have hfree := List.find?_some hh
  constructor
  · obtain ⟨i, hi, rfl⟩ := List.mem_map.mp hmem
    have := List.mem_range.mp hi
    omega
  · simp only [Bool.and_eq_true, Option.isNone_iff_eq_none] at hfree
    exact hfree.1

/-- R88: a record is made for an admitted tag that no record carries. -/
theorem Part.hearNew_tableOk {p : Part} (t : TreeId) (m : Measured) (hp : p.TableOk)
    (htag : ∀ q ∈ p.records, q.tag ≠ m.tag) (hentry : ∃ e ∈ p.admission, e.tag = m.tag) :
    (p.hearNew t m).TableOk := by
  simp only [Part.hearNew]
  split
  · exact hp.of_names (Part.turnAway_names p t m)
  rename_i hroom
  split
  · exact hp.of_names (Part.turnAway_names p t m)
  rename_i h hh
  obtain ⟨hhandle, hnone⟩ := Part.freeHandle_spec hh
  have hname := Part.record?_eq_none_iff.mp hnone
  simp only [Part.makeRecord]
  split
  · exact (hp.insert (r := newRecord t h { m with lag := 0 } .held .outOfReach) htag hname hhandle (by omega)
      hentry).of_names rfl
  · refine (hp.insert (r := newRecord t h m .heard .new) htag hname hhandle (by omega) hentry).of_names ?_
    rw [Part.raiseTerminal_names, Part.offer_names]
    rfl

/-! ### A hello -/

theorem Part.record?_of_mem {p : Part} {r : Record} (hp : p.TableOk) (hr : r ∈ p.records) :
    p.record? r.tree r.handle = some r := by
  obtain ⟨-, -, hnamed, -⟩ := hp
  cases hfind : p.record? r.tree r.handle with
  | none => exact absurd ⟨rfl, rfl⟩ (Part.record?_eq_none_iff.mp hfind r hr)
  | some x =>
    have hx := Part.record?_named hfind
    rw [eq_of_nodup_map hnamed (Part.record?_mem hfind) hr (by simp [hx])]

/-- After its record is freed no record carries a tag. -/
theorem Part.freeRecord_no_tag {p : Part} {r : Record} (k : Clock) (cause : Cause) (hp : p.TableOk) (hr : r ∈ p.records) :
    ∀ q ∈ (p.freeRecord k r.tree r.handle cause).records, q.tag ≠ r.tag := by
  intro q hq htag
  have htags := Part.map_records_of_names (Part.freeRecord_names (Part.record?_of_mem hp hr) k cause) fun x => x.2.2
  have hmem : q.tag ∈ ((p.modEntry r.tag fun e => { e with bound := false }).dropRecord r.tree r.handle).records.map
      fun x => x.tag := htags ▸ List.mem_map_of_mem hq
  obtain ⟨x, hx, hxtag⟩ := List.mem_map.mp hmem
  obtain ⟨hx, hnot⟩ := List.mem_filter.mp hx
  obtain ⟨-, hrtags, -⟩ := hp
  have hxr : x = r := eq_of_nodup_map hrtags hx hr (hxtag.trans htag)
  simp [hxr, Record.named] at hnot

/-- The freeing of a record leaves the tags on the admission list. -/
theorem Part.freeRecord_admission_tags (p : Part) (k : Clock) (t : TreeId) (h : Nat) (cause : Cause) :
    (p.freeRecord k t h cause).admission.map (·.tag) = p.admission.map (·.tag) := by
  cases hr : p.record? t h with
  | none => rw [Part.freeRecord_of_none hr]
  | some r =>
    rw [Part.map_admission_of_names (Part.freeRecord_names hr k cause) fun x => x.1]
    exact Part.modEntry_tags p r.tag fun _ => rfl

/-- R83: whatever case fits a measured hello, the law stands. -/
theorem Part.takeHello_tableOk {p : Part} (k : Clock) (t : TreeId) (m : Measured) (hp : p.TableOk) :
    (p.takeHello k t m).TableOk := by
  simp only [Part.takeHello]
  split
  case h_1 => exact hp.of_names (Part.hearUnclaimed_names p k t m)
  rename_i e he
  have hentry : ∃ e ∈ p.admission, e.tag = m.tag := ⟨e, Part.entry?_mem he⟩
  split
  case isTrue => exact hp.of_names (Part.hearIgnored_names p m.tag)
  split
  case isTrue => exact hp.of_names (Part.hearWrongTree_names p k t m e)
  split
  case h_2 hnone => exact Part.hearNew_tableOk t m hp (by simpa [Part.recordOf?] using hnone) hentry
  rename_i r hr
  obtain ⟨hmem, htag⟩ := Part.recordOf?_mem hr
  split
  case isTrue => exact hp.of_names (Part.hearDuplicate_names p k t r)
  split
  case isFalse => exact hp.of_names (Part.hearBound_names p k t m r)
  simp only [Part.hearOtherTree]
  split
  case isFalse => exact hp.of_names (by simp)
  refine Part.hearNew_tableOk t m (Part.freeRecord_tableOk k _ _ _ hp) (htag ▸ Part.freeRecord_no_tag k .moved hp hmem) ?_
  rw [exists_mem_iff_mem_map, Part.freeRecord_admission_tags, ← exists_mem_iff_mem_map]
  exact hentry

/-! ### The admission list -/

/-- Entries without a record leave the list. -/
theorem Part.TableOk.filterEntries {p : Part} (hp : p.TableOk) (keep : AdmitEntry → Bool)
    (hkeep : ∀ e ∈ p.admission, keep e = false → e.bound = false) :
    ({ p with admission := p.admission.filter keep } : Part).TableOk := by
  obtain ⟨htags, hrtags, hnamed, hlen, halen, hhandles, hkeys, hbound⟩ := hp
  refine ⟨nodup_map_filter htags keep, hrtags, hnamed, hlen, Nat.le_trans (List.length_filter_le _ _) halen, hhandles, hkeys,
    fun g => (Iff.trans ?_ (hbound g))⟩
  constructor
  · rintro ⟨e, he, hg, hb⟩
    exact ⟨e, (List.mem_filter.mp he).1, hg, hb⟩
  · rintro ⟨e, he, hg, hb⟩
    refine ⟨e, List.mem_filter.mpr ⟨he, ?_⟩, hg, hb⟩
    cases hkept : keep e with
    | true => rfl
    | false =>
      rw [hkeep e he hkept] at hb
      cases hb

theorem entryOf_bound {bs : List Byte} {e : AdmitEntry} (h : entryOf bs = some e) : e.bound = false := by
  simp only [entryOf] at h
  split at h
  · cases h
  · cases h; rfl

/-- R69: one entry of an ADMIT replaces an entry's fields or joins the tail, unbound. -/
theorem Part.applyEntry_tableOk {p q : Part} {e : AdmitEntry} (he : e.bound = false) (hp : p.TableOk)
    (hq : p.applyEntry e = some q) : q.TableOk := by
  simp only [Part.applyEntry] at hq
  split at hq
  case isTrue =>
    cases hq
    exact hp.of_names (Part.modEntry_names _ _ _ (fun _ => rfl) (fun _ => rfl))
  case isFalse hnew =>
    split at hq
    case isFalse => cases hq
    case isTrue hroom =>
      cases hq
      obtain ⟨htags, hrtags, hnamed, hlen, halen, hhandles, hkeys, hbound⟩ := hp
      have hnone : ∀ x ∈ p.admission, x.tag ≠ e.tag := by
        simpa [← Part.entry?_eq_none_iff] using hnew
      refine ⟨?_, hrtags, hnamed, hlen, by rw [List.length_append]; exact hroom, hhandles, hkeys, fun g => Iff.trans ?_ (hbound g)⟩
      · rw [List.map_append, List.map_singleton, List.nodup_append]
        exact ⟨htags, List.nodup_cons.mpr ⟨List.not_mem_nil, List.nodup_nil⟩, by simpa using hnone⟩
      · simp [or_and_right, exists_or, he]

theorem Part.applyEntries_tableOk {p : Part} (es : List AdmitEntry) (n : Nat) (hes : ∀ e ∈ es, e.bound = false)
    (hp : p.TableOk) : (p.applyEntries es n).1.TableOk := by
  induction es generalizing p n with
  | nil => exact hp
  | cons e rest ih =>
    simp only [Part.applyEntries]
    split
    case h_1 q hq =>
      exact ih (n + 1) (fun x hx => hes x (List.mem_cons_of_mem _ hx))
        (Part.applyEntry_tableOk (hes e List.mem_cons_self) hp hq)
    case h_2 => exact hp

end Sys2Proof.Machine
end

section
/-!
PROOFS. The bounds of the link (R183 to R185): what each operation of the link keeps, and the transmitter that starts when
it can.
-/

namespace Sys2Proof.Machine

/-- The bounds of the link but for the transmitter's promptness, which `kick` brings (R183 to R185). -/
def Link.Fits (l : Link) : Prop :=
  l.notices.length ≤ Config.maxNotices ∧ l.replies.length ≤ Config.maxReplies
    ∧ (l.replies.filter (·.fromSlot)).length = (if l.slotBusy then 1 else 0)
    ∧ (l.tx.any Tx.isNotice = true → l.notices ≠ [])

theorem Link.Ok.fits {l : Link} (h : l.Ok) : l.Fits := by
  obtain ⟨hn, hr, hs, -, ht⟩ := h
  exact ⟨hn, hr, hs, ht⟩

theorem Link.Fits.notify {l : Link} (h : l.Fits) (n : Notice) : (l.notify n).Fits := by
  obtain ⟨hn, hr, hs, ht⟩ := h
  simp only [Link.notify]
  split
  case isTrue hroom => exact ⟨by rw [List.length_append]; exact hroom, hr, hs, fun _ => by simp⟩
  case isFalse => exact ⟨hn, hr, hs, ht⟩

theorem Link.Fits.notifyAll {l : Link} (h : l.Fits) (ns : List Notice) : (l.notifyAll ns).Fits := by
  induction ns generalizing l with
  | nil => exact h
  | cons n ns ih => exact ih (h.notify n)

/-- Notices touch neither the transmitter, the replies nor the slot. -/
theorem Link.notifyAll_frame (l : Link) (ns : List Notice) :
    (l.notifyAll ns).tx = l.tx ∧ (l.notifyAll ns).replies = l.replies ∧ (l.notifyAll ns).slotBusy = l.slotBusy
      ∧ (l.notifyAll ns).resetArmed = l.resetArmed ∧ (l.notifyAll ns).rx = l.rx := by
  induction ns generalizing l with
  | nil => exact ⟨rfl, rfl, rfl, rfl, rfl⟩
  | cons n ns ih =>
    obtain ⟨h1, h2, h3, h4, h5⟩ := ih (l.notify n)
    have hone : (l.notify n).tx = l.tx ∧ (l.notify n).replies = l.replies ∧ (l.notify n).slotBusy = l.slotBusy
        ∧ (l.notify n).resetArmed = l.resetArmed ∧ (l.notify n).rx = l.rx := by
      simp only [Link.notify]
      split <;> exact ⟨rfl, rfl, rfl, rfl, rfl⟩
    obtain ⟨g1, g2, g3, g4, g5⟩ := hone
    exact ⟨h1.trans g1, h2.trans g2, h3.trans g3, h4.trans g4, h5.trans g5⟩

/-- The transmitter that starts when it can is busy while anything waits (R184). -/
theorem Link.Fits.kick {l : Link} (h : l.Fits) : l.kick.Ok := by
  obtain ⟨hn, hr, hs, ht⟩ := h
  simp only [Link.kick]
  split
  case isTrue hbusy => exact ⟨hn, hr, hs, fun hnone => by simp [hnone] at hbusy, ht⟩
  case isFalse =>
    split
    case h_1 r rest hreplies =>
      rw [hreplies] at hr hs
      refine ⟨hn, by simpa [Link.startReply] using Nat.le_of_succ_le hr, ?_, by simp [Link.startReply], ?_⟩
      · simp only [Link.startReply]
        by_cases hslot : r.fromSlot = true
        · by_cases hbusy : l.slotBusy = true
          · simpa [hslot, hbusy] using hs
          · simp [hslot, hbusy] at hs
        · simpa [hslot] using hs
      · cases hreset : r.resets <;> simp [Link.startReply, hreset, Tx.isNotice]
    case h_2 q _ hreplies hnotices =>
      exact ⟨hn, hr, hs, by simp [Link.startNotice], fun _ => by simp [Link.startNotice, hnotices]⟩
    case h_3 hreplies hnotices => exact ⟨hn, hr, hs, fun _ => ⟨hreplies, hnotices⟩, ht⟩

theorem Link.Ok.afterEvent {l : Link} (h : l.Ok) (ns : List Notice) : (l.afterEvent ns).Ok := (h.fits.notifyAll ns).kick

/-- The end of a frame leaves the bounds, and the next frame starts (R184, R185). -/
theorem Link.Ok.endFrame {l : Link} (h : l.Ok) (x : Tx) : (l.endFrame x).kick.Ok := by
  obtain ⟨hn, hr, hs, -, -⟩ := h
  refine Link.Fits.kick ⟨?_, hr, hs, by simp [Link.endFrame]⟩
  simp only [Link.endFrame]
  split
  · exact Nat.le_trans (List.drop_sublist 1 _).length_le hn
  · exact hn

/-- A request that is taken finds room for its reply and the slot free (R183). -/
theorem Link.verdict_take {l : Link} {starting : Bool} (h : l.verdict starting = .take) :
    l.replies.length < Config.maxReplies ∧ l.slotBusy = false := by
  simp only [Link.verdict] at h
  split at h
  · cases h
  split at h
  · cases h
  rename_i hroom hfree
  simp only [Bool.or_eq_true, not_or, decide_eq_true_eq, Bool.not_eq_true] at hroom hfree
  exact ⟨by omega, hfree.1.1⟩

/-- A request answered BUSY finds room for that reply (R183). -/
theorem Link.verdict_busy {l : Link} {starting : Bool} (h : l.verdict starting = .busy) :
    l.replies.length < Config.maxReplies := by
  simp only [Link.verdict] at h
  split at h
  · cases h
  rename_i hroom
  simp only [Bool.or_eq_true, not_or, decide_eq_true_eq] at hroom
  omega

theorem Link.Fits.answerBusy {l : Link} (h : l.Fits) (hroom : l.replies.length < Config.maxReplies) (kind : Byte) :
    (l.answerBusy kind).Fits := by
  obtain ⟨hn, hr, hs, ht⟩ := h
  have hsame : (l.answerBusy kind).replies.filter (·.fromSlot) = l.replies.filter (·.fromSlot) := by
    simp [Link.answerBusy]
  exact ⟨hn, by simpa [Link.answerBusy, Nat.add_one_le_iff] using hroom, (congrArg List.length hsame).trans hs, ht⟩

theorem Link.Fits.answer {l : Link} (h : l.Fits) (hroom : l.replies.length < Config.maxReplies)
    (hfree : l.slotBusy = false) (kind : Byte) (status : Status) (data : List Byte) :
    (l.answer kind status data).Fits := by
  obtain ⟨hn, hr, hs, ht⟩ := h
  exact ⟨hn, by simpa [Link.answer, Nat.add_one_le_iff] using hroom, by simpa [Link.answer, hfree] using hs, ht⟩

theorem Link.Fits.answerReset {l : Link} (h : l.Fits) (hroom : l.replies.length < Config.maxReplies)
    (hfree : l.slotBusy = false) : l.answerReset.Fits := by
  obtain ⟨hn, hr, hs, ht⟩ := h
  exact ⟨hn, by simpa [Link.answerReset, Nat.add_one_le_iff] using hroom, by simpa [Link.answerReset, hfree] using hs, ht⟩

/-- The bytes under hunt are none of the link's bounds. -/
theorem Link.Ok.withRx {l : Link} (h : l.Ok) (bs : List Byte) : ({ l with rx := bs } : Link).Ok := h

theorem Link.afterReset_ok (rateCode : Nat) : (Link.afterReset rateCode).Ok := by
  refine ⟨Nat.zero_le _, Nat.zero_le _, rfl, fun _ => ⟨rfl, rfl⟩, ?_⟩
  simp [Link.afterReset]

end Sys2Proof.Machine
end

section
/-!
PROOFS. What the host stores (1.8, R138, R164): the settings that TREE-SET and start-up may store, the internal slots and
the slots of the report table that a command may write, all in their ranges.
-/

namespace Sys2Proof.Machine

/-- R17: a pair that is not refused is stored in range. -/
theorem Settings.Ok.storeField {s : Settings} (h : s.Ok) {id : Nat} {v : Int} (hv : badEnum id v = false) :
    (storeField s id v).Ok := by
  simp only [Machine.storeField, putField]
  split
  all_goals
    simp only [Settings.Ok, clampField, clampInt, downTo4, badEnum, Bool.not_eq_false', Bool.or_eq_true, beq_iff_eq] at *
  all_goals omega

theorem Settings.default_ok : Settings.default.Ok := by
  simp [Settings.Ok, Settings.default]

theorem Settings.Ok.storePairs {s : Settings} (h : s.Ok) {pairs : List (Nat × Int)}
    (hpairs : ∀ q ∈ pairs, badEnum q.1 q.2 = false) : (storePairs s pairs).Ok := by
  induction pairs generalizing s with
  | nil => exact h
  | cons q rest ih =>
    exact ih (h.storeField (hpairs q List.mem_cons_self)) fun x hx => hpairs x (List.mem_cons_of_mem _ hx)

/-- R189: start-up applies a stored field, or leaves the field where the value is a bad enumerated one. -/
theorem Settings.Ok.applyField {s : Settings} (h : s.Ok) (id : Nat) (v : Int) : (applyField s id v).Ok := by
  simp only [Machine.applyField]
  split
  case isTrue => exact h
  case isFalse hv => exact h.storeField (by simpa using hv)

theorem Settings.Ok.applyValues {s : Settings} (h : s.Ok) (vs : List Int) : (applyValues s vs).Ok := by
  simp only [Machine.applyValues]
  generalize (List.range 28).zip vs = pairs
  induction pairs generalizing s with
  | nil => exact h
  | cons q rest ih => exact ih (h.applyField (q.1 + 1) q.2)

theorem TableSlot.default_ok : TableSlot.default.Ok := by
  simp [TableSlot.Ok, TableSlot.default]

/-- R165: interval and stale multiple of a slot of the report table, clamped. -/
theorem TableSlot.clamped_ok (kind b c : Byte) (flag : Bool) :
    (⟨kind, max 1 b.toNat, (clampInt 1 15 c.toNat).toNat, flag⟩ : TableSlot).Ok := by
  have := b.isLt
  simp only [TableSlot.Ok, clampInt]
  omega

theorem ProfileSlot.empty_ok : ProfileSlot.empty.Ok := by
  simp [ProfileSlot.Ok, ProfileSlot.empty]

/-- What the host stores lies in its ranges: the part's share of `State.StoredOk`. -/
def Part.StoredOk (p : Part) : Prop :=
  (∀ t, (p.tree t).settings.Ok) ∧ (∀ n, 1 ≤ n → n ≤ 16 → (p.slot n).Ok) ∧ ∀ x, (p.reportTable.get x).Ok

theorem Part.slot_setSlot (p : Part) {n m : Nat} (hn : 1 ≤ n ∧ n ≤ 16) (hm : 1 ≤ m ∧ m ≤ 16) (v : ProfileSlot) :
    (p.setSlot n v).slot m = if m = n then v else p.slot m := by
  simp only [Part.slot, Part.setSlot, Vector.getElem?_setIfInBounds]
  by_cases h : m = n
  · subst h
    simp [show m - 1 < 16 by omega]
  · simp [h, show ¬n - 1 = m - 1 by omega]

theorem Part.StoredOk.setSlot {p : Part} (h : p.StoredOk) {n : Nat} (hn : 1 ≤ n ∧ n ≤ 16) {v : ProfileSlot} (hv : v.Ok) :
    (p.setSlot n v).StoredOk := by
  obtain ⟨hsettings, hslots, htable⟩ := h
  refine ⟨hsettings, fun m h1 h16 => ?_, htable⟩
  rw [Part.slot_setSlot p hn ⟨h1, h16⟩]
  split
  · exact hv
  · exact hslots m h1 h16

/-- Slots that a reset leaves: those of a vector whose every slot is in its ranges. -/
theorem Part.afterReset_storedOk {slots : Vector ProfileSlot 16} (h : ∀ v ∈ slots, v.Ok) (straps : Straps) (n : Nat) :
    ({ Part.afterReset straps slots with savesBegun := n } : Part).StoredOk := by
  refine ⟨fun t => ?_, fun m h1 h16 => ?_, fun x => ?_⟩
  · cases t <;> exact Settings.default_ok
  · simp only [Part.slot, Part.afterReset]
    cases hv : slots[m - 1]? with
    | none => exact ProfileSlot.empty_ok
    | some v => exact h v (Vector.mem_of_getElem? hv)
  · cases x <;> exact TableSlot.default_ok

theorem emptySlots_ok : ∀ v ∈ emptySlots, v.Ok := by
  intro v hv
  rw [(Vector.mem_replicate.mp hv).2]
  exact ProfileSlot.empty_ok

/-- R138, R188: of the slots a soft reset keeps the READY ones. -/
theorem keptSlots_ok {p : Part} (h : p.StoredOk) : ∀ v ∈ p.slots.map ProfileSlot.kept, v.Ok := by
  intro v hv
  obtain ⟨w, hw, rfl⟩ := Vector.mem_map.mp hv
  obtain ⟨i, hi, rfl⟩ := Vector.mem_iff_getElem.mp hw
  simp only [ProfileSlot.kept]
  split
  · obtain ⟨-, hslots, -⟩ := h
    simpa [Part.slot, hi] using hslots (i + 1) (by omega) (by omega)
  · exact ProfileSlot.empty_ok

end Sys2Proof.Machine
end

section
/-!
PROOFS. What a command may do to the part, said once (`Part.Lawful`): the stored data that only the commands named write,
their ranges, and the law of the table. A rule for each kind of change, and what each request makes of the part.
-/

namespace Sys2Proof.Machine

/-- What every command `c` leaves right in the part: what only the commands named write (R5, R17, R138, R164) it leaves
alone unless it is one of them, and the ranges of what is stored and the law of the table it keeps. -/
structure Part.Lawful (c : Instr) (p q : Part) : Prop where
  settings : mayWriteSettings c = false → ∀ u, (q.tree u).settings = (p.tree u).settings
  enabled : mayWriteEnabled c = false → ∀ u, (q.tree u).enabled = (p.tree u).enabled
  slots : mayWriteSlots c = false → q.slots = p.slots
  reportTable : mayWriteReportTable c = false → q.reportTable = p.reportTable
  stored : p.StoredOk → q.StoredOk
  table : p.TableOk → q.TableOk

theorem Part.StoredOk.of_same {p q : Part} (hsettings : ∀ u, (q.tree u).settings = (p.tree u).settings)
    (hslots : q.slots = p.slots) (htable : q.reportTable = p.reportTable) (h : p.StoredOk) : q.StoredOk := by
  obtain ⟨h1, h2, h3⟩ := h
  refine ⟨fun t => hsettings t ▸ h1 t, fun n hn hn' => ?_, fun x => htable ▸ h3 x⟩
  have hslot : q.slot n = p.slot n := by simp only [Part.slot, hslots]
  exact hslot ▸ h2 n hn hn'

/-- A part that cannot be told from `p` by what is stored, and meets the law of the table where `p` does. -/
theorem Part.StoredOk.iff_of_trees {p q : Part} (ht : q.trees = p.trees) (hs : q.slots = p.slots)
    (hr : q.reportTable = p.reportTable) (h : p.StoredOk) : q.StoredOk :=
  h.of_same (fun u => by simp only [Part.tree, ht]) hs hr

namespace Part.Lawful

variable {c : Instr} {p q r : Part}

theorem refl (c : Instr) (p : Part) : Part.Lawful c p p :=
  ⟨fun _ _ => rfl, fun _ _ => rfl, fun _ => rfl, fun _ => rfl, id, id⟩

theorem trans (h : Part.Lawful c p q) (h' : Part.Lawful c q r) : Part.Lawful c p r where
  settings hc u := (h'.settings hc u).trans (h.settings hc u)
  enabled hc u := (h'.enabled hc u).trans (h.enabled hc u)
  slots hc := (h'.slots hc).trans (h.slots hc)
  reportTable hc := (h'.reportTable hc).trans (h.reportTable hc)
  stored hp := h'.stored (h.stored hp)
  table hp := h'.table (h.table hp)

theorem foldl {α : Type} {f : Part → α → Part} {l : List α} (hf : ∀ p, ∀ a ∈ l, Part.Lawful c p (f p a)) (p : Part) :
    Part.Lawful c p (l.foldl f p) := by
  induction l generalizing p with
  | nil => exact refl c p
  | cons a l ih =>
    exact (hf p a List.mem_cons_self).trans (ih (fun p x hx => hf p x (List.mem_cons_of_mem _ hx)) (f p a))

/-- A block operation (`kept`), with its share of the law of the table. -/
theorem of_kept (hk : q.kept = p.kept) (ht : p.TableOk → q.TableOk) : Part.Lawful c p q where
  settings _ u := (Part.kept_trees hk u).2
  enabled _ u := (Part.kept_trees hk u).1
  slots _ := Part.kept_slots hk
  reportTable _ := Part.kept_reportTable hk
  stored := Part.StoredOk.of_same (fun u => (Part.kept_trees hk u).2) (Part.kept_slots hk) (Part.kept_reportTable hk)
  table := ht

/-- A block operation that neither makes nor frees a record (`names`). -/
theorem of_keeps (hk : q.kept = p.kept) (hn : q.names = p.names) : Part.Lawful c p q := of_kept hk (Part.TableOk.of_names hn)

/-- A change of neither the trees, the internal slots nor the report table. -/
theorem of_trees (htrees : q.trees = p.trees) (hslots : q.slots = p.slots) (hreport : q.reportTable = p.reportTable)
    (ht : p.TableOk → q.TableOk) : Part.Lawful c p q where
  settings _ u := by simp only [Part.tree, htrees]
  enabled _ u := by simp only [Part.tree, htrees]
  slots _ := hslots
  reportTable _ := hreport
  stored := Part.StoredOk.iff_of_trees htrees hslots hreport
  table := ht

/-- A change of one tree that leaves its settings and its lifecycle state. -/
theorem modTree (c : Instr) (p : Part) (t : TreeId) (f : Tree → Tree) (he : ∀ T, (f T).enabled = T.enabled)
    (hs : ∀ T, (f T).settings = T.settings) : Part.Lawful c p (p.modTree t f) :=
  of_keeps (Part.modTree_kept p t f (he _) (hs _)) rfl

/-- A change of one tree's lifecycle state, by a command that may make one. -/
theorem modTree_enabled (hc : mayWriteEnabled c = true) (p : Part) (t : TreeId) (f : Tree → Tree)
    (hs : ∀ T, (f T).settings = T.settings) : Part.Lawful c p (p.modTree t f) := by
  have hsettings : ∀ u, ((p.modTree t f).tree u).settings = (p.tree u).settings := by
    intro u
    rw [Part.tree_modTree]
    split
    case isTrue hu => rw [hs, hu]
    case isFalse => rfl
  exact ⟨fun _ => hsettings, fun h => by simp [hc] at h, fun _ => rfl, fun _ => rfl,
    Part.StoredOk.of_same hsettings rfl rfl, id⟩

/-- A change of one tree's settings within their ranges, by a command that may make one. -/
theorem modTree_settings (hc : mayWriteSettings c = true) (p : Part) (t : TreeId) (f : Tree → Tree)
    (he : ∀ T, (f T).enabled = T.enabled) (hs : ∀ T, T.settings.Ok → (f T).settings.Ok) :
    Part.Lawful c p (p.modTree t f) where
  settings h := by simp [hc] at h
  enabled _ u := by
    rw [Part.tree_modTree]
    split
    case isTrue hu => rw [he, hu]
    case isFalse => rfl
  slots _ := rfl
  reportTable _ := rfl
  stored := by
    rintro ⟨h1, h2, h3⟩
    refine ⟨fun u => ?_, h2, h3⟩
    rw [Part.tree_modTree]
    split
    · exact hs _ (h1 t)
    · exact h1 u
  table := id

/-- An internal slot is written within its ranges, by a command that may do so. -/
theorem setSlot (hc : mayWriteSlots c = true) (p : Part) {n : Nat} (hn : 1 ≤ n ∧ n ≤ 16) {v : ProfileSlot}
    (hv : p.StoredOk → v.Ok) : Part.Lawful c p (p.setSlot n v) where
  settings _ _ := rfl
  enabled _ _ := rfl
  slots h := by simp [hc] at h
  reportTable _ := rfl
  stored hp := hp.setSlot hn (hv hp)
  table := id

/-- The report table is written within its ranges, by a command that may do so. -/
theorem setReportTable (hc : mayWriteReportTable c = true) (p : Part) {table : PerSlot TableSlot}
    (hx : p.StoredOk → ∀ x, (table.get x).Ok) : Part.Lawful c p { p with reportTable := table } where
  settings _ _ := rfl
  enabled _ _ := rfl
  slots _ := rfl
  reportTable h := by simp [hc] at h
  stored := fun hp => ⟨hp.1, hp.2.1, hx hp⟩
  table := id

theorem freeRecord (c : Instr) (p : Part) (k : Clock) (t : TreeId) (h : Nat) (cause : Cause) :
    Part.Lawful c p (p.freeRecord k t h cause) :=
  of_kept (Part.freeRecord_kept p k t h cause) (Part.freeRecord_tableOk k t h cause)

theorem raise (c : Instr) (p : Part) (n : Notice) : Part.Lawful c p (p.raise n) := of_keeps rfl rfl

end Part.Lawful

/-! ### What each request makes of the part -/

section
variable {c : Instr} (body : List Byte) (k : Clock) (p : Part)

theorem refuse_lawful (status : Status) : Part.Lawful c p (refuse p status).1 := Part.Lawful.refl c p

theorem okay_self_lawful (data : List Byte) : Part.Lawful c p (okay p data).1 := Part.Lawful.refl c p

/-- A request that names a record by tree and handle. -/
theorem withRecord_lawful {f : TreeId → Nat → Record → Answer} (hf : ∀ t h r, Part.Lawful c p (f t h r).1) :
    Part.Lawful c p (withRecord p body f).1 := by
  simp only [withRecord]
  split
  · exact refuse_lawful p _
  split
  · exact refuse_lawful p _
  · exact hf _ _ _

/-- A request that names an internal slot. -/
theorem withSlot_lawful {f : Nat → Answer} (hf : ∀ n, 1 ≤ n ∧ n ≤ 16 → Part.Lawful c p (f n).1) :
    Part.Lawful c p (withSlot p body f).1 := by
  simp only [withSlot, profileSlotAt]
  split
  case h_1 => exact refuse_lawful p _
  case h_2 n hn =>
    split at hn
    case isFalse => cases hn
    case isTrue h =>
      cases hn
      exact hf _ (by simpa using h)

theorem storeSaveAnswer_lawful : Part.Lawful c p (storeSaveAnswer body k p).1 := by
  simp only [storeSaveAnswer]
  (repeat' split) <;> try exact refuse_lawful p _
  refine Part.Lawful.trans (q := { p with
    save := some ⟨(byteAt body 0).toNat, p.snapshot (byteAt body 0).toNat, false⟩
    savesBegun := p.savesBegun + 1 }) ?_ ?_
  · exact Part.Lawful.of_trees rfl rfl rfl id
  · exact Part.Lawful.of_keeps (Part.serveBus_kept _) (Part.serveBus_names _)

theorem Part.enableTree_lawful (hc : mayWriteEnabled c = true) (auto : Bool) (t : TreeId) :
    Part.Lawful c p (p.enableTree auto t) := by
  simp only [Part.enableTree]
  split
  · exact Part.Lawful.refl c p
  · exact (Part.Lawful.modTree_enabled hc p t Tree.enable fun _ => rfl).trans (Part.Lawful.raise c _ _)

theorem treeEnableAnswer_lawful (hc : mayWriteEnabled c = true) : Part.Lawful c p (treeEnableAnswer body k p).1 := by
  simp only [treeEnableAnswer]
  split
  · exact refuse_lawful p _
  · exact Part.Lawful.foldl (fun p t _ => Part.enableTree_lawful p hc false t) p

theorem Part.freeTree_lawful (t : TreeId) : Part.Lawful c p (p.freeTree t) :=
  Part.Lawful.of_trees rfl rfl rfl (Part.freeTree_tableOk t)

theorem Part.disableTree_lawful (hc : mayWriteEnabled c = true) (t : TreeId) : Part.Lawful c p (p.disableTree t) := by
  simp only [Part.disableTree]
  split
  · have hdrop : Part.Lawful c p (p.dropFetch t) :=
      Part.Lawful.of_keeps (Part.dropFetch_kept p t) (Part.dropFetch_names p t)
    exact ((hdrop.trans (Part.freeTree_lawful _ t)).trans (Part.Lawful.modTree_enabled hc _ t Tree.disable fun _ => rfl)).trans
      (Part.Lawful.raise c _ _)
  · exact Part.Lawful.refl c p

theorem treeDisableAnswer_lawful (hc : mayWriteEnabled c = true) : Part.Lawful c p (treeDisableAnswer body k p).1 := by
  simp only [treeDisableAnswer]
  split
  · exact refuse_lawful p _
  · exact Part.Lawful.foldl (fun p t _ => Part.disableTree_lawful p hc t) p

theorem Part.setTree_lawful (hc : mayWriteSettings c = true) {pairs : List (Nat × Int)}
    (hpairs : ∀ q ∈ pairs, badEnum q.1 q.2 = false) (t : TreeId) : Part.Lawful c p (p.setTree k pairs t) := by
  have hstore := Part.Lawful.modTree_settings hc p t (fun T => { T with settings := storePairs T.settings pairs })
    (fun _ => rfl) fun _ h => h.storePairs hpairs
  simp only [Part.setTree]
  split
  · exact hstore.trans (Part.Lawful.of_keeps (Part.guardMaskStored_kept _ k t) (Part.guardMaskStored_names _ k t))
  · exact hstore

theorem treeSetAnswer_lawful (hc : mayWriteSettings c = true) : Part.Lawful c p (treeSetAnswer body k p).1 := by
  simp only [treeSetAnswer]
  split
  · exact refuse_lawful p _
  split
  · exact refuse_lawful p _
  rename_i hbad
  split
  · exact refuse_lawful p _
  refine Part.Lawful.foldl (fun p t _ => Part.setTree_lawful k p hc (fun q hq => ?_) t) p
  simp only [List.any_eq_true, not_exists, not_and, badPair, Bool.or_eq_true, not_or, Bool.not_eq_true] at hbad
  exact (hbad q hq).2

theorem treeGetAnswer_lawful : Part.Lawful c p (treeGetAnswer body k p).1 := by
  simp only [treeGetAnswer]
  split
  · exact refuse_lawful p _
  simp only [okay]
  split
  · exact Part.Lawful.refl c p
  · exact Part.Lawful.foldl (fun p t _ => Part.Lawful.of_keeps (Part.modCounters_kept p t _) (Part.modCounters_names p t _)) p

theorem Part.applyEntries_lawful (es : List AdmitEntry) (n : Nat) (hes : ∀ e ∈ es, e.bound = false) :
    Part.Lawful c p (p.applyEntries es n).1 := by
  have hsame : ∀ (es : List AdmitEntry) (n : Nat) (p : Part), (p.applyEntries es n).1.trees = p.trees
      ∧ (p.applyEntries es n).1.slots = p.slots ∧ (p.applyEntries es n).1.reportTable = p.reportTable := by
    intro es
    induction es with
    | nil => exact fun _ _ => ⟨rfl, rfl, rfl⟩
    | cons e rest ih =>
      intro n p
      simp only [Part.applyEntries]
      split
      case h_2 => exact ⟨rfl, rfl, rfl⟩
      case h_1 q hq =>
        have hone : q.trees = p.trees ∧ q.slots = p.slots ∧ q.reportTable = p.reportTable := by
          simp only [Part.applyEntry] at hq
          (repeat' split at hq) <;> cases hq <;> exact ⟨rfl, rfl, rfl⟩
        obtain ⟨h1, h2, h3⟩ := hone
        obtain ⟨g1, g2, g3⟩ := ih (n + 1) q
        exact ⟨g1.trans h1, g2.trans h2, g3.trans h3⟩
  obtain ⟨h1, h2, h3⟩ := hsame es n p
  exact Part.Lawful.of_trees h1 h2 h3 (Part.applyEntries_tableOk es n hes)

theorem admitAnswer_lawful : Part.Lawful c p (admitAnswer body k p).1 := by
  simp only [admitAnswer]
  split
  · exact refuse_lawful p _
  refine Part.applyEntries_lawful p _ 0 fun e he => ?_
  simp only [List.mem_filterMap, List.mem_map, id] at he
  obtain ⟨_, ⟨bs, -, rfl⟩, he⟩ := he
  exact entryOf_bound he

theorem unadmitAnswer_lawful : Part.Lawful c p (unadmitAnswer body k p).1 := by
  simp only [unadmitAnswer]
  split
  · exact refuse_lawful p _
  rename_i e he
  split
  · exact refuse_lawful p _
  rename_i hb
  refine Part.Lawful.of_trees rfl rfl rfl fun hp => hp.filterEntries _ fun x hx hgone => ?_
  obtain ⟨htags, -⟩ := hp
  obtain ⟨hmem, htag⟩ := Part.entry?_mem he
  have hxe : x = e := eq_of_nodup_map htags hx hmem (by simpa [htag] using hgone)
  simpa [hxe] using hb

theorem admitReadAnswer_lawful : Part.Lawful c p (admitReadAnswer body k p).1 := by
  simp only [admitReadAnswer]
  split
  · exact refuse_lawful p _
  · exact okay_self_lawful p _

theorem admitClearAnswer_lawful : Part.Lawful c p (admitClearAnswer k p).1 :=
  Part.Lawful.of_trees rfl rfl rfl fun hp => hp.filterEntries _ fun _ _ h => h

theorem unclaimedClearAnswer_lawful : Part.Lawful c p (unclaimedClearAnswer body k p).1 := by
  simp only [unclaimedClearAnswer]
  (repeat' split) <;> exact Part.Lawful.of_trees rfl rfl rfl (Part.TableOk.of_names rfl)

theorem terminalReadAnswer_lawful : Part.Lawful c p (terminalReadAnswer body k p).1 := by
  simp only [terminalReadAnswer]
  (repeat' split) <;> exact Part.Lawful.refl c p

theorem terminalFindAnswer_lawful : Part.Lawful c p (terminalFindAnswer body k p).1 := by
  simp only [terminalFindAnswer]
  split <;> exact Part.Lawful.refl c p

theorem terminalListAnswer_lawful : Part.Lawful c p (terminalListAnswer body k p).1 := by
  simp only [terminalListAnswer]
  (repeat' split) <;> exact Part.Lawful.refl c p

theorem Part.offer_lawful (t : TreeId) (o : Order) : Part.Lawful c p (p.offer t o) :=
  Part.Lawful.of_keeps (Part.offer_kept p t o) (Part.offer_names p t o)

theorem retireAnswer_lawful : Part.Lawful c p (retireAnswer body k p).1 := by
  refine withRecord_lawful body p fun t h r => ?_
  simp only [okay]
  split
  · exact (Part.offer_lawful p t _).trans (Part.Lawful.freeRecord c _ k t h _)
  · exact Part.Lawful.freeRecord c p k t h _

theorem releaseAnswer_lawful : Part.Lawful c p (releaseAnswer body k p).1 := by
  refine withRecord_lawful body p fun t h r => ?_
  split
  · refine Part.Lawful.trans (q := p.modEntry r.tag fun e => { e with conflict := false }) ?_
      (Part.Lawful.freeRecord c _ k t h _)
    exact Part.Lawful.of_keeps rfl (Part.modEntry_names _ _ _ (fun _ => rfl) fun _ => rfl)
  · exact refuse_lawful p _

theorem realignAnswer_lawful : Part.Lawful c p (realignAnswer body k p).1 := by
  refine withRecord_lawful body p fun t h r => ?_
  split
  · exact Part.Lawful.of_keeps (Part.enterRefind_kept p k t h _) (Part.enterRefind_names p k t h _)
  · exact refuse_lawful p _

theorem reloadAnswer_lawful : Part.Lawful c p (reloadAnswer body k p).1 := by
  refine withRecord_lawful body p fun t h r => ?_
  (repeat' split) <;> try exact refuse_lawful p _
  exact Part.Lawful.of_keeps (Part.enterLoading_kept p k t h _ _) (Part.enterLoading_names p k t h _ _)

theorem Part.offerOn_lawful (m : TreeMask) (o : Order) : Part.Lawful c p (p.offerOn m o) :=
  Part.Lawful.of_keeps (Part.offerOn_kept p m o) (Part.offerOn_names p m o)

theorem standdownAnswer_lawful : Part.Lawful c p (standdownAnswer body k p).1 := by
  simp only [standdownAnswer]
  split
  · exact refuse_lawful p _
  · exact (Part.offerOn_lawful p _ _).trans
      (Part.Lawful.of_keeps (Part.standRecordDown_kept _ k _ _) (Part.standRecordDown_names _ k _ _))

theorem liftAnswer_lawful : Part.Lawful c p (liftAnswer body k p).1 := by
  simp only [liftAnswer]
  split
  · exact refuse_lawful p _
  · exact Part.offerOn_lawful p _ _

theorem profileOpenAnswer_lawful (hc : mayWriteSlots c = true) : Part.Lawful c p (profileOpenAnswer body k p).1 := by
  refine withSlot_lawful body p fun n hn => ?_
  split
  · exact refuse_lawful p _
  · exact Part.Lawful.setSlot hc p hn fun _ => by simp [ProfileSlot.Ok]

theorem profileWriteAnswer_lawful (hc : mayWriteSlots c = true) : Part.Lawful c p (profileWriteAnswer body k p).1 := by
  refine withSlot_lawful body p fun n hn => ?_
  dsimp only
  split
  · exact refuse_lawful p _
  rename_i hfits
  refine Part.Lawful.setSlot hc p hn fun _ => ⟨?_, by simp, by simp⟩
  simp only [Bool.or_eq_true, not_or, decide_eq_true_eq] at hfits
  rw [List.length_append]
  omega

theorem profileCloseAnswer_lawful (hc : mayWriteSlots c = true) : Part.Lawful c p (profileCloseAnswer body k p).1 := by
  refine withSlot_lawful body p fun n hn => ?_
  dsimp only
  split
  · exact refuse_lawful p _
  refine Part.Lawful.setSlot hc p hn fun hp => ?_
  obtain ⟨-, hslots, -⟩ := hp
  obtain ⟨hlen, -, -⟩ := hslots n hn.1 hn.2
  refine ⟨hlen, ?_, ?_⟩ <;> cases (p.slot n).bytes <;> simp

theorem profileEraseAnswer_lawful (hc : mayWriteSlots c = true) : Part.Lawful c p (profileEraseAnswer body k p).1 := by
  refine withSlot_lawful body p fun n hn => ?_
  split
  · exact refuse_lawful p _
  · exact Part.Lawful.setSlot hc p hn fun _ => ProfileSlot.empty_ok

theorem profileInfoAnswer_lawful : Part.Lawful c p (profileInfoAnswer body k p).1 :=
  withSlot_lawful body p fun _ _ => okay_self_lawful p _

theorem pushBeginAnswer_lawful : Part.Lawful c p (pushBeginAnswer body k p).1 := by
  simp only [pushBeginAnswer]
  (repeat' split) <;> try exact refuse_lawful p _
  exact Part.Lawful.of_keeps (Part.startPreparing_kept p k _ _ _ _) (Part.startPreparing_names p k _ _ _ _)

theorem pushDataAnswer_lawful : Part.Lawful c p (pushDataAnswer body k p).1 := by
  simp only [pushDataAnswer]
  (repeat' split) <;> try exact refuse_lawful p _
  refine Part.Lawful.of_keeps ((Part.pauseUpdate_kept _ k _).trans (Part.modEngine_kept p _ _)) ?_
  exact (Part.pauseUpdate_names _ k _).trans (Part.modEngine_names p _ _)

theorem reportTableSetAnswer_lawful (hc : mayWriteReportTable c = true) :
    Part.Lawful c p (reportTableSetAnswer body k p).1 := by
  simp only [reportTableSetAnswer]
  split
  · exact refuse_lawful p _
  rename_i x _
  split
  · exact refuse_lawful p _
  have hset : Part.Lawful c p { p with reportTable := p.reportTable.set x (tableSlotOf body) } := by
    refine Part.Lawful.setReportTable hc p fun hp y => ?_
    rw [PerSlot.get_set]
    split
    · exact TableSlot.clamped_ok _ _ _ _
    · exact hp.2.2 y
  simp only [okay, Part.setTableSlot]
  split
  · refine hset.trans (Part.Lawful.of_trees rfl rfl rfl (Part.TableOk.of_names ?_))
    exact Part.mapRecords_names _ _ (fun _ => rfl) (fun _ => rfl) fun _ => rfl
  · exact hset

theorem reportReadAnswer_lawful : Part.Lawful c p (reportReadAnswer body k p).1 := by
  simp only [reportReadAnswer]
  split
  · exact refuse_lawful p _
  · exact withRecord_lawful body p fun _ _ _ => okay_self_lawful p _

end

end Sys2Proof.Machine
end

section
/-!
PROOFS. What the events make of the part: the work of a cycle start, the ends of transfers and of start-up's reads.
-/

namespace Sys2Proof.Machine

/-! ### The cycle start -/

theorem Part.eachTree_lawful {c : Instr} {f : Part → TreeId → Part} (hf : ∀ p t, Part.Lawful c p (f p t)) (p : Part) :
    Part.Lawful c p (p.eachTree f) :=
  Part.Lawful.foldl (fun p t _ => hf p t) p

theorem Part.deadlineTest_lawful (c : Instr) (p : Part) (k : Clock) (t : TreeId) (h : Nat) :
    Part.Lawful c p (p.deadlineTest k t h) := by
  simp only [Part.deadlineTest]
  split
  · exact Part.Lawful.refl c p
  split
  · exact Part.Lawful.freeRecord c p k t h _
  · exact Part.Lawful.refl c p

theorem Part.tenthTests_lawful (c : Instr) (p : Part) (k : Clock) (t : TreeId) : Part.Lawful c p (p.tenthTests k t) := by
  simp only [Part.tenthTests]
  refine Part.Lawful.trans
    (Part.Lawful.foldl (l := allHandles) (fun p h _ => Part.deadlineTest_lawful c p k t h) p) ?_
  exact Part.Lawful.of_keeps (by simp) (by simp)

/-- The work left of an open cycle start frees at most the records whose refind deadline is reached (R94). -/
theorem Part.finishStart_lawful (c : Instr) (p : Part) (k : Clock) : Part.Lawful c p (p.finishStart k) := by
  have hstale : ∀ p : Part, Part.Lawful c p (p.eachTree fun p t => p.staleTests t) := Part.eachTree_lawful fun p t =>
    Part.Lawful.of_keeps (Part.staleTests_kept p t) (Part.staleTests_names p t)
  have htree : ∀ (b : Bool) (p : Part), Part.Lawful c p (p.eachTree fun p t => p.treeStart k b t) := fun b =>
    Part.eachTree_lawful fun p t => Part.Lawful.of_keeps (Part.treeStart_kept p k b t) (Part.treeStart_names p k b t)
  have htenth : ∀ (k : Clock) (p : Part), Part.Lawful c p (p.eachTree fun p t => p.tenthTests k t) := fun k =>
    Part.eachTree_lawful fun p t => Part.tenthTests_lawful c p k t
  have hclose : ∀ p : Part, Part.Lawful c p (p.eachTree fun p t => p.modTree t Tree.closeStart) :=
    Part.eachTree_lawful fun p t => Part.Lawful.modTree c p t _ (fun _ => rfl) fun _ => rfl
  simp only [Part.finishStart]
  split
  · exact (((hstale p).trans (htree _ _)).trans (htenth _ _)).trans (hclose _)
  · exact (htree _ p).trans (hclose _)

theorem Part.openStart_lawful (c : Instr) (p : Part) (n : CycleNo) :
    Part.Lawful c p (p.eachTree fun p t => p.modTree t (·.openStart n)) :=
  Part.eachTree_lawful (fun p t => Part.Lawful.modTree c p t _ (by simp) (by simp)) p

theorem Part.lightAtStart_lawful (c : Instr) (p : Part) (lit : TreeMask) :
    Part.Lawful c p (p.eachTree fun p t => p.modTree t (·.lightAtStart (inMask lit t))) :=
  Part.eachTree_lawful (fun p t => Part.Lawful.modTree c p t _ (by simp) (by simp)) p

theorem Part.ageAll_lawful (c : Instr) (p : Part) : Part.Lawful c p p.ageAll :=
  Part.Lawful.of_keeps (Part.ageAll_kept p) (Part.ageAll_names p)

/-! ### The two-wire bus -/

theorem Part.serveBus_lawful (c : Instr) (p : Part) : Part.Lawful c p p.serveBus :=
  Part.Lawful.of_keeps (Part.serveBus_kept p) (Part.serveBus_names p)

theorem Part.endTransfer_lawful (c : Instr) (p : Part) : Part.Lawful c p p.endTransfer :=
  Part.Lawful.of_keeps (Part.endTransfer_kept p) (Part.endTransfer_names p)

theorem Part.failAttempt_lawful (c : Instr) (p : Part) (k : Clock) (t : TreeId) (reason : FailReason) (code : Nat)
    (byTimer : Bool) : Part.Lawful c p (p.failAttempt k t reason code byTimer) :=
  Part.Lawful.of_keeps (Part.failAttempt_kept p k t reason code byTimer) (Part.failAttempt_names p k t reason code byTimer)

theorem Part.fetchEnds_lawful {c : Instr} (p : Part) (k : Clock) (t : TreeId) (x : Transfer) (result : Option (List Byte))
    {f : Part → List Byte → Part} (hf : ∀ p bs, Part.Lawful c p (f p bs)) :
    Part.Lawful c p (p.fetchEnds k t x result f) := by
  simp only [Part.fetchEnds]
  refine ((Part.endTransfer_lawful c p).trans ?_).trans (Part.serveBus_lawful c _)
  split
  · exact Part.Lawful.refl c _
  split
  · exact hf _ _
  · exact Part.failAttempt_lawful c _ k t _ _ _

theorem Part.pageWritten_lawful (c : Instr) (p : Part) (v : Save) (address : Nat) (ack : Bool) :
    Part.Lawful c p (p.pageWritten v address ack) := by
  have hsave : ∀ (p : Part) (w : Option Save), Part.Lawful c p { p with save := w } := fun p w =>
    Part.Lawful.of_trees rfl rfl rfl id
  have hend := Part.endTransfer_lawful c p
  simp only [Part.pageWritten]
  split
  · split
    · exact ((hend.trans (hsave _ none)).trans (Part.Lawful.raise c _ _)).trans (Part.serveBus_lawful c _)
    · exact (hend.trans (hsave _ _)).trans (Part.serveBus_lawful c _)
  · exact ((hend.trans (hsave _ none)).trans (Part.Lawful.raise c _ _)).trans (Part.serveBus_lawful c _)

/-! ### Start-up -/

section
variable {c : Instr} (p : Part)

theorem Part.setLoader_lawful (v : Option Loader) : Part.Lawful c p { p with loader := v } :=
  Part.Lawful.of_trees rfl rfl rfl id

theorem Part.loaderReads_lawful (address length : Nat) : Part.Lawful c p (p.loaderReads address length) :=
  Part.Lawful.of_trees rfl rfl rfl id

theorem Part.finishStartUp_lawful (hc : mayWriteEnabled c = true) (kind : ResetKind) (settings admission : StartResult)
    (applied skipped : Nat) : Part.Lawful c p (p.finishStartUp kind settings admission applied skipped) := by
  simp only [Part.finishStartUp]
  exact ((Part.setLoader_lawful p none).trans (Part.Lawful.raise c _ _)).trans
    (Part.Lawful.foldl (fun p t _ => Part.enableTree_lawful p hc true t) _)

theorem Part.startUp_lawful (hc : mayWriteEnabled c = true) (kind : ResetKind) : Part.Lawful c p (p.startUp kind) := by
  simp only [Part.startUp]
  split
  · exact (Part.setLoader_lawful p _).trans (Part.loaderReads_lawful _ _ _)
  · exact Part.finishStartUp_lawful p hc _ _ _ _ _

theorem Part.settingsJudged_lawful (v : Loader) (result : StartResult) : Part.Lawful c p (p.settingsJudged v result) :=
  (Part.setLoader_lawful p _).trans (Part.loaderReads_lawful _ _ _)

theorem Part.applySettings_lawful (hs : mayWriteSettings c = true) (hr : mayWriteReportTable c = true) (body : List Byte) :
    Part.Lawful c p (p.applySettings body) := by
  simp only [Part.applySettings]
  refine Part.Lawful.trans (Part.eachTree_lawful (fun p t => ?_) p) (Part.Lawful.setReportTable hr _ fun _ x => ?_)
  · exact Part.Lawful.modTree_settings hs p t _ (fun _ => rfl) fun _ h => h.applyValues _
  · cases x <;> exact TableSlot.clamped_ok _ _ _ _

theorem Part.settingsRead_lawful (hs : mayWriteSettings c = true) (hr : mayWriteReportTable c = true) (v : Loader)
    (got : List Byte) : Part.Lawful c p (p.settingsRead v got) := by
  simp only [Part.settingsRead]
  split
  · exact (Part.setLoader_lawful p _).trans (Part.loaderReads_lawful _ _ _)
  split
  · exact (Part.applySettings_lawful p hs hr _).trans (Part.settingsJudged_lawful _ v _)
  · exact Part.settingsJudged_lawful p v _

theorem Part.admissionRead_lawful (he : mayWriteEnabled c = true) (v : Loader) (settings : StartResult) (got : List Byte) :
    Part.Lawful c p (p.admissionRead v settings got) := by
  simp only [Part.admissionRead]
  split
  · exact Part.finishStartUp_lawful p he _ _ _ _ _
  split
  · exact (Part.setLoader_lawful p _).trans (Part.loaderReads_lawful _ _ _)
  split
  · simp only [Part.admissionApplied]
    refine (Part.applyEntries_lawful p _ 0 fun e h => ?_).trans (Part.finishStartUp_lawful _ he _ _ _ _ _)
    obtain ⟨bs, -, hbs⟩ := List.mem_filterMap.mp h
    exact entryOf_bound hbs
  · exact Part.finishStartUp_lawful p he _ _ _ _ _

theorem Part.loaderRead_lawful (hs : mayWriteSettings c = true) (he : mayWriteEnabled c = true)
    (hr : mayWriteReportTable c = true) (v : Loader) (result : Option (List Byte)) :
    Part.Lawful c p (p.loaderRead v result) := by
  simp only [Part.loaderRead]
  split
  · exact Part.settingsJudged_lawful p v _
  · exact Part.settingsRead_lawful p hs hr v _
  · exact Part.finishStartUp_lawful p he _ _ _ _ _
  · exact Part.admissionRead_lawful p he v _ _

end

/-! ### The resets -/

theorem mayWrite_of_mayRestart {c : Instr} (hc : mayRestart c = true) :
    mayWriteSettings c = true ∧ mayWriteEnabled c = true ∧ mayWriteSlots c = true ∧ mayWriteReportTable c = true := by
  simp [mayWriteSettings, mayWriteEnabled, mayWriteSlots, mayWriteReportTable, hc]

/-- A command that may restart the part may write all that is stored. -/
theorem Part.Lawful.of_mayRestart {c : Instr} (hc : mayRestart c = true) {p q : Part} (hs : p.StoredOk → q.StoredOk)
    (ht : p.TableOk → q.TableOk) : Part.Lawful c p q := by
  obtain ⟨h1, h2, h3, h4⟩ := mayWrite_of_mayRestart hc
  exact ⟨fun h => by simp [h1] at h, fun h => by simp [h2] at h, fun h => by simp [h3] at h, fun h => by simp [h4] at h,
    hs, ht⟩

theorem Part.restart_lawful {c : Instr} (hc : mayRestart c = true) (p : Part) (kind : ResetKind) (straps : Straps) (n : Nat)
    {slots : Vector ProfileSlot 16} (hslots : p.StoredOk → ∀ v ∈ slots, v.Ok) :
    Part.Lawful c p (({ Part.afterReset straps slots with savesBegun := n } : Part).startUp kind) := by
  refine Part.Lawful.trans (Part.Lawful.of_mayRestart hc (fun hp => Part.afterReset_storedOk (hslots hp) straps n)
    fun _ => Part.tableOk_of_empty rfl rfl) (Part.startUp_lawful _ (mayWrite_of_mayRestart hc).2.1 kind)

end Sys2Proof.Machine
end

section
/-!
PROOFS. What a command may do to the state, said once (`State.Lawful`), with a rule for each shape of command; then every
command is lawful, and the invariants of the machine follow.
-/

namespace Sys2Proof.Machine

/-- What every command `c` leaves right: the timebase and the link in their bounds, the part lawful, the queue of waiting
commands as it is. -/
structure State.Lawful (c : Instr) (s t : State) : Prop where
  clock : s.clock.Ok → t.clock.Ok
  link : s.LinkOk → t.LinkOk
  part : Part.Lawful c s.part t.part
  pending : t.pending = s.pending

namespace State.Lawful

variable {c : Instr} {s t u : State}

theorem refl (c : Instr) (s : State) : State.Lawful c s s := ⟨id, id, Part.Lawful.refl c _, rfl⟩

theorem trans (h : State.Lawful c s t) (h' : State.Lawful c t u) : State.Lawful c s u :=
  ⟨fun hs => h'.clock (h.clock hs), fun hs => h'.link (h.link hs), h.part.trans h'.part, h'.pending.trans h.pending⟩

theorem forget_raised (c : Instr) (p : Part) : Part.Lawful c p { p with raised := [] } :=
  Part.Lawful.of_trees rfl rfl rfl (Part.TableOk.of_names rfl)

/-- The end of an effect: its notices join the queue, and the transmitter starts when it can. -/
theorem settle (k : Clock) {p : Part} (hk : s.clock.Ok → k.Ok) (hp : Part.Lawful c s.part p) :
    State.Lawful c s (State.settle { s with clock := k, part := p }) where
  clock := hk
  link hs := ⟨Link.Ok.afterEvent hs.1 p.raised, rfl⟩
  part := hp.trans (forget_raised c p)
  pending := rfl

theorem withPart {p : Part} (hp : Part.Lawful c s.part p) : State.Lawful c s (s.withPart p) := settle s.clock id hp

/-- A change of the timebase and of the part that raises no notice. -/
theorem quiet (k : Clock) {p : Part} (hk : s.clock.Ok → k.Ok) (hp : Part.Lawful c s.part p)
    (hr : p.raised = s.part.raised) : State.Lawful c s { s with clock := k, part := p } where
  clock := hk
  link hs := ⟨hs.1, hr.trans hs.2⟩
  part := hp
  pending := rfl

/-- A change of the link alone. -/
theorem ofLink {l : Link} (hl : s.link.Ok → l.Ok) : State.Lawful c s { s with link := l } where
  clock := id
  link hs := ⟨hl hs.1, hs.2⟩
  part := Part.Lawful.refl c _
  pending := rfl

end State.Lawful

/-! ### The stages of a cycle start -/

section
variable (c : Instr) (s : State)

theorem Clock.Ok.openStart {k : Clock} (h : k.Ok) : k.openStart.Ok := by
  obtain ⟨-, hcount, -⟩ := h
  simp only [Clock.openStart]
  split
  · simp_all [Clock.Ok, Config.cycleSteps]
  · simp only [Config.tenthCycles] at *
    refine ⟨by simp [Config.cycleSteps], hcount, fun _ => rfl, fun _ => ?_, ?_⟩
    · show k.cycleInTenth = 762
      omega
    · simp

theorem Clock.Ok.takeBoundary {k : Clock} (h : k.Ok) (hd : k.stage = .boundaryDue) : k.takeBoundary.Ok := by
  obtain ⟨hpos, -, hopen, -⟩ := h
  exact ⟨hpos, by simp [Clock.takeBoundary, Config.tenthCycles], fun _ => hopen (by simp [hd]),
    by simp [Clock.takeBoundary], fun _ => rfl⟩

theorem Clock.Ok.close {k : Clock} (h : k.Ok) : ({ k with stage := .closed } : Clock).Ok :=
  ⟨h.1, h.2.1, fun h => absurd rfl h, fun h => (by cases h), fun h => (by cases h)⟩

theorem Clock.Ok.withPos {k : Clock} (h : k.Ok) (hc : k.stage = .closed) {pos : Nat} (hpos : pos < Config.cycleSteps) :
    ({ k with pos := pos } : Clock).Ok :=
  ⟨hpos, h.2.1, fun h => absurd hc h, h.2.2.2.1, h.2.2.2.2⟩

theorem State.openStart_lawful : State.Lawful c s s.openStart :=
  State.Lawful.quiet _ Clock.Ok.openStart (Part.openStart_lawful c s.part _) rfl

theorem State.atStart_lawful : State.Lawful c s s.atStart := by
  simp only [State.atStart]
  split
  · exact State.openStart_lawful c s
  · exact State.Lawful.refl c s

theorem State.takeBoundary_lawful (hd : s.clock.stage = .boundaryDue) : State.Lawful c s s.takeBoundary :=
  State.Lawful.quiet _ (fun h => h.takeBoundary hd) (Part.ageAll_lawful c s.part) rfl

theorem State.boundaryStep_lawful : State.Lawful c s s.boundaryStep := by
  simp only [State.boundaryStep]
  split
  · exact State.takeBoundary_lawful c s ‹_›
  · exact State.Lawful.refl c s

theorem State.startOpen_lawful : State.Lawful c s s.startOpen :=
  (State.atStart_lawful c s).trans (State.boundaryStep_lawful c _)

theorem State.finishStart_lawful : State.Lawful c s s.finishStart.settle :=
  (State.boundaryStep_lawful c s).trans
    (State.Lawful.settle _ Clock.Ok.close (Part.finishStart_lawful c _ _))

theorem State.ready_lawful : State.Lawful c s s.ready := by
  simp only [State.ready]
  split
  · exact State.Lawful.refl c s
  · exact State.finishStart_lawful c s

theorem State.ready_stage : s.ready.clock.stage = .closed := by
  simp only [State.ready]
  split
  · assumption
  · rfl

theorem State.cycleStart_lawful (lit : TreeMask) : State.Lawful c s (s.cycleStart lit).settle :=
  ((State.atStart_lawful c s).trans
    (State.Lawful.quiet s.atStart.clock id (Part.lightAtStart_lawful c s.atStart.part lit) rfl)).trans
      (State.finishStart_lawful c _)

end

/-! ### The shapes of commands -/

section
variable {c : Instr} {s : State}

theorem State.takePiece_lawful {due : Clock → Part → Bool} {f : Clock → Part → Part}
    (hf : ∀ k p, Part.Lawful c p (f k p)) : State.Lawful c s (s.takePiece due f) := by
  simp only [State.takePiece]
  split
  · exact (State.startOpen_lawful c s).trans (State.Lawful.withPart (hf _ _))
  · exact State.Lawful.refl c s

theorem State.takeAtTenth_lawful {due : Clock → Part → Bool} {f : Clock → Part → Part}
    (hf : ∀ k p, Part.Lawful c p (f k p)) : State.Lawful c s (s.takeAtTenth due f) := by
  simp only [State.takeAtTenth]
  split
  · exact (State.startOpen_lawful c s).trans (State.Lawful.withPart (hf _ _))
  · exact State.Lawful.refl c s

/-- An event that has not come leaves the state as it is. -/
theorem State.Lawful.getD {o : Option State} (h : ∀ u, o = some u → State.Lawful c s u) : State.Lawful c s (o.getD s) := by
  cases o with
  | none => exact State.Lawful.refl c s
  | some u => exact h u rfl

theorem State.eventAt_lawful {pos : Nat} {f : State → Option State} (hf : ∀ u v, f u = some v → State.Lawful c u v) :
    State.Lawful c s (s.eventAt pos f) := by
  refine State.Lawful.getD fun v hv => ?_
  obtain ⟨u, hu, hv⟩ := Option.bind_eq_some_iff.mp hv
  simp only [State.passTo] at hu
  split at hu
  case isFalse => cases hu
  case isTrue hpos =>
    cases hu
    have hin : pos < Config.cycleSteps := by simpa using (And.right (by simpa using hpos))
    exact ((State.ready_lawful c s).trans (State.Lawful.quiet _
      (fun h => h.withPos (State.ready_stage s) hin) (Part.Lawful.refl c _) rfl)).trans (hf _ _ hv)

theorem State.onTree_lawful {t : TreeId} {f : Tree → Tree} (he : ∀ T, (f T).enabled = T.enabled)
    (hs : ∀ T, (f T).settings = T.settings) : State.Lawful c s (s.onTree t f) :=
  State.Lawful.withPart (Part.Lawful.modTree c _ t f he hs)

/-- A request, whose effect is lawful (R183). -/
theorem State.request_lawful {kind : Byte} {fits : Bool} {act : Clock → Part → Answer}
    (hact : ∀ k p, Part.Lawful c p (act k p).1) : State.Lawful c s (s.request kind fits act) := by
  have hready : State.Lawful c s s.ready.consumed :=
    (State.ready_lawful c s).trans (State.Lawful.ofLink fun h => h.withRx [])
  simp only [State.request]
  refine hready.trans ?_
  generalize s.ready.consumed = u
  split
  case h_1 => exact State.Lawful.refl c u
  case h_2 hv => exact State.Lawful.ofLink fun h => (h.fits.answerBusy (Link.verdict_busy hv) kind).kick
  case h_3 hv =>
    obtain ⟨hroom, hfree⟩ := Link.verdict_take hv
    have hpart : Part.Lawful c u.part (if fits then act u.clock u.part else refuse u.part .badLength).1 := by
      split
      · exact hact _ _
      · exact Part.Lawful.refl c _
    refine ⟨id, fun h => ⟨?_, rfl⟩, hpart.trans (State.Lawful.forget_raised c _), rfl⟩
    obtain ⟨-, hreplies, hslot, -, -⟩ := Link.notifyAll_frame u.link
      (if fits then act u.clock u.part else refuse u.part .badLength).1.raised
    exact ((h.1.fits.notifyAll _).answer (hreplies ▸ hroom) (hslot ▸ hfree) kind _ _).kick

end

end Sys2Proof.Machine
end

section
/-!
PROOFS. Every command is lawful, and so is a step: the invariants of the machine (the statements O2, O5 to O9).
-/

namespace Sys2Proof.Machine

/-! ### Requests -/

section
variable {c : Instr} (s : State) (body : List Byte)

theorem State.serveReset_lawful : State.Lawful c s (s.serveReset body) := by
  have hready : State.Lawful c s s.ready.consumed :=
    (State.ready_lawful c s).trans (State.Lawful.ofLink fun h => h.withRx [])
  simp only [State.serveReset]
  refine hready.trans ?_
  generalize s.ready.consumed = u
  split
  case h_1 => exact State.Lawful.refl c u
  case h_2 hv => exact State.Lawful.ofLink fun h => (h.fits.answerBusy (Link.verdict_busy hv) _).kick
  case h_3 hv =>
    obtain ⟨hroom, hfree⟩ := Link.verdict_take hv
    split
    · exact State.Lawful.ofLink fun h => (h.fits.answerReset hroom hfree).kick
    · exact State.Lawful.ofLink fun h => (h.fits.answer hroom hfree _ _ _).kick

/-- A frame that passes its CRC, its kind known: lawful where the command may write what that kind writes. -/
theorem State.serveUnknown_lawful (kind : Byte) : State.Lawful c s (s.serveUnknown kind) :=
  State.request_lawful fun _ p => refuse_lawful p _

end

/-- A frame found among the bytes of a bad one is served like any other (R181). -/
theorem State.serveFrame_lawful {c : Instr} (hc : mayRestart c = true) (s : State) (kind : Byte) (body : List Byte) :
    State.Lawful c s (s.serveFrame kind body) := by
  obtain ⟨hsettings, henabled, hslots, htable⟩ := mayWrite_of_mayRestart hc
  simp only [State.serveFrame]
  split
  · exact State.request_lawful fun _ p => okay_self_lawful p _
  · exact State.serveReset_lawful s body
  · exact State.request_lawful fun k p => storeSaveAnswer_lawful body k p
  · exact State.request_lawful fun k p => treeEnableAnswer_lawful body k p henabled
  · exact State.request_lawful fun k p => treeDisableAnswer_lawful body k p henabled
  · exact State.request_lawful fun k p => treeSetAnswer_lawful body k p hsettings
  · exact State.request_lawful fun k p => treeGetAnswer_lawful body k p
  · exact State.request_lawful fun k p => admitAnswer_lawful body k p
  · exact State.request_lawful fun k p => unadmitAnswer_lawful body k p
  · exact State.request_lawful fun k p => admitReadAnswer_lawful body k p
  · exact State.request_lawful fun k p => admitClearAnswer_lawful k p
  · exact State.request_lawful fun _ p => okay_self_lawful p _
  · exact State.request_lawful fun k p => unclaimedClearAnswer_lawful body k p
  · exact State.request_lawful fun k p => terminalReadAnswer_lawful body k p
  · exact State.request_lawful fun k p => terminalFindAnswer_lawful body k p
  · exact State.request_lawful fun k p => terminalListAnswer_lawful body k p
  · exact State.request_lawful fun k p => retireAnswer_lawful body k p
  · exact State.request_lawful fun k p => releaseAnswer_lawful body k p
  · exact State.request_lawful fun k p => realignAnswer_lawful body k p
  · exact State.request_lawful fun k p => reloadAnswer_lawful body k p
  · exact State.request_lawful fun k p => standdownAnswer_lawful body k p
  · exact State.request_lawful fun k p => liftAnswer_lawful body k p
  · exact State.request_lawful fun k p => profileOpenAnswer_lawful body k p hslots
  · exact State.request_lawful fun k p => profileWriteAnswer_lawful body k p hslots
  · exact State.request_lawful fun k p => profileCloseAnswer_lawful body k p hslots
  · exact State.request_lawful fun k p => profileEraseAnswer_lawful body k p hslots
  · exact State.request_lawful fun k p => profileInfoAnswer_lawful body k p
  · exact State.request_lawful fun k p => pushBeginAnswer_lawful body k p
  · exact State.request_lawful fun k p => pushDataAnswer_lawful body k p
  · exact State.request_lawful fun k p => reportTableSetAnswer_lawful body k p htable
  · exact State.request_lawful fun _ p => okay_self_lawful p _
  · exact State.request_lawful fun k p => reportReadAnswer_lawful body k p
  · exact State.serveUnknown_lawful s kind

theorem State.bytesIn_lawful {c : Instr} (hc : mayRestart c = true) (s : State) (bytes : List Byte) :
    State.Lawful c s (s.bytesIn bytes) := by
  have hframes : ∀ (fs : List (Byte × List Byte)) (u : State),
      State.Lawful c u (fs.foldl (fun s f => s.serveFrame f.1 f.2) u) := by
    intro fs
    induction fs with
    | nil => exact State.Lawful.refl c
    | cons f fs ih => exact fun u => (State.serveFrame_lawful hc u f.1 f.2).trans (ih _)
  simp only [State.bytesIn]
  exact ((State.ready_lawful c s).trans (hframes _ _)).trans (State.Lawful.ofLink fun h => h.withRx _)

/-! ### Events -/

section
variable {c : Instr} (s : State)

theorem State.restart_lawful (hc : mayRestart c = true) (kind : ResetKind) (straps : Straps)
    {slots : Vector ProfileSlot 16} (hslots : s.part.StoredOk → ∀ v ∈ slots, v.Ok) :
    State.Lawful c s (s.restart kind straps slots) where
  clock _ := by simp [State.restart, Clock.afterReset, Clock.Ok, Config.cycleSteps, Config.tenthCycles]
  link _ := ⟨(Link.afterReset_ok straps.rateCode).afterEvent _, rfl⟩
  part := (Part.restart_lawful hc s.part kind straps _ hslots).trans (State.Lawful.forget_raised c _)
  pending := rfl

theorem State.frameSent_lawful : State.Lawful c s s.frameSent := by
  simp only [State.frameSent]
  split
  · exact State.Lawful.refl c s
  split
  · exact State.Lawful.refl c s
  · exact (State.ready_lawful c s).trans (State.Lawful.ofLink fun h => h.endFrame _)

theorem State.lightOnset_lawful (t : TreeId) (dark : Nat) : State.Lawful c s (s.lightOnset t dark) := by
  simp only [State.lightOnset]
  split
  · refine State.Lawful.withPart ((Part.Lawful.modTree c s.part t (·.lightComes s.clock.treeTime dark) (by simp) (by simp)).trans ?_)
    exact Part.Lawful.of_keeps (Part.onsetEndsDark_kept _ _ t) (Part.onsetEndsDark_names _ _ t)
  · exact State.Lawful.refl c s

theorem Clock.positionOf_lt {k : Clock} (h : k.Ok) {x : TreeTime} {pos : Nat} (hp : k.positionOf x = some pos) :
    pos < Config.cycleSteps := by
  simp only [Clock.positionOf] at hp
  split at hp
  · cases hp; exact h.1
  split at hp
  · cases hp; assumption
  · cases hp

theorem State.seekEnds_lawful (hs : s.clock.stage = .closed) (t : TreeId) (lit : Bool) (u : State)
    (h : s.seekEnds t lit = some u) : State.Lawful c s u := by
  simp only [State.seekEnds] at h
  split at h
  case h_1 => cases h
  case h_2 q rest _ =>
    obtain ⟨pos, hpos, rfl⟩ := Option.map_eq_some_iff.mp h
    exact (State.Lawful.quiet { s.clock with pos := pos } (fun hk => hk.withPos hs (Clock.positionOf_lt hk hpos))
      (Part.Lawful.refl c _) rfl).trans (State.onTree_lawful (by simp) (by simp))

theorem State.cellDecoded_lawful (t : TreeId) (n : Nat) (cell : List Byte) (u : State)
    (h : s.cellDecoded t n cell = some u) : State.Lawful c s u := by
  simp only [State.cellDecoded] at h
  (repeat' split at h) <;> cases h
  exact State.onTree_lawful (by simp) (by simp)

theorem State.burstEnds_lawful (t : TreeId) (endCode lit : Bool) (u : State)
    (h : s.burstEnds t endCode lit = some u) : State.Lawful c s u := by
  simp only [State.burstEnds] at h
  split at h <;> cases h
  exact State.onTree_lawful (by simp) (by simp)

theorem State.delimiterFound_lawful (t : TreeId) (u : State) (h : s.delimiterFound t = some u) :
    State.Lawful c s u := by
  obtain ⟨q, -, rfl⟩ := Option.map_eq_some_iff.mp h
  exact State.onTree_lawful (by simp) (by simp)

theorem State.arrivalDispatch_lawful (t : TreeId) (u : State) (h : s.arrivalDispatch t = some u) :
    State.Lawful c s u := by
  obtain ⟨a, -, rfl⟩ := Option.map_eq_some_iff.mp h
  exact State.Lawful.withPart (Part.Lawful.of_keeps (Part.dispatch_kept _ _ t a) (Part.dispatch_names _ _ t a))

theorem State.expectationExpiry_lawful (t : TreeId) (u : State) (h : s.expectationExpiry t = some u) :
    State.Lawful c s u := by
  obtain ⟨x, -, rfl⟩ := Option.map_eq_some_iff.mp h
  exact State.Lawful.withPart (Part.Lawful.of_keeps (Part.expire_kept _ _ t x) (Part.expire_names _ _ t x))

theorem State.windowClose_lawful (t : TreeId) (u : State) (h : s.windowClose t = some u) : State.Lawful c s u := by
  obtain ⟨win, -, rfl⟩ := Option.map_eq_some_iff.mp h
  exact State.Lawful.withPart (Part.Lawful.of_keeps (Part.closeWindow_kept _ _ t win) (Part.closeWindow_names _ _ t win))

theorem State.helloArithmetic_lawful (t : TreeId) (u : State) (h : s.helloArithmetic t = some u) :
    State.Lawful c s u := by
  simp only [State.helloArithmetic] at h
  split at h
  case h_1 => cases h
  case h_2 m rest _ =>
  cases h
  refine State.Lawful.withPart
    ((Part.Lawful.modTree c s.part t (fun T => { T with hellos := rest }) (fun _ => rfl) fun _ => rfl).trans ?_)
  exact Part.Lawful.of_keeps (Part.takeStamps_kept _ t _) (Part.takeStamps_names _ t _)

theorem State.measuredHello_lawful (t : TreeId) (u : State) (h : s.measuredHello t = some u) :
    State.Lawful c s u := by
  simp only [State.measuredHello] at h
  split at h
  case h_1 => cases h
  case h_2 m rest _ =>
  cases h
  refine State.Lawful.withPart
    ((Part.Lawful.modTree c s.part t (fun T => { T with measured := rest }) (fun _ => rfl) fun _ => rfl).trans ?_)
  exact Part.Lawful.of_kept (Part.takeHello_kept _ _ t _) (Part.takeHello_tableOk _ t _)

theorem State.directoryDone_lawful (t : TreeId) (result : Option (List Byte)) (u : State)
    (h : s.directoryDone t result = some u) : State.Lawful c s u := by
  obtain ⟨x, -, rfl⟩ := Option.map_eq_some_iff.mp h
  exact State.Lawful.withPart (Part.fetchEnds_lawful s.part s.clock t x result fun p bs =>
    Part.Lawful.of_keeps (Part.directoryRead_kept p _ t bs) (Part.directoryRead_names p _ t bs))

theorem State.dataDone_lawful (t : TreeId) (result : Option (List Byte)) (u : State)
    (h : s.dataDone t result = some u) : State.Lawful c s u := by
  obtain ⟨x, -, rfl⟩ := Option.map_eq_some_iff.mp h
  exact State.Lawful.withPart (Part.fetchEnds_lawful s.part s.clock t x result fun p bs =>
    Part.Lawful.of_keeps (Part.dataRead_kept p _ t bs) (Part.dataRead_names p _ t bs))

theorem State.pageDone_lawful (ack : Bool) (u : State) (h : s.pageDone ack = some u) : State.Lawful c s u := by
  simp only [State.pageDone] at h
  split at h <;> cases h
  exact State.Lawful.withPart (Part.pageWritten_lawful c _ _ _ ack)

/-- An event that is taken from the state with no cycle start open. -/
theorem State.ready_getD_lawful {o : Option State} (hf : ∀ u, o = some u → State.Lawful c s.ready u) :
    State.Lawful c s (o.getD s) :=
  State.Lawful.getD fun u hu => (State.ready_lawful c s).trans (hf u hu)

theorem Part.loaderDone_lawful (p : Part) : Part.Lawful c p p.loaderDone := Part.Lawful.of_trees rfl rfl rfl id

theorem State.loadReadDone_lawful (hs : mayWriteSettings c = true) (he : mayWriteEnabled c = true)
    (hr : mayWriteReportTable c = true) (result : Option (List Byte)) : State.Lawful c s (s.loadReadDone result) := by
  simp only [State.loadReadDone]
  split
  · refine (State.ready_lawful c s).trans (State.Lawful.withPart ?_)
    exact (Part.loaderDone_lawful _).trans (Part.loaderRead_lawful _ hs he hr _ result)
  · exact State.Lawful.refl c s

theorem State.resetReplySent_lawful (hc : mayRestart c = true) (straps : Straps) :
    State.Lawful c s (s.resetReplySent straps) := by
  simp only [State.resetReplySent]
  split
  · exact (State.ready_lawful c s).trans (State.restart_lawful _ hc .soft straps keptSlots_ok)
  · exact State.Lawful.refl c s

theorem State.tick_lawful : State.Lawful c s s.tick := by
  simp only [State.tick]
  split
  · exact State.ready_lawful c s
  rename_i hclosed
  split
  · refine State.Lawful.quiet _ (fun h => h.withPos (by simpa using hclosed) ?_) (Part.Lawful.refl c _) rfl
    assumption
  · exact State.cycleStart_lawful c s _

end

/-! ### Every command -/

theorem modRecord_lawful {c : Instr} (p : Part) (t : TreeId) (h : Nat) {f : Record → Record}
    (hf : ∀ r, (f r).tree = r.tree ∧ (f r).handle = r.handle ∧ (f r).tag = r.tag) :
    Part.Lawful c p (p.modRecord t h f) :=
  Part.Lawful.of_keeps (Part.modRecord_kept p t h f)
    (Part.modRecord_names p t h f (fun r => (hf r).1) (fun r => (hf r).2.1) fun r => (hf r).2.2)

/-- What every command does, said once: the command that `exec` runs has one of the shapes above. -/
theorem exec_lawful (c : Instr) (s : State) : ∃ t, exec c s = .next t ∧ State.Lawful c s t := by
  cases c with
  | powerOnReset a b d => exact ⟨_, rfl, State.restart_lawful s rfl .powerOn _ fun _ => emptySlots_ok⟩
  | softReset a b d => exact ⟨_, rfl, State.resetReplySent_lawful s rfl _⟩
  | storeLoadReadDone result => exact ⟨_, rfl, State.loadReadDone_lawful s rfl rfl rfl result⟩
  | cycleStart lit => exact ⟨_, rfl, State.cycleStart_lawful _ s lit⟩
  | windowBegin t =>
    exact ⟨_, rfl, State.takePiece_lawful fun k p => Part.Lawful.modTree _ p t _ (by simp) (by simp)⟩
  | call t =>
    exact ⟨_, rfl, State.takePiece_lawful fun k p =>
      Part.Lawful.of_keeps (Part.callStart_kept p k t) (Part.callStart_names p k t)⟩
  | upkeepDue t h => exact ⟨_, rfl, State.takePiece_lawful fun k p => modRecord_lawful p t h (by simp)⟩
  | darkArises t =>
    exact ⟨_, rfl, State.takePiece_lawful fun k p =>
      Part.Lawful.of_keeps (Part.darkTest_kept p k t) (Part.darkTest_names p k t)⟩
  | spanBoundary t =>
    exact ⟨_, rfl, State.takePiece_lawful fun k p =>
      Part.Lawful.of_keeps (Part.spanEnds_kept p k t) (Part.spanEnds_names p k t)⟩
  | settleEnd t =>
    exact ⟨_, rfl, State.takePiece_lawful fun k p =>
      Part.Lawful.of_keeps (Part.enterStreaming_kept p k t) (Part.enterStreaming_names p k t)⟩
  | tenthBoundary =>
    refine ⟨_, rfl, ?_⟩
    split
    case isTrue hdue =>
      exact ((State.atStart_lawful _ s).trans (State.takeBoundary_lawful _ _ hdue)).trans
        (State.Lawful.withPart (Part.Lawful.refl _ _))
    case isFalse => exact State.Lawful.refl _ s
  | reportStale t h x =>
    exact ⟨_, rfl, State.takeAtTenth_lawful fun k p =>
      Part.Lawful.of_keeps (Part.staleTest_kept p t h x) (Part.staleTest_names p t h x)⟩
  | pollDue t h x => exact ⟨_, rfl, State.takeAtTenth_lawful fun k p => modRecord_lawful p t h (by simp)⟩
  | refindDeadline t h => exact ⟨_, rfl, State.takeAtTenth_lawful fun k p => Part.deadlineTest_lawful _ p k t h⟩
  | resumeTimerExpiry t =>
    exact ⟨_, rfl, State.takeAtTenth_lawful fun k p =>
      Part.Lawful.of_keeps (Part.leaveHush_kept p k t) (Part.leaveHush_names p k t)⟩
  | prepareTimeout t => exact ⟨_, rfl, State.takeAtTenth_lawful fun k p => Part.failAttempt_lawful _ p k t _ _ _⟩
  | beginTimeout t => exact ⟨_, rfl, State.takeAtTenth_lawful fun k p => Part.failAttempt_lawful _ p k t _ _ _⟩
  | stallTimeout t => exact ⟨_, rfl, State.takeAtTenth_lawful fun k p => Part.failAttempt_lawful _ p k t _ _ _⟩
  | commitTimeout t => exact ⟨_, rfl, State.takeAtTenth_lawful fun k p => Part.failAttempt_lawful _ p k t _ _ _⟩
  | lightOnset t pos dark =>
    exact ⟨_, rfl, State.eventAt_lawful fun u v hv => Option.some.inj hv ▸ State.lightOnset_lawful u t dark⟩
  | seekPeriodEnd t lit =>
    exact ⟨_, rfl, State.ready_getD_lawful s fun u hu => State.seekEnds_lawful _ (State.ready_stage s) t lit u hu⟩
  | delimiterFound t pos => exact ⟨_, rfl, State.eventAt_lawful fun u v hv => State.delimiterFound_lawful u t v hv⟩
  | cellDecoded t n pos cell =>
    exact ⟨_, rfl, State.eventAt_lawful fun u v hv => State.cellDecoded_lawful u t n cell v hv⟩
  | arrivalDispatch t =>
    exact ⟨_, rfl, State.ready_getD_lawful s fun u hu => State.arrivalDispatch_lawful _ t u hu⟩
  | expectationExpiry t pos =>
    exact ⟨_, rfl, State.eventAt_lawful fun u v hv => State.expectationExpiry_lawful u t v hv⟩
  | helloArithmetic t =>
    exact ⟨_, rfl, State.ready_getD_lawful s fun u hu => State.helloArithmetic_lawful _ t u hu⟩
  | measuredHelloTaken t =>
    exact ⟨_, rfl, State.ready_getD_lawful s fun u hu => State.measuredHello_lawful _ t u hu⟩
  | windowClose t pos => exact ⟨_, rfl, State.eventAt_lawful fun u v hv => State.windowClose_lawful u t v hv⟩
  | fetchDirectoryDone t result =>
    exact ⟨_, rfl, State.ready_getD_lawful s fun u hu => State.directoryDone_lawful _ t result u hu⟩
  | fetchDataDone t result =>
    exact ⟨_, rfl, State.ready_getD_lawful s fun u hu => State.dataDone_lawful _ t result u hu⟩
  | savePageDone ack => exact ⟨_, rfl, State.ready_getD_lawful s fun u hu => State.pageDone_lawful _ ack u hu⟩
  | frameSent => exact ⟨_, rfl, State.frameSent_lawful s⟩
  | badFrame bytes => exact ⟨_, rfl, State.bytesIn_lawful rfl s bytes⟩
  | unknownRequest kind body =>
    refine ⟨_, rfl, ?_⟩
    split
    · exact State.Lawful.refl _ s
    · exact State.serveUnknown_lawful s kind
  | identify body => exact ⟨_, rfl, State.request_lawful fun _ p => okay_self_lawful p _⟩
  | reset body => exact ⟨_, rfl, State.serveReset_lawful s body⟩
  | storeSave body => exact ⟨_, rfl, State.request_lawful fun k p => storeSaveAnswer_lawful body k p⟩
  | treeEnable body => exact ⟨_, rfl, State.request_lawful fun k p => treeEnableAnswer_lawful body k p rfl⟩
  | treeDisable body => exact ⟨_, rfl, State.request_lawful fun k p => treeDisableAnswer_lawful body k p rfl⟩
  | treeSet body => exact ⟨_, rfl, State.request_lawful fun k p => treeSetAnswer_lawful body k p rfl⟩
  | treeGet body => exact ⟨_, rfl, State.request_lawful fun k p => treeGetAnswer_lawful body k p⟩
  | admitTags body => exact ⟨_, rfl, State.request_lawful fun k p => admitAnswer_lawful body k p⟩
  | unadmit body => exact ⟨_, rfl, State.request_lawful fun k p => unadmitAnswer_lawful body k p⟩
  | admitRead body => exact ⟨_, rfl, State.request_lawful fun k p => admitReadAnswer_lawful body k p⟩
  | admitClear body => exact ⟨_, rfl, State.request_lawful fun k p => admitClearAnswer_lawful k p⟩
  | unclaimedRead body => exact ⟨_, rfl, State.request_lawful fun _ p => okay_self_lawful p _⟩
  | unclaimedClear body => exact ⟨_, rfl, State.request_lawful fun k p => unclaimedClearAnswer_lawful body k p⟩
  | terminalRead body => exact ⟨_, rfl, State.request_lawful fun k p => terminalReadAnswer_lawful body k p⟩
  | terminalFind body => exact ⟨_, rfl, State.request_lawful fun k p => terminalFindAnswer_lawful body k p⟩
  | terminalList body => exact ⟨_, rfl, State.request_lawful fun k p => terminalListAnswer_lawful body k p⟩
  | retire body => exact ⟨_, rfl, State.request_lawful fun k p => retireAnswer_lawful body k p⟩
  | release body => exact ⟨_, rfl, State.request_lawful fun k p => releaseAnswer_lawful body k p⟩
  | realign body => exact ⟨_, rfl, State.request_lawful fun k p => realignAnswer_lawful body k p⟩
  | reload body => exact ⟨_, rfl, State.request_lawful fun k p => reloadAnswer_lawful body k p⟩
  | standdown body => exact ⟨_, rfl, State.request_lawful fun k p => standdownAnswer_lawful body k p⟩
  | lift body => exact ⟨_, rfl, State.request_lawful fun k p => liftAnswer_lawful body k p⟩
  | profileOpen body => exact ⟨_, rfl, State.request_lawful fun k p => profileOpenAnswer_lawful body k p rfl⟩
  | profileWrite body => exact ⟨_, rfl, State.request_lawful fun k p => profileWriteAnswer_lawful body k p rfl⟩
  | profileClose body => exact ⟨_, rfl, State.request_lawful fun k p => profileCloseAnswer_lawful body k p rfl⟩
  | profileErase body => exact ⟨_, rfl, State.request_lawful fun k p => profileEraseAnswer_lawful body k p rfl⟩
  | profileInfo body => exact ⟨_, rfl, State.request_lawful fun k p => profileInfoAnswer_lawful body k p⟩
  | pushBegin body => exact ⟨_, rfl, State.request_lawful fun k p => pushBeginAnswer_lawful body k p⟩
  | pushData body => exact ⟨_, rfl, State.request_lawful fun k p => pushDataAnswer_lawful body k p⟩
  | reportTableSet body => exact ⟨_, rfl, State.request_lawful fun k p => reportTableSetAnswer_lawful body k p rfl⟩
  | reportTableGet body => exact ⟨_, rfl, State.request_lawful fun _ p => okay_self_lawful p _⟩
  | reportRead body => exact ⟨_, rfl, State.request_lawful fun k p => reportReadAnswer_lawful body k p⟩
  | burstEnd t pos endCode lit =>
    exact ⟨_, rfl, State.eventAt_lawful fun u v hv => State.burstEnds_lawful u t endCode lit v hv⟩

theorem exec_next_lawful {c : Instr} {s t : State} (h : exec c s = .next t) : State.Lawful c s t := by
  obtain ⟨u, hu, hlawful⟩ := exec_lawful c s
  have htu : t = u := by simpa [hu, eq_comm] using h
  exact htu ▸ hlawful

/-- A step is lawful for the command at the front of the queue; the tick of an empty queue is so for any command. -/
theorem step_lawful {s t : State} (h : step s = .next t) :
    ∃ c rest, State.Lawful c { s with pending := rest } t := by
  simp only [step] at h
  split at h
  · cases h
    exact ⟨.frameSent, s.pending, State.tick_lawful s⟩
  · exact ⟨_, _, exec_next_lawful h⟩

/-! ### The statements -/

/-- Settles O2: every command has a lawful next state. -/
theorem commandsKeepQueue : Obligations.CommandsKeepQueue := by
  unfold Obligations.CommandsKeepQueue
  intro c s
  obtain ⟨t, ht, hlawful⟩ := exec_lawful c s
  exact ⟨t, ht, hlawful.pending⟩

/-- Settles O5: a step is lawful, and so keeps the timebase. -/
theorem stepKeepsClockOk : Obligations.StepKeepsClockOk := by
  unfold Obligations.StepKeepsClockOk
  intro s t hs ht
  obtain ⟨c, rest, hlawful⟩ := step_lawful ht
  exact hlawful.clock hs

/-- Settles O6: a step is lawful, and so keeps the link. -/
theorem stepKeepsLinkOk : Obligations.StepKeepsLinkOk := by
  unfold Obligations.StepKeepsLinkOk
  intro s t hs ht
  obtain ⟨c, rest, hlawful⟩ := step_lawful ht
  exact hlawful.link hs

/-- Settles O7: a step is lawful, and so keeps what is stored in its ranges. -/
theorem stepKeepsStoredOk : Obligations.StepKeepsStoredOk := by
  unfold Obligations.StepKeepsStoredOk
  intro s t hs ht
  obtain ⟨c, rest, hlawful⟩ := step_lawful ht
  exact hlawful.part.stored hs

/-- Settles O8: a step is lawful, and so keeps the law of the table. -/
theorem stepKeepsTableOk : Obligations.StepKeepsTableOk := by
  unfold Obligations.StepKeepsTableOk
  intro s t hs ht
  obtain ⟨c, rest, hlawful⟩ := step_lawful ht
  exact hlawful.part.table hs

/-- Settles O9: a lawful command writes what is stored only where it is one of the commands named. -/
theorem onlyHostWritesStored : Obligations.OnlyHostWritesStored := by
  unfold Obligations.OnlyHostWritesStored
  intro c s t ht
  have hpart := (exec_next_lawful ht).part
  exact ⟨hpart.settings, hpart.enabled, hpart.slots, hpart.reportTable⟩

end Sys2Proof.Machine
end

section
/-!
PROOFS. The step, the tick and the reset (the statements O1, O3, O4), and what is needed of tree time.
-/

namespace Sys2Proof.Machine

/-! ### Tree time -/

theorem startOf_toNat (c : CycleNo) : (startOf c).toNat = c.toNat * 131072 := by
  have hc : c.toNat < 65536 := c.isLt
  have h : (131072#33).toNat = 131072 := rfl
  rw [startOf, BitVec.toNat_mul, BitVec.toNat_setWidth_of_le (by omega), h]
  exact Nat.mod_eq_of_lt (by omega)

theorem treeTime_toNat {k : Clock} (h : k.pos < 131072) : k.treeTime.toNat = k.cycle.toNat * 131072 + k.pos := by
  have hc : k.cycle.toNat < 65536 := k.cycle.isLt
  rw [Clock.treeTime, BitVec.toNat_add, startOf_toNat, BitVec.toNat_ofNat]
  omega

theorem quarter_toNat {k : Clock} (h : k.pos < 131072) : k.quarter.toNat = k.cycle.toNat * 4 + k.pos / 32768 := by
  have hc : k.cycle.toNat < 65536 := k.cycle.isLt
  rw [Clock.quarter, BitVec.toNat_ofNat, Config.quarterSteps]
  omega

theorem treeTime_pos_succ (k : Clock) :
    ({ k with pos := k.pos + 1 } : Clock).treeTime = k.treeTime + 1 := by
  simp only [Clock.treeTime, BitVec.ofNat_add]
  exact (BitVec.add_assoc _ _ _).symm

/-- The start of a cycle is one step behind the last step of the cycle before it. -/
theorem startOf_succ (c : CycleNo) : startOf (c + 1) = startOf c + BitVec.ofNat 33 131071 + 1 := by
  have hc : c.toNat < 65536 := c.isLt
  have h1 : (1 : CycleNo).toNat = 1 := rfl
  have h2 : (1 : TreeTime).toNat = 1 := rfl
  apply BitVec.eq_of_toNat_eq
  rw [BitVec.toNat_add, BitVec.toNat_add, startOf_toNat, startOf_toNat, BitVec.toNat_add, BitVec.toNat_ofNat, h1, h2]
  omega

/-! ### The timebase over a cycle start -/

theorem State.takeBoundary_clock (s : State) : s.takeBoundary.clock = s.clock.takeBoundary := rfl

theorem Clock.openStart_of_lt {k : Clock} (h : k.cycleInTenth + 1 < 763) :
    k.openStart = { k with cycle := k.cycle + 1, pos := 0, cycleInTenth := k.cycleInTenth + 1, stage := .opened } := by
  simp [Clock.openStart, Config.tenthCycles, h]

theorem Clock.openStart_of_last {k : Clock} (h : k.cycleInTenth = 762) :
    k.openStart = { k with cycle := k.cycle + 1, pos := 0, stage := .boundaryDue } := by
  simp [Clock.openStart, Config.tenthCycles, h]

/-- The timebase while a cycle start opened from `k` is worked at: its tenth boundary, if it is one, is taken (R1, R2). -/
theorem State.startOpen_clock {s : State} (hk : s.clock.Ok) (hc : s.clock.stage = .closed) :
    s.startOpen.clock =
      ⟨s.clock.cycle + 1, 0, if s.clock.cycleInTenth = 762 then 0 else s.clock.cycleInTenth + 1,
        if s.clock.cycleInTenth = 762 then s.clock.tenth + 1 else s.clock.tenth,
        if s.clock.cycleInTenth = 762 then .boundaryTaken else .opened⟩ := by
  have hlt : s.clock.cycleInTenth < 763 := hk.2.1
  have hopen : s.atStart.clock = s.clock.openStart := by simp [State.atStart, hc, State.openStart]
  by_cases hlast : s.clock.cycleInTenth = 762
  · simp [State.startOpen, State.boundaryStep, hopen, Clock.openStart_of_last hlast, State.takeBoundary_clock,
      Clock.takeBoundary, hlast]
  · simp [State.startOpen, State.boundaryStep, hopen, Clock.openStart_of_lt (k := s.clock) (by omega), hlast]

theorem State.finishStart_clock (s : State) : s.finishStart.clock = { s.boundaryStep.clock with stage := .closed } := rfl

/-- A change of the part alone leaves the timebase's way through a tenth boundary. -/
theorem State.boundaryStep_clock_withPart (s : State) (p : Part) :
    ({ s with part := p } : State).boundaryStep.clock = s.boundaryStep.clock := by
  simp only [State.boundaryStep]
  split <;> rfl

theorem State.cycleStart_clock (s : State) (lit : TreeMask) :
    (s.cycleStart lit).clock = { s.startOpen.clock with stage := .closed } := by
  simp only [State.cycleStart, State.finishStart_clock, State.boundaryStep_clock_withPart, State.startOpen]

/-! ### The tick -/

theorem State.tick_within {s : State} (hc : s.clock.stage = .closed) (h : s.clock.pos < 131071) :
    s.tick = s.atPos (s.clock.pos + 1) := by
  have hlt : s.clock.pos + 1 < Config.cycleSteps := by simp only [Config.cycleSteps]; omega
  simp [State.tick, hc, hlt, State.atPos]

theorem State.tick_at_end {s : State} (hc : s.clock.stage = .closed) (h : s.clock.pos = 131071) :
    s.tick = (s.cycleStart s.part.litMask).settle := by
  simp [State.tick, hc, h, Config.cycleSteps]

/-- Settles O1: the step looks at the front of the queue. -/
theorem stepRunsFront : Obligations.StepRunsFront := by
  unfold Obligations.StepRunsFront
  intro s c rest h
  simp [step, h]

/-- Settles O3: within a cycle the tick moves the position alone; at its end it is a cycle start. -/
theorem tickAdvancesTime : Obligations.TickAdvancesTime := by
  unfold Obligations.TickAdvancesTime
  intro s hq hk hc
  have hpos : s.clock.pos < 131072 := hk.1
  have hpending : s.tick.pending = [] := (State.tick_lawful (c := .frameSent) s).pending.trans hq
  refine ⟨s.tick, by simp [step, hq], hpending, ?_⟩
  by_cases hend : s.clock.pos = 131071
  case neg =>
    have htick := State.tick_within hc (Nat.lt_of_le_of_ne (Nat.le_of_lt_succ hpos) hend)
    refine ⟨?_, ?_, fun _ => htick, fun h => absurd h hend⟩
    · rw [htick]
      exact treeTime_pos_succ s.clock
    · rw [htick]
      exact hc
  case pos =>
    have hclock : s.tick.clock = { s.startOpen.clock with stage := .closed } := by
      rw [State.tick_at_end hc hend, State.settle_clock, State.cycleStart_clock]
    rw [State.startOpen_clock hk hc] at hclock
    refine ⟨?_, by rw [hclock], fun h => absurd hend (Nat.ne_of_lt h), fun _ => by rw [hclock]; exact ⟨rfl, rfl, rfl, rfl⟩⟩
    rw [hclock]
    simp only [Clock.treeTime, hend]
    rw [startOf_succ]
    exact BitVec.add_zero _

/-- Settles O4: nothing is admitted, no record is made, and what is stored has its default. -/
theorem resetMeetsInvariants : Obligations.ResetMeetsInvariants := by
  unfold Obligations.ResetMeetsInvariants
  refine ⟨by decide, by decide, ?_, Part.tableOk_of_empty rfl rfl⟩
  exact Part.afterReset_storedOk emptySlots_ok _ 0

end Sys2Proof.Machine
end

section
/-!
PROOFS. Arrival arithmetic and the hello span (the statements O10, O11, O12).
-/

namespace Sys2Proof.Machine

/-- Instants counted from one start: their difference is that of the counts, while it lies in the range of R1. -/
theorem timeDiff_add_ofInt (x : TreeTime) {a b : Int} (h1 : -4294967296 ≤ a - b) (h2 : a - b < 4294967296) :
    timeDiff (x + BitVec.ofInt 33 a) (x + BitVec.ofInt 33 b) = a - b := by
  have hsub : x + BitVec.ofInt 33 a - (x + BitVec.ofInt 33 b) = BitVec.ofInt 33 (a - b) := by
    apply BitVec.eq_of_toInt_eq
    simp only [BitVec.toInt_sub, BitVec.toInt_add, BitVec.toInt_ofInt, Int.bmod_def]
    omega
  rw [timeDiff, hsub, BitVec.toInt_ofInt, Int.bmod_def]
  omega

theorem timeDiff_add_start (x : TreeTime) {a : Int} (h1 : -4294967296 ≤ a) (h2 : a < 4294967296) :
    timeDiff (x + BitVec.ofInt 33 a) x = a := by
  simpa using timeDiff_add_ofInt x (a := a) (b := 0) (by omega) (by omega)

theorem reconcile_toNat (fine : Nat) (coarse : QuarterNo) :
    (reconcile fine coarse).toNat =
      (coarse.toNat + (262144 - (coarse.toNat + (4 - fine / 32768 % 4)) % 4)) % 262144 * 32768 + fine % 32768 := by
  have hc : coarse.toNat < 262144 := coarse.isLt
  simp only [reconcile, Config.quarterSteps]
  rw [BitVec.toNat_add, BitVec.toNat_mul, BitVec.toNat_setWidth, BitVec.toNat_sub, BitVec.toNat_setWidth,
    BitVec.toNat_sub, BitVec.toNat_setWidth, BitVec.toNat_ofNat, BitVec.toNat_ofNat, BitVec.toNat_ofNat]
  omega

/-- Settles O10: the two bits that the fine stamp shares with the quarter count tell how many quarters the decode took. -/
theorem reconcileExact : Obligations.ReconcileExact := by
  unfold Obligations.ReconcileExact
  intro d e hd he hdecode
  have hdc : d.cycle.toNat < 65536 := d.cycle.isLt
  have hec : e.cycle.toNat < 65536 := e.cycle.isLt
  rw [elapsed, BitVec.toNat_sub, treeTime_toNat hd, treeTime_toNat he] at hdecode
  apply BitVec.eq_of_toNat_eq
  rw [treeTime_toNat hd, reconcile_toNat, quarter_toNat he]
  omega

/-- Settles O12: both ends of the span and the arrival are counted from the start of the CALL cycle. -/
theorem spanGeometry : Obligations.SpanGeometry := by
  unfold Obligations.SpanGeometry
  intro s w S c h d hs hS h1 h2
  obtain ⟨⟨hdepth1, hdepth2, -⟩, ⟨hoff1, hoff2⟩, -⟩ := hs
  have hstart : timeDiff (startOf w + BitVec.ofInt 33 d) (spanStartOf s w) = d - (24000 + s.treeOffset - 64) :=
    timeDiff_add_ofInt _ (by omega) (by omega)
  have hstop : timeDiff (spanStopOf s w S) (startOf w + BitVec.ofInt 33 d)
      = 24000 + (s.reachDepth : Int) + s.treeOffset + ((S : Int) - 1) * 1600 + 1200 + 64 - d :=
    timeDiff_add_ofInt _ (by omega) (by omega)
  simp only [Window.contains, hstart, hstop, Bool.and_eq_true, decide_eq_true_eq]
  omega

/-! ### The class and the lag of a round trip -/

theorem classOf_negative_iff (depth : Nat) (r : Int) : classOf depth r = .negative ↔ r < -64 := by
  simp only [classOf]
  (repeat' split) <;> simp <;> omega

theorem classOf_near_iff (depth : Nat) (r : Int) : classOf depth r = .near ↔ -64 ≤ r ∧ r ≤ -1 := by
  simp only [classOf]
  (repeat' split) <;> simp <;> omega

theorem classOf_inReach_iff (depth : Nat) (r : Int) : classOf depth r = .inReach ↔ 0 ≤ r ∧ r ≤ depth := by
  simp only [classOf]
  (repeat' split) <;> simp <;> omega

theorem classOf_far_iff (depth : Nat) (r : Int) : classOf depth r = .far ↔ (depth : Int) < r := by
  simp only [classOf]
  (repeat' split) <;> simp <;> omega

/-- A lag is a multiple of 4 in 0..D, the depth D being one (R56 to R59). -/
theorem lagOfClass_bounds {depth : Nat} (h4 : depth % 4 = 0) (r : Int) :
    lagOfClass depth (classOf depth r) r % 4 = 0 ∧ lagOfClass depth (classOf depth r) r ≤ depth := by
  cases hcls : classOf depth r
  case inReach =>
    obtain ⟨h0, hle⟩ := (classOf_inReach_iff depth r).mp hcls
    simp only [lagOfClass, lagOf]
    omega
  case near =>
    simp only [lagOfClass, lagOf]
    omega
  case far => simp [lagOfClass]
  case negative => simp [lagOfClass]

theorem lagOf_zero {depth : Nat} (h4 : depth % 4 = 0) : lagOf depth 0 = depth := by
  simp only [lagOf]
  omega

/-- How the lag of a round trip in reach rounds (R58). -/
theorem lagOf_sub {depth : Nat} {r : Int} (hle : r ≤ depth) :
    (lagOf depth r : Int) - ((depth : Int) - r) =
      if ((depth : Int) - r) % 4 = 0 then 0 else if ((depth : Int) - r) % 4 = 1 then -1
      else if ((depth : Int) - r) % 4 = 2 then 2 else 1 := by
  simp only [lagOf]
  (repeat' split) <;> omega

theorem Hello.measure_rtt (m : Hello) (s : Settings) : (m.measure s).rtt = m.rtt s.treeOffset := rfl

theorem Hello.measure_cls (m : Hello) (s : Settings) :
    (m.measure s).cls = classOf s.reachDepth (m.rtt s.treeOffset) := rfl

theorem Hello.measure_lag (m : Hello) (s : Settings) :
    (m.measure s).lag = lagOfClass s.reachDepth (m.measure s).cls (m.rtt s.treeOffset) := rfl

/-- The lag of a measured hello, class by class (R56 to R59). -/
theorem Hello.measure_lag_far {m : Hello} {s : Settings} (h : (m.measure s).cls = .far) : (m.measure s).lag = 0 := by
  rw [Hello.measure_lag, h]
  rfl

theorem Hello.measure_lag_near {m : Hello} {s : Settings} (h4 : s.reachDepth % 4 = 0) (h : (m.measure s).cls = .near) :
    (m.measure s).lag = s.reachDepth := by
  rw [Hello.measure_lag, h]
  exact lagOf_zero h4

theorem Hello.measure_lag_inReach {m : Hello} {s : Settings} (h : (m.measure s).cls = .inReach) :
    (m.measure s).lag = lagOf s.reachDepth (m.rtt s.treeOffset) := by
  rw [Hello.measure_lag, h]
  rfl

theorem Hello.measure_lag_bounds {s : Settings} (h4 : s.reachDepth % 4 = 0) (m : Hello) :
    (m.measure s).lag % 4 = 0 ∧ (m.measure s).lag ≤ s.reachDepth := by
  rw [Hello.measure_lag, Hello.measure_cls]
  exact lagOfClass_bounds h4 _

/-- Settles O11: the landing of a hello inverted, and the classes one by one. -/
theorem helloArithmetic : Obligations.HelloArithmetic := by
  unfold Obligations.HelloArithmetic
  refine ⟨fun m offset r h1 h2 harrival => ?_, fun m s hs => ?_⟩
  case refine_1 =>
    rw [Hello.rtt, harrival, timeDiff_add_start _ h1 h2]
    omega
  case refine_2 =>
    have h4 : s.reachDepth % 4 = 0 := hs.1.2.2
    obtain ⟨hmul, hbound⟩ := Hello.measure_lag_bounds h4 m
    refine ⟨Hello.measure_rtt m s, ?_, ?_, ?_, ?_, hmul, hbound, Hello.measure_lag_far, Hello.measure_lag_near h4,
      fun h => ?_⟩
    · rw [Hello.measure_cls, classOf_negative_iff]
    · rw [Hello.measure_cls, classOf_near_iff]
    · rw [Hello.measure_cls, classOf_inReach_iff]
    · rw [Hello.measure_cls, classOf_far_iff]
    · rw [Hello.measure_lag_inReach h]
      rw [Hello.measure_cls, classOf_inReach_iff] at h
      exact lagOf_sub h.2

end Sys2Proof.Machine
end

section
/-!
PROOFS. Fields of bytes, admission entries in bytes, reply cells, frames, and the settings block (the statements O14 to O17).
-/

namespace Sys2Proof.Machine

/-! ### Fields -/

theorem fieldAt_append_of_length {a : List Byte} {n : Nat} (h : a.length = n) (b : List Byte) (size : Nat) :
    fieldAt (a ++ b) n size = b.take size := by
  simp [fieldAt, ← h]

/-- A field that lies in the first of two runs of bytes. -/
theorem fieldAt_append_left {a : List Byte} {offset size : Nat} (h : offset + size ≤ a.length) (b : List Byte) :
    fieldAt (a ++ b) offset size = fieldAt a offset size := by
  rw [fieldAt, fieldAt, List.drop_append_of_le_length (by omega), List.take_append_of_le_length (by simp; omega)]

/-- A field that lies behind a first run of bytes. -/
theorem fieldAt_append_right {a : List Byte} {n : Nat} (h : a.length = n) (b : List Byte) (offset size : Nat) :
    fieldAt (a ++ b) (n + offset) size = fieldAt b offset size := by
  rw [fieldAt, fieldAt, ← h, List.drop_length_add_append]

theorem byteAt_append_left {a : List Byte} {i : Nat} (h : i < a.length) (b : List Byte) :
    byteAt (a ++ b) i = byteAt a i := by
  rw [byteAt, byteAt, List.getElem?_append_left h]

/-- A field of a field. -/
theorem fieldAt_fieldAt {bs : List Byte} {a n b m : Nat} (h : b + m ≤ n) :
    fieldAt (fieldAt bs a n) b m = fieldAt bs (a + b) m := by
  simp only [fieldAt, List.drop_take, List.take_take, List.drop_drop]
  congr 1
  omega

/-- Pieces of one length put one behind the other: the piece at its place. -/
theorem fieldAt_flatten {n : Nat} {l : List (List Byte)} (h : ∀ b ∈ l, b.length = n) {i : Nat} (hi : i < l.length) :
    fieldAt l.flatten (n * i) n = l[i] := by
  induction l generalizing i with
  | nil => simp at hi
  | cons b rest ih =>
    have hb : b.length = n := h b List.mem_cons_self
    cases i with
    | zero =>
      rw [List.flatten_cons, Nat.mul_zero, fieldAt_append_left (by omega), fieldAt_zero_of_length hb]
      rfl
    | succ j =>
      have hmul : n * (j + 1) = n + n * j := by rw [Nat.mul_succ, Nat.add_comm]
      rw [List.flatten_cons, hmul, fieldAt_append_right hb,
        ih (fun x hx => h x (List.mem_cons_of_mem b hx)) (Nat.lt_of_succ_lt_succ hi)]
      rfl

theorem length_flatten_of_length {n : Nat} {l : List (List Byte)} (h : ∀ b ∈ l, b.length = n) :
    l.flatten.length = n * l.length := by
  rw [List.length_flatten, List.map_congr_left h, List.map_const', List.sum_replicate_nat, Nat.mul_comm]

/-! ### Admission entries (12.8) -/

/-- Whole entries one behind the other are taken apart in order. -/
theorem chunks27_flatten {l : List (List Byte)} (h : ∀ b ∈ l, b.length = 27) : chunks27 l.flatten = l := by
  have hcount : l.flatten.length / 27 = l.length := by rw [length_flatten_of_length h]; omega
  apply List.ext_getElem
  · rw [chunks27, hcount, List.length_map, List.length_range]
  · intro i _ hi
    simp only [chunks27, hcount, List.getElem_map, List.getElem_range, fieldAt_flatten h hi]

theorem padTo_length {n : Nat} {bs : List Byte} (h : bs.length ≤ n) : (padTo n bs).length = n := by
  simp [padTo]
  omega

theorem AdmitEntry.stored_length {e : AdmitEntry} (h : e.label.length ≤ 16) : e.stored.length = 27 := by
  simp [AdmitEntry.stored, labelBytes, padTo_length h]

theorem toNat_byte {n : Nat} (h : n < 256) : (byte n).toNat = n := by
  rw [byte, BitVec.toNat_ofNat]
  exact Nat.mod_eq_of_lt h

/-- The fields of the 27 bytes of an entry. -/
theorem AdmitEntry.stored_fields {e : AdmitEntry} :
    fieldAt e.stored 0 8 = tagBytes e.tag ∧ byteAt e.stored 8 = byte e.profile ∧ byteAt e.stored 9 = e.mask.setWidth 8
      ∧ byteAt e.stored 10 = byte e.label.length ∧ fieldAt e.stored 11 e.label.length = e.label := by
  refine ⟨?_, ?_, ?_, ?_, ?_⟩
  · rw [AdmitEntry.stored, List.append_assoc, fieldAt_append_left (by simp), fieldAt_tagBytes]
  · simp [AdmitEntry.stored, byteAt]
  · simp [AdmitEntry.stored, byteAt, List.getElem?_append_right]
  · simp [AdmitEntry.stored, byteAt, labelBytes, List.getElem?_append_right]
  · have hfront : (tagBytes e.tag ++ [byte e.profile, e.mask.setWidth 8] ++ [byte e.label.length]).length = 11 := by simp
    have hsplit : e.stored = (tagBytes e.tag ++ [byte e.profile, e.mask.setWidth 8] ++ [byte e.label.length])
        ++ padTo 16 e.label := by simp [AdmitEntry.stored, labelBytes]
    rw [hsplit, fieldAt_append_of_length hfront, padTo, List.take_left']
    rfl

theorem mask_setWidth (m : TreeMask) : (m.setWidth 8 : Byte).setWidth 4 = m := by
  rw [BitVec.setWidth_setWidth_of_le _ (by decide), BitVec.setWidth_eq]

theorem mask_setWidth_toNat (m : TreeMask) : (m.setWidth 8 : Byte).toNat = m.toNat :=
  BitVec.toNat_setWidth_of_le (by decide)

theorem mask_setWidth_eq_zero_iff (m : TreeMask) : (m.setWidth 8 : Byte) = 0 ↔ m = 0 := by
  constructor
  · intro h
    rw [← mask_setWidth m, h]
    rfl
  · intro h
    rw [h]
    rfl

/-- Settles O17: the entry is read at the places where its bytes stand. -/
theorem entriesReload : Obligations.EntriesReload := by
  unfold Obligations.EntriesReload
  constructor
  case left =>
    intro e hprofile hlabel
    obtain ⟨htag, hp, hm, hn, hl⟩ := e.stored_fields
    have hmask := e.mask.isLt
    simp only [entryOf, htag, hp, hm, hn, toNat_byte (show e.profile < 256 by omega),
      toNat_byte (show e.label.length < 256 by omega), hl, mask_setWidth_toNat, tagOf_tagBytes, mask_setWidth]
    have hok : (decide (64 < e.profile) || decide (15 < e.mask.toNat) || decide (16 < e.label.length)) = false := by
      simp
      omega
    simp only [hok, Bool.false_eq_true, if_false, beq_iff_eq, mask_setWidth_eq_zero_iff]
  case right =>
    intro es hes
    refine chunks27_flatten fun b hb => ?_
    obtain ⟨e, he, rfl⟩ := List.mem_map.mp hb
    exact AdmitEntry.stored_length (hes e he)

/-! ### Reply cells (R12, R21, R31 to R35) -/

theorem withCrc16_length (bs : List Byte) : (withCrc16 bs).length = bs.length + 2 := by simp [withCrc16]

/-- A reply cell with a good CRC is read by its first 30 bytes. -/
theorem decodeReply_withCrc16 {body : List Byte} (h : body.length = 30) :
    decodeReply (withCrc16 body) =
      (replyBodyOf (byteAt body 0) body).map fun b => ⟨replyHandle body, (byteAt body 2).getLsbD 0, b⟩ := by
  have hcrc : (withCrc16 body).take 30 = body := by rw [withCrc16, List.take_left' h]
  have hfield : fieldAt (withCrc16 body) 30 2 = be 2 (crc16 body).toNat := by
    rw [withCrc16, fieldAt_append_of_length h, List.take_of_length_le (by simp)]
  have hbyte : ∀ i, i < 30 → byteAt (withCrc16 body) i = byteAt body i := fun i hi => by
    rw [withCrc16, byteAt_append_left (by omega)]
  have hat : ∀ a n, a + n ≤ 30 → fieldAt (withCrc16 body) a n = fieldAt body a n := fun a n hn => by
    rw [withCrc16, fieldAt_append_left (by omega)]
  have hbody : replyBodyOf (byteAt body 0) (withCrc16 body) = replyBodyOf (byteAt body 0) body := by
    simp only [replyBodyOf, numAt, hbyte 3 (by omega), hbyte 4 (by omega), hat 5 8 (by omega), hat 13 4 (by omega),
      hat 4 2 (by omega), hat 5 (min 24 (byteAt body 4).toNat) (by omega)]
  simp only [decodeReply, withCrc16_length, h, hcrc, hfield, replyHandle, hbyte 0 (by omega), hbyte 1 (by omega),
    hbyte 2 (by omega), hbody]
  simp

theorem decodeReply_of_badCrc {body crc : List Byte} (h : body.length = 30) (hcrc : crc ≠ be 2 (crc16 body).toNat) :
    decodeReply (body ++ crc) = none := by
  have hne : ¬((body ++ crc).length = 32 ∧ be 2 (crc16 ((body ++ crc).take 30)).toNat = fieldAt (body ++ crc) 30 2) := by
    rintro ⟨hlen, heq⟩
    rw [List.take_left' h, fieldAt_append_of_length h, List.take_of_length_le (by simp at hlen; omega)] at heq
    exact hcrc heq.symm
  simpa [decodeReply] using fun h1 h2 => absurd ⟨by simpa using h1, h2⟩ hne

theorem loadStatusOf_byte (status : Byte) (value : Nat) :
    loadStatusOf status.toNat value =
      if status = 0 then .notReady else if status = 1 then .ready else if status = 2 then .receiving value
      else if status = 3 then .done else if status = 4 then .fail (value % 256) else .fail 0 := by
  have hnat : ∀ n : Nat, n < 256 → (status = BitVec.ofNat 8 n ↔ status.toNat = n) := fun n hn => by
    rw [BitVec.toNat_eq, BitVec.toNat_ofNat, Nat.mod_eq_of_lt hn]
  have h0 := hnat 0 (by omega)
  have h1 := hnat 1 (by omega)
  have h2 := hnat 2 (by omega)
  have h3 := hnat 3 (by omega)
  have h4 := hnat 4 (by omega)
  simp only [BitVec.ofNat_eq_ofNat, h0, h1, h2, h3, h4]
  rcases hs : status.toNat with _ | _ | _ | _ | _ | n <;> simp [loadStatusOf]

/-- Settles O14: kind by kind, the fields at their places. -/
theorem replyCellsDecode : Obligations.ReplyCellsDecode := by
  unfold Obligations.ReplyCellsDecode
  refine ⟨fun h f number slice tag maker pad hpad => ?_, fun h f pad hpad => ?_,
    fun h f status value pad hvalue hpad => ?_, fun h f kind len data pad hdata hpad => ?_,
    fun body crc hbody hcrc => decodeReply_of_badCrc hbody hcrc, fun body hbody h1 h2 h3 h4 => ?_⟩
  · have htag : fieldAt ([0x41#8, h, f, number, slice] ++ tagBytes tag ++ be 4 maker.toNat ++ pad) 5 8 = tagBytes tag := by
      simp [fieldAt]
    have hmaker : fieldAt ([0x41#8, h, f, number, slice] ++ tagBytes tag ++ be 4 maker.toNat ++ pad) 13 4
        = be 4 maker.toNat := by
      rw [List.append_assoc, fieldAt_append_of_length (by simp), List.take_left' (by simp)]
    rw [decodeReply_withCrc16 (by simp [hpad])]
    simp only [replyBodyOf, replyHandle, numAt, htag, hmaker, tagOf_tagBytes, fromBe_be]
    rw [Nat.mod_eq_of_lt (show maker.toNat < 256 ^ 4 from maker.isLt), BitVec.ofNat_toNat, BitVec.setWidth_eq]
    simp [byteAt]
  · rw [decodeReply_withCrc16 (by simp [hpad])]
    simp [replyBodyOf, replyHandle, byteAt]
  · have hnum : numAt ([0x43#8, h, f, status] ++ be 2 value ++ pad) 4 2 = value := by
      rw [numAt, List.append_assoc, fieldAt_append_of_length (by rfl), List.take_left' (by simp), fromBe_be]
      exact Nat.mod_eq_of_lt hvalue
    rw [decodeReply_withCrc16 (by simp [hpad]), ← loadStatusOf_byte]
    simp only [replyBodyOf, replyHandle, hnum]
    simp [byteAt]
  · have hreport : fieldAt ([0x44#8, h, f, kind, len] ++ data ++ pad) 5 (min 24 len.toNat) = data := by
      rw [List.append_assoc, fieldAt_append_of_length (by rfl), List.take_left' hdata]
    have hcell : byteAt ([0x44#8, h, f, kind, len] ++ data ++ pad) 4 = len := by simp [byteAt]
    rw [decodeReply_withCrc16 (by simp [hpad]; omega)]
    simp only [replyBodyOf, replyHandle, hcell, hreport]
    simp [byteAt]
  · rw [decodeReply_withCrc16 hbody]
    simp [replyBodyOf, h1, h2, h3, h4]

/-! ### Frames (R181) -/

theorem judgeFrame_frame {body : List Byte} (h : body.length ≤ 513) (kind : Byte) (rest : List Byte) :
    judgeFrame (withCrc16 (be 2 (body.length + 1) ++ kind :: body) ++ rest) = .good kind body rest := by
  have hlen : (be 2 (body.length + 1) ++ kind :: body).length = body.length + 1 + 2 := by simp; omega
  have hn : numAt (withCrc16 (be 2 (body.length + 1) ++ kind :: body) ++ rest) 0 2 = body.length + 1 := by
    rw [numAt, withCrc16, List.append_assoc, List.append_assoc, fieldAt_append_left (by simp),
      fieldAt_zero_of_length (be_length 2 _), fromBe_be]
    omega
  have hcrc : (withCrc16 (be 2 (body.length + 1) ++ kind :: body) ++ rest).take (body.length + 1 + 2)
      = be 2 (body.length + 1) ++ kind :: body := by
    rw [withCrc16, List.append_assoc, List.take_left' hlen]
  have hfield : fieldAt (withCrc16 (be 2 (body.length + 1) ++ kind :: body) ++ rest) (body.length + 1 + 2) 2
      = be 2 (crc16 (be 2 (body.length + 1) ++ kind :: body)).toNat := by
    rw [withCrc16, List.append_assoc, fieldAt_append_of_length hlen, List.take_left' (be_length 2 _)]
  have hkind : byteAt (withCrc16 (be 2 (body.length + 1) ++ kind :: body) ++ rest) 2 = kind := by
    simp [withCrc16, byteAt]
  have hbody : fieldAt (withCrc16 (be 2 (body.length + 1) ++ kind :: body) ++ rest) 3 (body.length + 1 - 1) = body := by
    have hsplit : withCrc16 (be 2 (body.length + 1) ++ kind :: body) ++ rest =
        (be 2 (body.length + 1) ++ [kind]) ++ (body ++ (be 2 (crc16 (be 2 (body.length + 1) ++ kind :: body)).toNat
          ++ rest)) := by
      simp [withCrc16]
    rw [hsplit, fieldAt_append_of_length (by simp), List.take_left' (by omega)]
  have hrest : (withCrc16 (be 2 (body.length + 1) ++ kind :: body) ++ rest).drop (body.length + 1 + 4) = rest :=
    List.drop_left' (by simp [withCrc16]; omega)
  have htotal : (withCrc16 (be 2 (body.length + 1) ++ kind :: body) ++ rest).length = body.length + 5 + rest.length := by
    simp [withCrc16]
    omega
  have hmore : ¬body.length + 5 + rest.length < body.length + 1 + 4 := by omega
  have hfew : ¬body.length + 5 + rest.length < 2 := by omega
  have hbad : ¬514 < body.length + 1 := by omega
  simp only [judgeFrame, hn, hcrc, hfield, hkind, hbody, hrest, htotal, Config.maxFrameLength, hmore, hfew]
  simp [hbad]

/-- Settles O15: the receiver passes over the bytes before the sync byte one by one. -/
theorem huntFindsFrame : Obligations.HuntFindsFrame := by
  unfold Obligations.HuntFindsFrame
  intro junk rest body kind n hjunk hbody
  induction junk with
  | nil =>
    rw [List.length_nil, Nat.zero_add, Nat.add_comm, List.nil_append, frameBytes, List.cons_append, hunt,
      judgeFrame_frame hbody]
    simp
  | cons b junk ih =>
    have hb := List.ne_of_not_mem_cons hjunk
    have hrest := List.not_mem_of_not_mem_cons hjunk
    have hfuel : (b :: junk).length + 1 + n = junk.length + 1 + n + 1 := by simp; omega
    rw [hfuel, List.cons_append, List.cons_append, hunt, ← ih hrest]
    simp [Ne.symm hb]

end Sys2Proof.Machine
end

section
/-!
PROOFS. The settings block (the statement O16): its fields, and that a tree record applied gives back its settings.
-/

namespace Sys2Proof.Machine

/-! ### Values in bytes -/

theorem fromBeInt32_beInt {v : Int} (h1 : -2147483648 ≤ v) (h2 : v < 2147483648) : fromBeInt32 (beInt 4 v) = v := by
  rw [fromBeInt32, beInt, fromBe_be, BitVec.toInt_ofNat', Int.bmod_def]
  omega

theorem beInt_length (n : Nat) (v : Int) : (beInt n v).length = n := be_length n _

theorem Settings.bytes_length (s : Settings) : s.bytes.length = 112 := by
  have h : ∀ b ∈ s.values.map (beInt 4), b.length = 4 := by
    intro b hb
    obtain ⟨v, -, rfl⟩ := List.mem_map.mp hb
    exact beInt_length 4 v
  rw [Settings.bytes, length_flatten_of_length h, List.length_map]
  rfl

theorem TableSlot.bytes_length (x : TableSlot) : x.bytes.length = 4 := rfl

theorem Part.settingsBody_length (p : Part) : p.settingsBody.length = 460 := by
  simp [Part.settingsBody, allTrees, Settings.bytes_length, TableSlot.bytes_length]

/-- The record of a tree stands at its place in the body of the settings block (12.8). -/
theorem Part.settingsBody_tree (p : Part) (t : TreeId) :
    fieldAt p.settingsBody (112 * treeNo t) 112 = (p.tree t).settings.bytes := by
  have h : ∀ b ∈ allTrees.map fun u => (p.tree u).settings.bytes, b.length = 112 := by
    intro b hb
    obtain ⟨u, -, rfl⟩ := List.mem_map.mp hb
    exact Settings.bytes_length _
  have hlt : treeNo t < (allTrees.map fun u => (p.tree u).settings.bytes).length := by
    rw [List.length_map]
    cases t <;> decide
  have hlen := length_flatten_of_length h
  have hcount : (allTrees.map fun u => (p.tree u).settings.bytes).length = 4 := rfl
  rw [Part.settingsBody, List.append_assoc, List.append_assoc, fieldAt_append_left (by omega), fieldAt_flatten h hlt]
  cases t <;> rfl

theorem Part.settingsBody_table (p : Part) :
    fieldAt p.settingsBody 448 4 = p.reportTable.a.bytes ∧ fieldAt p.settingsBody 452 4 = p.reportTable.b.bytes
      ∧ fieldAt p.settingsBody 456 4 = p.reportTable.c.bytes := by
  have htrees : (allTrees.map fun u => (p.tree u).settings.bytes).flatten.length = 448 := by
    simp [allTrees, Settings.bytes_length]
  have hsplit : p.settingsBody = (allTrees.map fun u => (p.tree u).settings.bytes).flatten
      ++ (p.reportTable.a.bytes ++ (p.reportTable.b.bytes ++ p.reportTable.c.bytes)) := by
    simp [Part.settingsBody]
  rw [hsplit]
  exact ⟨fieldAt_append_right htrees _ 0 4, fieldAt_append_right htrees _ 4 4, fieldAt_append_right htrees _ 8 4⟩

/-! ### The values of a settings record -/

/-- The values of a settings record in its ranges go through 4 bytes. -/
theorem Settings.values_int32 {s : Settings} (h : s.Ok) : ∀ v ∈ s.values, -2147483648 ≤ v ∧ v < 2147483648 := by
  have honOff : ∀ b, 0 ≤ onOff b ∧ onOff b ≤ 1 := by decide
  have hfallback : ∀ f : Fallback, 0 ≤ f.code ∧ f.code ≤ 1 := by intro f; cases f <;> decide
  have hmask : ∀ f : Factors, 0 ≤ f.value ∧ f.value ≤ 7 := by
    rintro ⟨a, b, c⟩
    revert a b c
    decide
  have h6 := honOff s.windowSummaries
  have h7 := honOff s.rawStamps
  have h28 := honOff s.autoStart
  have h22 := hfallback s.fallback
  have h23 := hmask s.guardMask
  simp only [Settings.Ok] at h
  simp only [Settings.values, List.mem_cons, List.not_mem_nil, or_false, forall_eq_or_imp, forall_eq]
  omega

theorem storedValues_settingsBody {p : Part} {t : TreeId} (h : (p.tree t).settings.Ok) :
    storedValues p.settingsBody (112 * treeNo t) = (p.tree t).settings.values := by
  have hpieces : ∀ b ∈ (p.tree t).settings.values.map (beInt 4), b.length = 4 := by
    intro b hb
    obtain ⟨v, -, rfl⟩ := List.mem_map.mp hb
    exact beInt_length 4 v
  have hcount : (p.tree t).settings.values.length = 28 := rfl
  apply List.ext_getElem
  · simp [storedValues, hcount]
  · intro i hi hv
    have hi28 : i < 28 := by omega
    obtain ⟨h1, h2⟩ := Settings.values_int32 h _ (List.getElem_mem hv)
    simp only [storedValues, List.getElem_map, List.getElem_range]
    rw [← fieldAt_fieldAt (n := 112) (by omega), Part.settingsBody_tree, Settings.bytes,
      fieldAt_flatten hpieces (by rw [List.length_map]; exact hv), List.getElem_map, fromBeInt32_beInt h1 h2]

/-! ### A record applied -/

/-- A value of a record in its ranges is stored as it is. -/
theorem Settings.values_clamp {s : Settings} (h : s.Ok) :
    ∀ q ∈ (List.range 28).zip s.values, badEnum (q.1 + 1) q.2 = false ∧ clampField s (q.1 + 1) q.2 = q.2 := by
  have honOff : ∀ b, badEnum 6 (onOff b) = false ∧ badEnum 7 (onOff b) = false ∧ badEnum 28 (onOff b) = false := by decide
  have hfallback : ∀ f : Fallback, badEnum 22 f.code = false := by intro f; cases f <;> decide
  have hmask : ∀ f : Factors, badEnum 23 f.value = false := by
    rintro ⟨a, b, c⟩
    revert a b c
    decide
  have h6 := (honOff s.windowSummaries).1
  have h7 := (honOff s.rawStamps).2.1
  have h28 := (honOff s.autoStart).2.2
  have h22 := hfallback s.fallback
  have h23 := hmask s.guardMask
  have hspread : badEnum 5 s.spreadMin = false := by
    obtain ⟨-, -, -, -, hspread, -⟩ := h
    rcases hspread with h | h | h | h <;> rw [h] <;> decide
  have hlist : List.range 28 = [0, 1, 2, 3, 4, 5, 6, 7, 8, 9, 10, 11, 12, 13, 14, 15, 16, 17, 18, 19, 20, 21, 22, 23, 24,
    25, 26, 27] := by decide
  simp only [Settings.Ok] at h
  simp only [hlist, Settings.values, List.zip_cons_cons, List.zip_nil_left, List.mem_cons, List.not_mem_nil, or_false,
    forall_eq_or_imp, forall_eq, Nat.reduceAdd, h6, h7, h28, h22, h23, hspread]
  simp only [badEnum, clampField, clampInt, downTo4, true_and, and_true]
  omega

/-- The range that a value is clamped to depends on the record for fields 11 and 13 alone. -/
theorem clampField_congr {X s : Settings} {id : Nat} (v : Int) (h11 : id = 11 → X.raiseThreshold = s.raiseThreshold)
    (h13 : id = 13 → X.alignTolerance = s.alignTolerance) : clampField X id v = clampField s id v := by
  by_cases h : id = 11
  · subst h
    simp only [clampField, h11 rfl]
  · by_cases h' : id = 13
    · subst h'
      simp only [clampField, h13 rfl]
    · unfold clampField
      split <;> simp_all

theorem applyField_of_inRange {X : Settings} {id : Nat} {v : Int} (he : badEnum id v = false) (hc : clampField X id v = v) :
    applyField X id v = putField X id v := by
  rw [applyField, he, storeField, hc]
  rfl

/-- Fields other than 8 and 10 leave the two fields that others are clamped by. -/
theorem putField_bounds (X : Settings) {id : Nat} (v : Int) (h8 : id ≠ 8) (h10 : id ≠ 10) :
    (putField X id v).raiseThreshold = X.raiseThreshold ∧ (putField X id v).alignTolerance = X.alignTolerance := by
  unfold putField
  split <;> simp_all

/-- Fields in the ranges of `s` are stored as they are, while no field clamped by another stands among them, or else
what they are clamped by is that of `s` already. -/
theorem foldl_applyField {s : Settings} {l : List (Nat × Int)}
    (hl : ∀ q ∈ l, badEnum (q.1 + 1) q.2 = false ∧ clampField s (q.1 + 1) q.2 = q.2) :
    ∀ X : Settings, ((∀ q ∈ l, q.1 ≠ 10 ∧ q.1 ≠ 12)
        ∨ X.raiseThreshold = s.raiseThreshold ∧ X.alignTolerance = s.alignTolerance ∧ ∀ q ∈ l, q.1 ≠ 7 ∧ q.1 ≠ 9) →
      l.foldl (fun X q => applyField X (q.1 + 1) q.2) X = l.foldl (fun X q => putField X (q.1 + 1) q.2) X := by
  induction l with
  | nil => exact fun _ _ => rfl
  | cons q rest ih =>
    intro X hX
    obtain ⟨⟨he, hc⟩, hrest⟩ := List.forall_mem_cons.mp hl
    have hsame : clampField X (q.1 + 1) q.2 = clampField s (q.1 + 1) q.2 := by
      rcases hX with hfree | ⟨hraise, halign, -⟩
      · obtain ⟨h10, h12⟩ := hfree q List.mem_cons_self
        exact clampField_congr _ (fun h => absurd (by omega) h10) fun h => absurd (by omega) h12
      · exact clampField_congr _ (fun _ => hraise) fun _ => halign
    rw [List.foldl_cons, List.foldl_cons, applyField_of_inRange he (hsame.trans hc)]
    refine ih hrest _ ?_
    rcases hX with hfree | ⟨hraise, halign, hkeep⟩
    · exact Or.inl fun x hx => hfree x (List.mem_cons_of_mem q hx)
    · obtain ⟨h7, h9⟩ := hkeep q List.mem_cons_self
      obtain ⟨hr, ha⟩ := putField_bounds X q.2 (id := q.1 + 1) (by omega) (by omega)
      exact Or.inr ⟨hr.trans hraise, ha.trans halign, fun x hx => hkeep x (List.mem_cons_of_mem q hx)⟩

theorem factorsOf_value (f : Factors) : factorsOf f.value = f := by
  obtain ⟨a, b, c⟩ := f
  revert a b c
  decide

/-- The values of a record stored one by one give the record, whatever record they are stored in; what others are clamped
by is there after the first ten. -/
theorem foldl_putField_values (s X : Settings) :
    ((((List.range 28).zip s.values).take 10).foldl (fun X q => putField X (q.1 + 1) q.2) X).raiseThreshold
          = s.raiseThreshold
      ∧ ((((List.range 28).zip s.values).take 10).foldl (fun X q => putField X (q.1 + 1) q.2) X).alignTolerance
          = s.alignTolerance
      ∧ ((List.range 28).zip s.values).foldl (fun X q => putField X (q.1 + 1) q.2) X = s := by
  have honOff : ∀ b, (onOff b == 1) = b := by decide
  have hfallback : ∀ f : Fallback, (if (f.code == 0) = true then Fallback.useDefault else .hold) = f := by
    intro f
    cases f <;> rfl
  have hlist : List.range 28 = [0, 1, 2, 3, 4, 5, 6, 7, 8, 9, 10, 11, 12, 13, 14, 15, 16, 17, 18, 19, 20, 21, 22, 23, 24,
    25, 26, 27] := by decide
  refine ⟨?_, ?_, ?_⟩
  all_goals
    simp only [hlist, Settings.values, List.zip_cons_cons, List.zip_nil_left, List.take_succ_cons, List.take_zero,
      List.foldl_cons, List.foldl_nil, Nat.reduceAdd, putField, Int.toNat_natCast, honOff, hfallback, factorsOf_value]

/-- The values of a record in its ranges, applied field by field, give back the record (R189). -/
theorem applyValues_values {s : Settings} (h : s.Ok) (X : Settings) : applyValues X s.values = s := by
  have hclamp := Settings.values_clamp h
  obtain ⟨hraise, halign, hall⟩ := foldl_putField_values s X
  have hids : (∀ q ∈ ((List.range 28).zip s.values).take 10, q.1 ≠ 10 ∧ q.1 ≠ 12)
      ∧ ∀ q ∈ ((List.range 28).zip s.values).drop 10, q.1 ≠ 7 ∧ q.1 ≠ 9 := by
    have hlist : List.range 28 = [0, 1, 2, 3, 4, 5, 6, 7, 8, 9, 10, 11, 12, 13, 14, 15, 16, 17, 18, 19, 20, 21, 22, 23,
      24, 25, 26, 27] := by decide
    simp [hlist, Settings.values]
  rw [← List.take_append_drop 10 ((List.range 28).zip s.values)] at hclamp hall
  obtain ⟨hclamp1, hclamp2⟩ := List.forall_mem_append.mp hclamp
  rw [List.foldl_append] at hall
  rw [applyValues, ← List.take_append_drop 10 ((List.range 28).zip s.values), List.foldl_append,
    foldl_applyField hclamp1 X (Or.inl hids.1), foldl_applyField hclamp2 _ (Or.inr ⟨hraise, halign, hids.2⟩), hall]

/-! ### The block -/

theorem storedSlot_bytes {x : TableSlot} (h : x.Ok) : storedSlot x.bytes = x := by
  obtain ⟨h1, h2, h3, h4⟩ := h
  obtain ⟨kind, interval, multiple, clear⟩ := x
  have hinterval : (byte interval).toNat = interval := toNat_byte (Nat.lt_succ_of_le h2)
  have hmultiple : (byte multiple).toNat = multiple := toNat_byte (by simp only at h4; omega)
  have hclear : storedFlag (flagByte clear) = clear := by cases clear <;> rfl
  simp only [storedSlot, TableSlot.bytes, byteAt, List.getElem?_cons_zero, List.getElem?_cons_succ, Option.getD_some,
    hinterval, hmultiple, hclear, clampInt, TableSlot.mk.injEq, true_and, and_true]
  simp only at h1 h3 h4
  omega

theorem Part.settingsBlock_good (p : Part) :
    fieldAt p.settingsBlock 5 460 = p.settingsBody ∧ settingsBlockGood p.settingsBlock = true := by
  have hlen := Part.settingsBody_length p
  have hsplit : p.settingsBlock = ([0xC3#8] ++ be 2 460 ++ be 2 (crc16 p.settingsBody).toNat) ++ p.settingsBody := by
    simp [Part.settingsBlock, storedBlock]
  have hbody : fieldAt p.settingsBlock 5 460 = p.settingsBody := by
    rw [hsplit, fieldAt_append_of_length (by simp), List.take_of_length_le (by omega)]
  have hcount : numAt p.settingsBlock 1 2 = 460 := by
    rw [numAt, hsplit, List.append_assoc, List.append_assoc, fieldAt_append_of_length (by rfl),
      List.take_left' (be_length 2 _)]
    exact (fromBe_be 2 460).trans (by decide)
  have hcrc : fieldAt p.settingsBlock 3 2 = be 2 (crc16 p.settingsBody).toNat := by
    rw [hsplit, List.append_assoc, fieldAt_append_of_length (by rfl), List.take_left' (be_length 2 _)]
  have hmarker : byteAt p.settingsBlock 0 = 0xC3#8 := by rw [hsplit]; rfl
  refine ⟨hbody, ?_⟩
  simp only [settingsBlockGood, hbody, hcount, hcrc, hmarker]
  simp

/-- A fold of changes, each of one tree: every tree is changed by its own. -/
theorem Part.eachTree_modTree_tree (p : Part) (f : TreeId → Tree → Tree) (t : TreeId) :
    (p.eachTree fun p t => p.modTree t (f t)).tree t = f t (p.tree t) := by
  cases t <;> rfl

/-- A tree as a stored record applied to it leaves it. -/
def Tree.withStored (body : List Byte) (t : TreeId) (T : Tree) : Tree :=
  { T with settings := applyValues T.settings (storedValues body (112 * treeNo t)) }

theorem Tree.withStored_eq (body : List Byte) (t : TreeId) : Tree.withStored body t = fun T =>
    { T with settings := applyValues T.settings (storedValues body (112 * treeNo t)) } := rfl

theorem Part.applySettings_eq (p : Part) (body : List Byte) :
    p.applySettings body =
      { p.eachTree fun p t => p.modTree t (Tree.withStored body t) with
        reportTable :=
          ⟨storedSlot (fieldAt body 448 4), storedSlot (fieldAt body 452 4), storedSlot (fieldAt body 456 4)⟩ } := by
  simp only [Tree.withStored_eq]
  rw [Part.applySettings]

theorem Part.tree_of_withTable {p q : Part} {x : PerSlot TableSlot} (h : p = { q with reportTable := x }) (t : TreeId) :
    p.tree t = q.tree t := by
  rw [h]
  rfl

theorem Part.applySettings_tree (p : Part) (body : List Byte) (t : TreeId) :
    (p.applySettings body).tree t = (p.tree t).withStored body t := by
  rw [Part.tree_of_withTable (Part.applySettings_eq p body), Part.eachTree_modTree_tree]

theorem Part.applySettings_reportTable (p : Part) (body : List Byte) :
    (p.applySettings body).reportTable =
      ⟨storedSlot (fieldAt body 448 4), storedSlot (fieldAt body 452 4), storedSlot (fieldAt body 456 4)⟩ := by
  rw [Part.applySettings_eq]

/-- Settles O16: the block holds each tree's record and the report table at the places where start-up reads them. -/
theorem savedSettingsReload : Obligations.SavedSettingsReload := by
  unfold Obligations.SavedSettingsReload
  intro s p hs
  obtain ⟨hsettings, -, htable⟩ := hs
  obtain ⟨hbody, hgood⟩ := Part.settingsBlock_good s.part
  obtain ⟨ha, hb, hc⟩ := Part.settingsBody_table s.part
  rw [hbody]
  refine ⟨hgood, fun t => ?_, ?_⟩
  · rw [Part.applySettings_tree, Tree.withStored, storedValues_settingsBody (hsettings t), applyValues_values (hsettings t)]
  · have h1 : storedSlot s.part.reportTable.a.bytes = s.part.reportTable.a := storedSlot_bytes (htable .a)
    have h2 : storedSlot s.part.reportTable.b.bytes = s.part.reportTable.b := storedSlot_bytes (htable .b)
    have h3 : storedSlot s.part.reportTable.c.bytes = s.part.reportTable.c := storedSlot_bytes (htable .c)
    rw [Part.applySettings_reportTable, ha, hb, hc, h1, h2, h3]

end Sys2Proof.Machine
end

section
/-!
PROOFS. The orders of a tree (the statement O18): what an offer, a withdrawal and the round of held orders leave, of the tree
and of the records.
-/

namespace Sys2Proof.Machine

/-! ### The lag-unsent marks -/

@[simp] theorem Part.tree_markUnsent (p : Part) (t u : TreeId) (o : Order) (v : Bool) :
    (p.markUnsent t o v).tree u = p.tree u := by
  simp only [Part.markUnsent]
  split <;> rfl

/-- Only a LAG by tag has a lag-unsent mark (R91). -/
theorem Part.markUnsent_of_not_lagByTag (p : Part) (t : TreeId) {o : Order} (h : ∀ g n l, o ≠ .lagByTag g n l) (v : Bool) :
    p.markUnsent t o v = p := by
  cases o with
  | lagByTag g n l => exact absurd rfl (h g n l)
  | _ => rfl

theorem Part.markUnsent_eq (p : Part) (t : TreeId) (o : Order) (v : Bool) :
    p.markUnsent t o v = { p with records := (p.markUnsent t o v).records } := by
  simp only [Part.markUnsent]
  split <;> rfl

theorem Part.foldl_markUnsent_tree (t u : TreeId) (v : Bool) (os : List Order) (p : Part) :
    (os.foldl (fun p o => p.markUnsent t o v) p).tree u = p.tree u := by
  induction os generalizing p with
  | nil => rfl
  | cons o os ih => rw [List.foldl_cons, ih, Part.tree_markUnsent]

/-- Withdrawing orders none of which is a LAG by tag leaves the records. -/
theorem Part.withdraw_of_not_lagByTag (p : Part) (t : TreeId) {f : Order → Bool}
    (h : ∀ g n l, f (.lagByTag g n l) = false) :
    p.withdraw t f = p.modTree t fun T =>
      { T with queue := T.queue.filter fun o => !f o, heldOrders := T.heldOrders.filter fun o => !f o } := by
  have hfold : ∀ (os : List Order), (∀ o ∈ os, f o = true) → ∀ q : Part,
      os.foldl (fun p o => p.markUnsent t o false) q = q := by
    intro os
    induction os with
    | nil => exact fun _ _ => rfl
    | cons o os ih =>
      intro hos q
      have ho : ∀ g n l, o ≠ .lagByTag g n l := by
        rintro g n l rfl
        simpa [h] using hos _ List.mem_cons_self
      rw [List.foldl_cons, Part.markUnsent_of_not_lagByTag _ _ ho]
      exact ih (fun x hx => hos x (List.mem_cons_of_mem o hx)) q
  exact hfold _ (fun o ho => (List.mem_filter.mp ho).2) _

/-! ### Offering (R9) -/

theorem Tree.accepts_iff (T : Tree) : T.accepts = true ↔ T.queue.length < 32 ∧ T.heldOrders = [] := by
  rw [Tree.accepts, Bool.and_eq_true, decide_eq_true_eq, List.isEmpty_iff]
  exact Iff.rfl

theorem Tree.accepts_eq_false_iff (T : Tree) : T.accepts = false ↔ 32 ≤ T.queue.length ∨ T.heldOrders ≠ [] := by
  rw [Tree.accepts, Bool.and_eq_false_iff, decide_eq_false_iff_not, List.isEmpty_eq_false_iff, Nat.not_lt]
  exact Iff.rfl

theorem Tree.mayHold_iff (T : Tree) (o : Order) :
    T.mayHold o = true ↔ (o.isByTag = true → (T.heldOrders.filter Order.isByTag).length < 64) := by
  cases h : o.isByTag
  · simp [Tree.mayHold, h]
  · rw [Tree.mayHold, h, Bool.not_true, Bool.false_or, decide_eq_true_eq]
    exact ⟨fun hlt _ => hlt, fun hlt => hlt rfl⟩

section
variable (p : Part) (t : TreeId) (o : Order)

/-- A DISABLED tree drops an order offered (R3). -/
theorem Part.offer_of_disabled {p : Part} {t : TreeId} (h : (p.tree t).enabled = false) : p.offer t o = p := by
  simp [Part.offer, h]

variable {p t}

theorem Part.offer_of_accepts (he : (p.tree t).enabled = true) (h : (p.tree t).accepts = true) :
    p.offer t o = (p.modTree t fun T => { T with queue := T.queue ++ [o] }).markUnsent t o false := by
  simp [Part.offer, he, h]

variable {o}

theorem Part.offer_of_held (he : (p.tree t).enabled = true) (h : (p.tree t).accepts = false)
    (hm : (p.tree t).mayHold o = true) :
    p.offer t o = (p.modTree t fun T => { T with heldOrders := T.heldOrders ++ [o] }).markUnsent t o true := by
  simp [Part.offer, he, h, hm]

theorem Part.offer_of_dropped (he : (p.tree t).enabled = true) (h : (p.tree t).accepts = false)
    (hm : (p.tree t).mayHold o = false) : p.offer t o = p.markUnsent t o true := by
  simp [Part.offer, he, h, hm]

end

theorem Part.offer_tree_ne (p : Part) {t u : TreeId} (h : u ≠ t) (o : Order) : (p.offer t o).tree u = p.tree u := by
  simp only [Part.offer]
  (repeat' split) <;> simp [Part.tree_modTree_ne _ h]

/-! ### Withdrawing (R10) and the round of held orders (R9) -/

theorem Part.withdraw_tree (p : Part) (t u : TreeId) (f : Order → Bool) :
    (p.withdraw t f).tree u =
      (p.modTree t fun T =>
        { T with queue := T.queue.filter fun o => !f o, heldOrders := T.heldOrders.filter fun o => !f o }).tree u := by
  simp only [Part.withdraw]
  exact Part.foldl_markUnsent_tree t u false _ _

theorem Part.reofferList_tree (t : TreeId) (os : List Order) (p : Part) :
    (p.reofferList t os).tree t =
      { p.tree t with
        queue := (p.tree t).queue ++ os.take (32 - (p.tree t).queue.length)
        heldOrders := os.drop (32 - (p.tree t).queue.length) } := by
  induction os generalizing p with
  | nil => simp [Part.reofferList]
  | cons o os ih =>
    by_cases hroom : (p.tree t).queue.length < 32
    · have hleft : 32 - (p.tree t).queue.length = 31 - (p.tree t).queue.length + 1 := by omega
      have hnext : 32 - ((p.tree t).queue.length + 1) = 31 - (p.tree t).queue.length := by omega
      rw [Part.reofferList, if_pos (by simpa [Config.maxOrders] using hroom), ih, Part.tree_markUnsent,
        Part.tree_modTree_self]
      simp [hleft, hnext]
    · have hleft : 32 - (p.tree t).queue.length = 0 := by omega
      rw [Part.reofferList, if_neg (by simpa [Config.maxOrders] using hroom), Part.tree_modTree_self, hleft]
      simp

/-- Settles O18: an offer by the three answers of a tree, a withdrawal and the round by what they leave of the tree. -/
theorem orderQueueRules : Obligations.OrderQueueRules := by
  unfold Obligations.OrderQueueRules
  refine ⟨fun p t o => ⟨Part.offer_of_disabled o, fun he hq hh => ?_, fun he hfull hm => ?_, fun he hfull hby hm => ?_,
    fun u hu => Part.offer_tree_ne p hu o⟩, fun p t f => ⟨?_, fun u hu => ?_⟩, fun p t => ⟨?_, fun u hu => ?_⟩⟩
  · rw [Part.offer_of_accepts o he ((Tree.accepts_iff _).mpr ⟨hq, hh⟩), Part.tree_markUnsent, Part.tree_modTree_self]
  · rw [Part.offer_of_held he ((Tree.accepts_eq_false_iff _).mpr hfull) ((Tree.mayHold_iff _ o).mpr hm),
      Part.tree_markUnsent, Part.tree_modTree_self]
  · have hno : (p.tree t).mayHold o = false :=
      Bool.eq_false_iff.mpr fun h => absurd ((Tree.mayHold_iff _ o).mp h hby) (Nat.not_lt.mpr hm)
    rw [Part.offer_of_dropped he ((Tree.accepts_eq_false_iff _).mpr hfull) hno, Part.tree_markUnsent]
  · rw [Part.withdraw_tree, Part.tree_modTree_self]
  · rw [Part.withdraw_tree, Part.tree_modTree_ne _ hu]
  · rw [Part.reoffer, Part.reofferList_tree]
  · exact congrArg Prod.fst (Part.reoffer_own hu p)

end Sys2Proof.Machine
end

section
/-!
PROOFS. The arbiter's candidates, its choice and its grant (the statements O20, O21).
-/

namespace Sys2Proof.Machine

/-! ### The candidates (R108) -/

theorem Part.recordsOf_mem {p : Part} {t : TreeId} {r : Record} : r ∈ p.recordsOf t ↔ r ∈ p.records ∧ r.tree = t := by
  simp [Part.recordsOf]

theorem Part.expects_eq_false_iff (p : Part) (t : TreeId) (h : Nat) :
    p.expects t h = false ↔ ∀ x ∈ (p.tree t).expectations, x.handle ≠ h := by
  simp [Part.expects]

theorem Part.hasOrder_eq_false_iff (p : Part) (t : TreeId) (f : Order → Bool) :
    p.hasOrder t f = false ↔ ∀ o ∈ (p.tree t).queue ++ (p.tree t).heldOrders, f o = false := by
  simp only [Part.hasOrder, Bool.or_eq_false_iff, List.any_eq_false, List.mem_append, Bool.not_eq_true]
  exact ⟨fun h o ho => ho.elim (h.1 o) (h.2 o), fun h => ⟨fun o ho => h o (Or.inl ho), fun o ho => h o (Or.inr ho)⟩⟩

theorem Part.mem_candidates {p : Part} {k : Clock} {t : TreeId} {u : Purpose} {y : Candidate} :
    y ∈ p.candidates k t u ↔
      ∃ r ∈ p.records, r.tree = t ∧ (∀ x ∈ (p.tree t).expectations, x.handle ≠ r.handle)
        ∧ p.candidate k t r u = some y := by
  simp only [Part.candidates, List.mem_filterMap, Part.recordsOf_mem]
  constructor
  · rintro ⟨r, ⟨hr, ht⟩, hy⟩
    split at hy
    case isTrue => cases hy
    case isFalse hx => exact ⟨r, hr, ht, (Part.expects_eq_false_iff p t _).mp (by simpa using hx), hy⟩
  · rintro ⟨r, hr, ht, hx, hy⟩
    exact ⟨r, ⟨hr, ht⟩, by rw [(Part.expects_eq_false_iff p t _).mpr hx]; exact hy⟩

/-- A candidate is one for the handle of its record. -/
theorem Part.candidate_handle {p : Part} {k : Clock} {t : TreeId} {r : Record} {u : Purpose} {y : Candidate}
    (h : p.candidate k t r u = some y) : y.handle = r.handle := by
  cases u <;> obtain ⟨c, -, rfl⟩ := Option.map_eq_some_iff.mp h <;> rfl

theorem Part.checkSince_iff (p : Part) (t : TreeId) (r : Record) (c : CycleNo) :
    p.checkSince t r = some c ↔ r.state = .aligning ∧ r.check = .eligible c ∧ (p.tree t).guard.hush = false
      ∧ ∀ o ∈ (p.tree t).queue ++ (p.tree t).heldOrders, o.isLag r.handle = false := by
  rw [← Part.hasOrder_eq_false_iff, Part.checkSince]
  cases r.check with
  | eligible d =>
    simp only [Option.ite_none_right_eq_some, Bool.and_eq_true, beq_iff_eq, Bool.not_eq_true', Option.some.injEq,
      CheckMark.eligible.injEq]
    exact ⟨fun ⟨⟨⟨hs, hh⟩, ho⟩, hc⟩ => ⟨hs, hc, hh, ho⟩, fun ⟨hs, hc, hh, ho⟩ => ⟨⟨⟨hs, hh⟩, ho⟩, hc⟩⟩
  | _ => simp

theorem Record.upkeepSince_iff (r : Record) (c : CycleNo) :
    r.upkeepSince = some c ↔ (r.state = .inService ∨ r.state = .loading) ∧ r.upkeepDue = true
      ∧ c = r.lastUpkeepGrant + BitVec.ofNat 16 (upkeepInterval r.level) := by
  simp only [Record.upkeepSince, Option.ite_none_right_eq_some, Bool.and_eq_true, Bool.or_eq_true, beq_iff_eq,
    Option.some.injEq]
  exact ⟨fun ⟨⟨hd, hs⟩, hc⟩ => ⟨hs, hd, hc.symm⟩, fun ⟨hs, hd, hc⟩ => ⟨⟨hd, hs⟩, hc.symm⟩⟩

theorem Engine.askFor_iff (e : Engine) (h : Nat) (c : CycleNo) :
    e.askFor h = some c ↔ e.serving = some h ∧ e.ask = some c := by
  simp [Engine.askFor]

/-- Which candidate a record is in each class (R108, R109, R167). -/
theorem Part.candidate_iff (p : Part) (k : Clock) (t : TreeId) (r : Record) (u : Purpose) (y : Candidate) :
    p.candidate k t r u = some y ↔ r.handle = y.handle ∧ y.purpose = u ∧
      match u with
      | .check =>
        y.report = none ∧ r.state = .aligning ∧ r.check = .eligible y.since ∧ (p.tree t).guard.hush = false
          ∧ ∀ o ∈ (p.tree t).queue ++ (p.tree t).heldOrders, o.isLag r.handle = false
      | .loadStatus =>
        y.report = none ∧ (p.engine t).serving = some r.handle ∧ (p.engine t).ask = some y.since
      | .upkeep =>
        y.report = none ∧ (r.state = .inService ∨ r.state = .loading) ∧ r.upkeepDue = true
          ∧ y.since = r.lastUpkeepGrant + BitVec.ofNat 16 (upkeepInterval r.level)
      | .poll =>
        r.state = .inService ∧ ∃ x : ReportSlot, y.report = some (x, (p.reportTable.get x).kind)
          ∧ (p.reportTable.get x).kind ≠ 0 ∧ (r.polls.get x).due = some y.since
          ∧ ∀ (z : ReportSlot) (d : CycleNo), (p.reportTable.get z).kind ≠ 0 → (r.polls.get z).due = some d →
            cyclesSince k.cycle d ≤ cyclesSince k.cycle y.since
              ∧ (slotCode z < slotCode x → cyclesSince k.cycle d < cyclesSince k.cycle y.since) := by
  obtain ⟨handle, purpose, since, report⟩ := y
  cases u with
  | check =>
    simp only [Part.candidate, Option.map_eq_some_iff, Part.checkSince_iff, Candidate.mk.injEq]
    constructor
    · rintro ⟨c, h, rfl, rfl, rfl, rfl⟩
      exact ⟨rfl, rfl, rfl, h⟩
    · rintro ⟨rfl, rfl, rfl, h⟩
      exact ⟨since, h, rfl, rfl, rfl, rfl⟩
  | loadStatus =>
    simp only [Part.candidate, Option.map_eq_some_iff, Engine.askFor_iff, Candidate.mk.injEq]
    constructor
    · rintro ⟨c, h, rfl, rfl, rfl, rfl⟩
      exact ⟨rfl, rfl, rfl, h⟩
    · rintro ⟨rfl, rfl, rfl, h⟩
      exact ⟨since, h, rfl, rfl, rfl, rfl⟩
  | upkeep =>
    simp only [Part.candidate, Option.map_eq_some_iff, Record.upkeepSince_iff, Candidate.mk.injEq]
    constructor
    · rintro ⟨c, h, rfl, rfl, rfl, rfl⟩
      exact ⟨rfl, rfl, rfl, h⟩
    · rintro ⟨rfl, rfl, rfl, h⟩
      exact ⟨since, h, rfl, rfl, rfl, rfl⟩
  | poll =>
    simp only [Part.candidate, Option.map_eq_some_iff, Candidate.mk.injEq]
    constructor
    · rintro ⟨⟨x, d⟩, h, rfl, rfl, rfl, rfl⟩
      obtain ⟨hs, hk, hd, hmax⟩ := (Record.namedSlot_iff r _ _ x d).mp h
      exact ⟨rfl, rfl, hs, x, rfl, hk, hd, hmax⟩
    · rintro ⟨rfl, rfl, hs, x, rfl, hk, hd, hmax⟩
      exact ⟨(x, since), (Record.namedSlot_iff r _ _ x since).mpr ⟨hs, hk, hd, hmax⟩, rfl, rfl, rfl, rfl⟩

/-- In a table that keeps its law the records of a tree, and so the candidates, stand in ascending order of handle. -/
theorem Part.TableOk.recordsOf_sorted {p : Part} (h : p.TableOk) (t : TreeId) :
    ((p.recordsOf t).map (·.handle)).Pairwise (· < ·) := by
  obtain ⟨-, -, -, -, -, hhandles, hkeys, -⟩ := h
  rw [List.pairwise_map] at hkeys ⊢
  refine List.Pairwise.imp_of_mem (R := fun r q => r.key < q.key) ?_ (hkeys.filter _)
  intro r q hr hq hlt
  obtain ⟨hr, hrt⟩ := Part.recordsOf_mem.mp hr
  obtain ⟨hq, hqt⟩ := Part.recordsOf_mem.mp hq
  have h1 := (hhandles r hr).1
  have h2 := (hhandles q hq).1
  simp only [Record.key, hrt, hqt] at hlt
  omega

theorem Part.TableOk.candidates_sorted {p : Part} (h : p.TableOk) (k : Clock) (t : TreeId) (u : Purpose) :
    ((p.candidates k t u).map (·.handle)).Pairwise (· < ·) := by
  have hrecords := h.recordsOf_sorted t
  rw [List.pairwise_map] at hrecords ⊢
  refine hrecords.filterMap _ fun r q hlt y hy z hz => ?_
  split at hy
  case isTrue => cases hy
  split at hz
  case isTrue => cases hz
  rw [Part.candidate_handle hy, Part.candidate_handle hz]
  exact hlt

/-! ### The choice (R112) -/

theorem longestWait_eq_none_iff (c : CycleNo) (l : List Candidate) : longestWait c l = none ↔ l = [] := by
  cases l with
  | nil => simp [longestWait]
  | cons x l =>
    simp only [longestWait]
    cases longestWait c l <;> simp <;> split <;> simp

/-- The longest wait of candidates in a row, the first of equals. -/
theorem longestWait_eq_some {c : CycleNo} {l : List Candidate} {x : Candidate} (h : longestWait c l = some x) :
    ∃ pre post, l = pre ++ x :: post ∧ (∀ y ∈ pre, cyclesSince c y.since < cyclesSince c x.since)
      ∧ ∀ y ∈ post, cyclesSince c y.since ≤ cyclesSince c x.since := by
  induction l generalizing x with
  | nil => cases h
  | cons z l ih =>
    simp only [longestWait] at h
    split at h
    case h_1 hnone =>
      cases h
      exact ⟨[], [], by rw [(longestWait_eq_none_iff c l).mp hnone]; rfl, by simp, by simp⟩
    case h_2 y hy =>
      obtain ⟨pre, post, rfl, hpre, hpost⟩ := ih hy
      split at h
      case isTrue hlt =>
        cases h
        refine ⟨z :: pre, post, rfl, ?_, hpost⟩
        simpa using ⟨hlt, hpre⟩
      case isFalse hle =>
        cases h
        refine ⟨[], pre ++ y :: post, rfl, by simp, ?_⟩
        intro v hv
        rcases List.mem_append.mp hv with hv | hv
        · exact Nat.le_of_lt (Nat.lt_of_lt_of_le (hpre v hv) (Nat.le_of_not_lt hle))
        · rcases List.mem_cons.mp hv with rfl | hv
          · exact Nat.le_of_not_lt hle
          · exact Nat.le_trans (hpost v hv) (Nat.le_of_not_lt hle)

theorem mem_classOrder (n : BitVec 16) (u : Purpose) : u ∈ classOrder n := by
  simp only [classOrder]
  split <;> cases u <;> simp

theorem Part.choose_eq_none_iff (p : Part) (k : Clock) (t : TreeId) (n : BitVec 16) :
    p.choose k t n = none ↔ ∀ u, p.candidates k t u = [] := by
  simp only [Part.choose, List.findSome?_eq_none_iff, longestWait_eq_none_iff]
  exact ⟨fun h u => h u (mem_classOrder n u), fun h u _ => h u⟩

/-- Settles O20: the choice by the order of the classes and of the waits, the candidates class by class. -/
theorem arbiterChoice : Obligations.ArbiterChoice := by
  unfold Obligations.ArbiterChoice
  refine ⟨fun p k t n => ⟨by simp [classOrder], Part.choose_eq_none_iff p k t n, fun x hx => ?_⟩,
    fun p k t u => ⟨fun hp => hp.candidates_sorted k t u, fun y => ?_⟩⟩
  · obtain ⟨before, u, after, hsplit, hu, hbefore⟩ := List.findSome?_eq_some_iff.mp hx
    obtain ⟨pre, post, hcandidates, hpre, hpost⟩ := longestWait_eq_some hu
    exact ⟨before, u, after, pre, post, hsplit,
      fun v hv => (longestWait_eq_none_iff _ _).mp (hbefore v hv), hcandidates, hpre, hpost⟩
  · rw [Part.mem_candidates]
    constructor
    · rintro ⟨r, hr, ht, hx, hy⟩
      obtain ⟨hh, hu, hclass⟩ := (Part.candidate_iff p k t r u y).mp hy
      exact ⟨r, hr, ht, hh, hu, hx, hclass⟩
    · rintro ⟨r, hr, ht, hh, hu, hx, hclass⟩
      exact ⟨r, hr, ht, hx, (Part.candidate_iff p k t r u y).mpr ⟨hh, hu, hclass⟩⟩

/-! ### The grant (R113, R114) -/

theorem Record.named_eq_true_iff (r : Record) (t : TreeId) (h : Nat) :
    r.named t h = true ↔ r.tree = t ∧ r.handle = h := by
  simp [Record.named]

theorem Part.issueGrant_records (p : Part) (k : Clock) (t : TreeId) (slot : Nat) (x : Candidate) :
    (p.issueGrant k t slot x).records = p.records.map fun r => if r.named t x.handle then r.granted k x else r := by
  simp only [Part.issueGrant]
  split <;> rfl

/-- A grant, whole: one entry more, the engine's ask satisfied by a LOAD-STATUS grant, the granted record changed. -/
theorem Part.issueGrant_eq (p : Part) (k : Clock) (t : TreeId) (slot : Nat) (x : Candidate) :
    p.issueGrant k t slot x =
      { p.modTree t fun T =>
          { T with
            expectations := T.expectations ++
              [⟨x.handle, x.purpose, x.report, k.cycle, slot, expectedArrival T.settings k.cycle slot,
                if x.purpose = .loadStatus then some T.engine.sendPointer else none, false⟩]
            engine := if x.purpose = .loadStatus then { T.engine with ask := none, awaiting := true, cellCount := 0 }
              else T.engine } with
        records := (p.issueGrant k t slot x).records } := by
  simp only [Part.issueGrant]
  by_cases hp : x.purpose = .loadStatus
  · simp only [hp, beq_self_eq_true, if_true]
    cases t <;> rfl
  · have hb : (x.purpose == .loadStatus) = false := by simpa using hp
    simp only [hp, hb, Bool.false_eq_true, if_false]
    cases t <;> rfl

theorem Part.issueGrant_tree (p : Part) (k : Clock) (t : TreeId) (slot : Nat) (x : Candidate) :
    (p.issueGrant k t slot x).tree t =
      { p.tree t with
        expectations := (p.tree t).expectations ++
          [⟨x.handle, x.purpose, x.report, k.cycle, slot, expectedArrival (p.tree t).settings k.cycle slot,
            if x.purpose = .loadStatus then some (p.engine t).sendPointer else none, false⟩]
        engine := if x.purpose = .loadStatus then { p.engine t with ask := none, awaiting := true, cellCount := 0 }
          else p.engine t } := by
  rw [Part.issueGrant_eq]
  cases t <;> rfl

/-- Settles O21: the grant's entry and engine are read off the tree it leaves, the record's change off its purpose. -/
theorem grantMakesExpectation : Obligations.GrantMakesExpectation := by
  unfold Obligations.GrantMakesExpectation
  intro p k t slot x
  have htree := Part.issueGrant_tree p k t slot x
  have hengine : (p.issueGrant k t slot x).engine t =
      if x.purpose = .loadStatus then { p.engine t with ask := none, awaiting := true, cellCount := 0 }
      else p.engine t := congrArg Tree.engine htree
  refine ⟨congrArg Tree.expectations htree, fun h => by rw [hengine, if_pos h], fun h => by rw [hengine, if_neg h], ?_,
    fun after hafter => ?_⟩
  · rw [htree, hengine, Part.issueGrant_eq]
    simp only [Part.modTree, Part.tree, Part.engine]
  · have hgranted : ∀ r : Record, r.granted k x = after r := by
      intro r
      rcases hafter with ⟨hp, rfl⟩ | ⟨hp, rfl⟩ | ⟨hp, rfl⟩ | ⟨kind, hp, hr, rfl⟩ | ⟨y, kind, hp, hr, hy, rfl⟩
      · simp [Record.granted, hp]
      · simp [Record.granted, hp]
      · simp [Record.granted, hp]
      · simp [Record.granted, hp, hr, Record.pollGranted, PerSlot.set]
      · simp [Record.granted, hp, hr, Record.pollGranted, hy]
    rw [Part.issueGrant_records]
    refine List.map_congr_left fun r _ => ?_
    simp only [Record.named_eq_true_iff, hgranted]

end Sys2Proof.Machine
end

section
/-!
PROOFS. The pieces of a cycle start that a command takes by itself (the statements O25, O26, O28, O29, O30): the rules of such
a command, the rules of a change of one record, then each piece.
-/

namespace Sys2Proof.Machine

/-! ### Events that raise nothing, and events that raise notices -/

theorem State.withPart_quiet (s : State) {p : Part} (h : p.raised = []) : s.withPart p = s.afterEvent p [] := by
  rw [State.withPart_eq, Part.forget_raised h, h]

theorem State.withPart_raising (s : State) {p : Part} (h : p.raised = []) (ns : List Notice) :
    s.withPart { p with raised := ns } = s.afterEvent p ns := by
  rw [State.withPart_eq]
  exact congrArg (fun q => s.afterEvent q ns) (Part.forget_raised h)

theorem State.withPart_raise (s : State) {p : Part} (h : p.raised = []) (n : Notice) :
    s.withPart (p.raise n) = s.afterEvent p [n] := by
  have hraise : p.raise n = { p with raised := [n] } := by rw [Part.raise, h]; rfl
  rw [hraise, State.withPart_raising s h]

@[simp] theorem State.openStart_raised (s : State) : s.openStart.part.raised = s.part.raised := rfl

@[simp] theorem State.startOpen_raised (s : State) : s.startOpen.part.raised = s.part.raised := by
  simp only [State.startOpen, State.boundaryStep, State.atStart]
  (repeat' split) <;> rfl

/-- A piece of the cycle start that is due at it. -/
theorem State.takePiece_of_due {s : State} {due : Clock → Part → Bool} (f : Clock → Part → Part)
    (h : due s.startOpen.clock s.startOpen.part = true) :
    s.takePiece due f = s.startOpen.withPart (f s.startOpen.clock s.startOpen.part) := by
  simp only [State.takePiece, h, if_true]

/-- A piece of a tenth boundary that is due at it. -/
theorem State.takeAtTenth_of_due {s : State} {due : Clock → Part → Bool} (f : Clock → Part → Part)
    (hb : s.startOpen.clock.stage = .boundaryTaken) (h : due s.startOpen.clock s.startOpen.part = true) :
    s.takeAtTenth due f = s.startOpen.withPart (f s.startOpen.clock s.startOpen.part) := by
  simp only [State.takeAtTenth, h, hb, decide_true, Bool.and_self, if_true]

/-! ### Changes of one record -/

@[simp] theorem Part.record?_modTree (p : Part) (t u : TreeId) (f : Tree → Tree) (h : Nat) :
    (p.modTree t f).record? u h = p.record? u h := rfl

@[simp] theorem Part.record?_raise (p : Part) (n : Notice) (u : TreeId) (h : Nat) :
    (p.raise n).record? u h = p.record? u h := rfl

/-- A change of the records of one name, each keeping its name, leaves those of other names. -/
theorem Part.record?_modRecord_ne (p : Part) {t t' : TreeId} {h h' : Nat} (hne : (t', h') ≠ (t, h)) {f : Record → Record}
    (hf : ∀ r, (f r).tree = r.tree ∧ (f r).handle = r.handle) : (p.modRecord t h f).record? t' h' = p.record? t' h' := by
  simp only [Part.record?, Part.modRecord]
  induction p.records with
  | nil => rfl
  | cons r rest ih =>
    have hnamed : (if r.named t h then f r else r).named t' h' = r.named t' h' := by
      split <;> simp [Record.named, hf r]
    rw [List.map_cons, List.find?_cons, List.find?_cons, hnamed, ih]
    cases hr : r.named t' h' with
    | false => rfl
    | true =>
      have hother : ¬r.named t h = true := by
        intro hr'
        obtain ⟨ht, hh⟩ := Record.named_iff.mp hr
        obtain ⟨ht', hh'⟩ := Record.named_iff.mp hr'
        exact hne (by rw [← ht, ← hh, ht', hh'])
      rw [if_neg hother]

theorem Part.onlyRecord_refl (p : Part) (t : TreeId) (h : Nat) : p.onlyRecord p t h := ⟨rfl, fun _ _ _ => rfl⟩

theorem Part.onlyRecord.trans {p q v : Part} {t : TreeId} {h : Nat} (h1 : p.onlyRecord q t h) (h2 : q.onlyRecord v t h) :
    p.onlyRecord v t h := by
  obtain ⟨e1, o1⟩ := h1
  obtain ⟨e2, o2⟩ := h2
  refine ⟨?_, fun t' h' hne => (o2 t' h' hne).trans (o1 t' h' hne)⟩
  rw [e1] at e2
  exact e2

theorem Part.modRecord_onlyRecord (p : Part) (t : TreeId) (h : Nat) {f : Record → Record}
    (hf : ∀ r, (f r).tree = r.tree ∧ (f r).handle = r.handle) : p.onlyRecord (p.modRecord t h f) t h :=
  ⟨rfl, fun _ _ hne => Part.record?_modRecord_ne p hne hf⟩

/-- A change of the record found. -/
theorem Part.record?_modRecord_some {p : Part} {t : TreeId} {h : Nat} {r : Record} (hr : p.record? t h = some r)
    {f : Record → Record} (hf : ∀ r, (f r).tree = r.tree ∧ (f r).handle = r.handle) :
    (p.modRecord t h f).record? t h = some (f r) := by
  rw [Part.record?_modRecord p t h f hf, hr, Option.map_some]

/-! ### The window scheduler (R37, R38, R40) -/

/-- The window timer advances at a cycle start, once (R37). -/
theorem Tree.advanceTimer_eq (T : Tree) :
    T.advanceTimer =
      { T with
        scheduler :=
          { T.scheduler with
            timer := if T.timerDone then T.scheduler.timer else min 65535 (T.scheduler.timer + 1) }
        timerDone := true } := by
  cases hdone : T.timerDone with
  | false => simp [Tree.advanceTimer, hdone]
  | true =>
    rw [Tree.advanceTimer, if_pos hdone, if_pos rfl, ← hdone]

theorem Tree.windowDue_iff (T : Tree) :
    T.windowDue = true ↔
      T.scheduler.phase = .idle ∧ T.settings.windowInterval ≤ T.scheduler.timer ∧ T.guard.hush = false := by
  simp [Tree.windowDue, and_assoc]

theorem exec_windowBegin_of_due {s : State} {t : TreeId} (he : (s.startOpen.part.tree t).enabled = true)
    (hd : (s.startOpen.part.tree t).advanceTimer.windowDue = true) :
    exec (.windowBegin t) s =
      .next (s.startOpen.withPart (s.startOpen.part.modTree t (·.advanceTimer.beginWindow s.startOpen.clock.cycle))) :=
  congrArg Host.Outcome.next (State.takePiece_of_due _ (by simp [he, hd]))

theorem exec_call_of_due {s : State} {t : TreeId} (he : (s.startOpen.part.tree t).enabled = true)
    (hd : (s.startOpen.part.tree t).callDue s.startOpen.clock.cycle = true) :
    exec (.call t) s = .next (s.startOpen.withPart (s.startOpen.part.callStart s.startOpen.clock t)) :=
  congrArg Host.Outcome.next (State.takePiece_of_due _ (by simp [he, hd]))

/-- Settles O25: a window begins, and is called, on the tree that the open cycle start holds. -/
theorem windowBeginsAndCalls : Obligations.WindowBeginsAndCalls := by
  unfold Obligations.WindowBeginsAndCalls
  refine ⟨fun depth h1 h2 => ?_, fun depth h1 h2 => ?_, fun s t hraised henabled =>
    ⟨fun timer hidle htimer hdue hhush => ?_, fun hcall => ?_⟩⟩
  · simp only [leadInLength]
    omega
  · simp only [leadInLength]
    omega
  · have hwindow : (s.startOpen.part.tree t).advanceTimer.windowDue = true := by
      rw [Tree.windowDue_iff, Tree.advanceTimer_eq, ← htimer]
      exact ⟨hidle, hdue, hhush⟩
    rw [exec_windowBegin_of_due henabled hwindow]
    refine congrArg Host.Outcome.next ?_
    refine (State.withPart_quiet _ (by exact (State.startOpen_raised s).trans hraised)).trans ?_
    refine congrArg (State.afterEvent _ · []) (Part.modTree_congr _ t ?_)
    rw [Tree.advanceTimer_eq, ← htimer]
    rfl
  · rw [exec_call_of_due henabled (by simpa [Tree.callDue] using hcall)]
    refine congrArg Host.Outcome.next ?_
    exact State.withPart_quiet _ (by exact (State.startOpen_raised s).trans hraised)

/-! ### The upkeep-due mark (R110) -/

/-- Settles O26: the test of one record, due. -/
theorem upkeepFallsDue : Obligations.UpkeepFallsDue := by
  unfold Obligations.UpkeepFallsDue
  intro s t h r hraised hr hstate hclear hinterval
  have hfalls : r.upkeepFallsDue s.startOpen.clock.cycle = true := by
    simpa [Record.upkeepFallsDue, hclear, hinterval] using hstate
  have hname : ∀ q : Record, (q.upkeepTest s.startOpen.clock.cycle).tree = q.tree
      ∧ (q.upkeepTest s.startOpen.clock.cycle).handle = q.handle := fun q => ⟨by simp, by simp⟩
  refine ⟨s.startOpen.part.modRecord t h (·.upkeepTest s.startOpen.clock.cycle), ?_,
    Part.modRecord_onlyRecord _ t h hname, ?_⟩
  · refine congrArg Host.Outcome.next ((State.takePiece_of_due _ (by simp [hr, hfalls])).trans ?_)
    exact State.withPart_quiet _ (by exact (State.startOpen_raised s).trans hraised)
  · rw [Part.record?_modRecord_some hr hname, Record.upkeepTest, if_pos hfalls]

/-! ### The last cycle of SETTLING (R153, R157) -/

/-- What a pause that begins raises (R157). -/
def Engine.hungry (e : Engine) (t : TreeId) : List Notice :=
  if e.source = some .streamed then [.pushHungry t (e.serving.getD 0) e.imageLength e.fillCount e.freeSpace] else []

section
variable {p : Part} {k : Clock} {t : TreeId}

theorem Part.pauseUpdate_of_not_streaming (h : (p.engine t).state ≠ .streaming) : p.pauseUpdate k t = p := by
  simp [Part.pauseUpdate, h]

/-- A STREAMING engine that has the next cell's bytes is not paused: its stall timer is stopped (R157). -/
theorem Part.pauseUpdate_of_running (h : (p.engine t).state = .streaming) (hp : (p.engine t).paused = false) :
    p.pauseUpdate k t = p.modEngine t fun e => { e with stallTimer := none } := by
  simp [Part.pauseUpdate, h, hp]

theorem Part.pauseUpdate_of_waiting (hp : (p.engine t).paused = true) (ht : (p.engine t).stallTimer.isSome = true) :
    p.pauseUpdate k t = p := by
  simp [Part.pauseUpdate, hp, ht]

/-- A pause begins: the stall timer starts, and a streamed source asks for bytes (R157). -/
theorem Part.pauseUpdate_of_beginning (h : (p.engine t).state = .streaming) (hp : (p.engine t).paused = true)
    (ht : (p.engine t).stallTimer = none) :
    p.pauseUpdate k t =
      { p.modEngine t fun e => { e with stallTimer := some ⟨k.tenth, (p.tree t).settings.stallLimit⟩ } with
        raised := p.raised ++ (p.engine t).hungry t } := by
  simp only [Part.pauseUpdate, h, hp, ht, Engine.hungry]
  by_cases hs : (p.engine t).source = some .streamed
  · simp [hs, Part.raise, Part.modEngine, Clock.timer]
  · simp [hs, Part.modEngine, Clock.timer, Part.modTree]

/-- Two changes of one engine that agree on it are equal. -/
theorem Part.modEngine_congr (p : Part) (t : TreeId) {f g : Engine → Engine} (h : f (p.engine t) = g (p.engine t)) :
    p.modEngine t f = p.modEngine t g :=
  Part.modTree_congr p t (congrArg (fun e => { p.tree t with engine := e }) h)

/-- The stall timer as the pause test of a STREAMING engine whose timer does not run leaves it (R157). -/
def Engine.pauseTested (e : Engine) (k : Clock) (length : Nat) : Engine :=
  { e with stallTimer := if e.paused then some ⟨k.tenth, length⟩ else none }

/-- The pause of a STREAMING engine whose stall timer does not run, whichever way it goes. -/
theorem Part.pauseUpdate_eq (h : (p.engine t).state = .streaming) (ht : (p.engine t).stallTimer = none) :
    p.pauseUpdate k t =
      { p.modEngine t (·.pauseTested k (p.tree t).settings.stallLimit) with
        raised := p.raised ++ if (p.engine t).paused then (p.engine t).hungry t else [] } := by
  cases hp : (p.engine t).paused with
  | false =>
    rw [Part.pauseUpdate_of_running h hp, if_neg Bool.false_ne_true, List.append_nil]
    refine (Part.modEngine_congr p t (g := (·.pauseTested k (p.tree t).settings.stallLimit)) ?_).trans rfl
    simp [Engine.pauseTested, hp]
  | true =>
    rw [Part.pauseUpdate_of_beginning h hp ht, if_pos rfl]
    refine congrArg (fun q : Part => { q with raised := p.raised ++ (p.engine t).hungry t }) (Part.modEngine_congr p t ?_)
    simp [Engine.pauseTested, hp]

end

/-- A change of the load part of a record. -/
def Record.withSub (sub : SubState) (r : Record) : Record := { r with load := r.load.map fun l => { l with sub := sub } }

theorem Record.withSub_name (sub : SubState) (r : Record) : (r.withSub sub).tree = r.tree ∧ (r.withSub sub).handle = r.handle :=
  ⟨rfl, rfl⟩

/-- The engine of a push that enters STREAMING, before its pause is tested (R153, R154). -/
def Engine.startStreaming (e : Engine) : Engine :=
  { e with state := .streaming, cellCount := 0, lastBad := false, settleLeft := 0 }

theorem Part.enterStreaming_eq (p : Part) (k : Clock) (t : TreeId) :
    p.enterStreaming k t =
      ((p.modEngine t Engine.startStreaming).modRecord t ((p.engine t).serving.getD 0) (Record.withSub .streaming)).pauseUpdate k t :=
  rfl

/-- Settles O28: the engine enters STREAMING, then its pause is tested. -/
theorem settlingEnds : Obligations.SettlingEnds := by
  unfold Obligations.SettlingEnds
  intro s t h r l hraised hstate hleft hserving hstall hr hl
  have hexec : exec (.settleEnd t) s = .next (s.startOpen.withPart (s.startOpen.part.enterStreaming s.startOpen.clock t)) :=
    congrArg Host.Outcome.next (State.takePiece_of_due _ (by simp [hstate, hleft]))
  have hquiet : s.startOpen.part.raised = [] := (State.startOpen_raised s).trans hraised
  generalize s.startOpen = u at *
  obtain ⟨q, hq⟩ : ∃ q, q = (u.part.modEngine t Engine.startStreaming).modRecord t h (Record.withSub .streaming) := ⟨_, rfl⟩
  have hengine : q.engine t = (u.part.engine t).startStreaming := by
    rw [hq]
    exact Part.engine_modEngine_self _ _ _
  have hqraised : q.raised = [] := by rw [hq]; exact hquiet
  have hrecord : q.record? t h = some { r with load := some { l with sub := .streaming } } := by
    rw [hq]
    refine (Part.record?_modRecord_some (r := r) hr (Record.withSub_name .streaming)).trans ?_
    rw [Record.withSub, hl]
    rfl
  have hpause := Part.pauseUpdate_eq (p := q) (k := u.clock) (t := t) (by rw [hengine]; rfl) (by rw [hengine]; exact hstall)
  rw [Part.enterStreaming_eq, hserving, Option.getD_some, ← hq, hpause, hqraised, List.nil_append] at hexec
  refine ⟨q.modEngine t (·.pauseTested u.clock (q.tree t).settings.stallLimit), ?_, hrecord, ?_⟩
  · refine hexec.trans (congrArg Host.Outcome.next ?_)
    refine (State.withPart_raising u (by exact hqraised) _).trans (congrArg (State.afterEvent u _) ?_)
    have hpaused : (q.engine t).paused = (u.part.engine t).paused := by rw [hengine]; rfl
    have hhungry : (q.engine t).hungry t =
        if (u.part.engine t).source = some .streamed then
          [.pushHungry t h (u.part.engine t).imageLength (u.part.engine t).fillCount (u.part.engine t).freeSpace]
        else [] := by
      rw [hengine]
      simp only [Engine.hungry, Engine.startStreaming, hserving, Option.getD_some]
      rfl
    rw [hpaused, hhungry, ite_and_eq]
  · rw [hq]
    cases t <;> rfl

/-! ### The tenth boundary (R2, R170), staleness and polls (R167, R170) -/

theorem StoredReport.ages_iff (v : StoredReport) (slot : TableSlot) :
    v.ages slot = true ↔ v.valid = true ∧ slot.kind ≠ 0 := by
  simp [StoredReport.ages, TableSlot.on]

/-- The report of one slot as a tenth boundary leaves it (R170). -/
theorem Record.ageReports_get (r : Record) (table : PerSlot TableSlot) (x : ReportSlot) :
    (r.ageReports table).reports.get x =
      if r.state = .inService ∧ (r.reports.get x).valid = true ∧ (table.get x).kind ≠ 0 then
        { r.reports.get x with age := min 65535 ((r.reports.get x).age + 1) }
      else r.reports.get x := by
  have hgrow : ∀ (v : StoredReport) (slot : TableSlot),
      v.grow slot = if v.valid = true ∧ slot.kind ≠ 0 then { v with age := min 65535 (v.age + 1) } else v := by
    intro v slot
    rw [StoredReport.grow]
    exact ite_of_iff (StoredReport.ages_iff v slot)
  by_cases hr : r.state = .inService
  · have haged : (r.ageReports table).reports.get x = (r.reports.get x).grow (table.get x) := by
      cases x <;> simp [Record.ageReports, hr, PerSlot.get]
    rw [haged, hgrow]
    simp [hr]
  · simp [Record.ageReports, hr]

theorem Record.ageReports_eq (r : Record) (table : PerSlot TableSlot) :
    r.ageReports table = { r with reports := (r.ageReports table).reports } := by
  rw [Record.ageReports]
  split <;> rfl

/-- The tenth boundary that is due advances the tenth count and ages the reports (R2, R170). -/
theorem exec_tenthBoundary_of_due {s : State} (hraised : s.part.raised = []) (hdue : s.atStart.clock.stage = .boundaryDue) :
    exec .tenthBoundary s =
      .next ({ s.atStart with clock := s.atStart.clock.takeBoundary }.afterEvent s.atStart.part.ageAll []) := by
  have hquiet : s.atStart.part.ageAll.raised = [] := by
    rw [State.atStart]
    split
    · exact hraised
    · exact hraised
  have hexec : exec .tenthBoundary s = .next s.atStart.takeBoundary.settle :=
    congrArg Host.Outcome.next (if_pos hdue)
  rw [hexec]
  exact congrArg Host.Outcome.next
    (State.withPart_quiet { s.atStart with clock := s.atStart.clock.takeBoundary } hquiet)

/-- A stored report that has become stale (R170). -/
def StoredReport.aged (v : StoredReport) (slot : TableSlot) : StoredReport :=
  { v with stale := true, valid := !slot.clearOnStale }

theorem Part.staleTest_of_due {p : Part} {t : TreeId} {h : Nat} {x : ReportSlot} {r : Record} (hr : p.record? t h = some r)
    (hdue : r.staleDue p.reportTable x = true) :
    p.staleTest t h x =
      (p.modRecord t h fun q =>
        { q with reports := q.reports.set x ((r.reports.get x).aged (p.reportTable.get x)) }).raise
        (.stale t h r.tag x (r.reports.get x).kind (r.reports.get x).age (p.reportTable.get x).clearOnStale) := by
  simp only [Part.staleTest, hr, hdue, if_true]
  rfl

theorem Record.pollDueTest_of_due {r : Record} {table : PerSlot TableSlot} {k : Clock} {x : ReportSlot} {l : Tenth}
    (hstate : r.state = .inService) (hon : (table.get x).kind ≠ 0) (hdue : (r.polls.get x).due = none)
    (hlast : (r.polls.get x).lastPoll = some l) (hinterval : (table.get x).interval ≤ tenthsSince k.tenth l) :
    r.pollDueTest table k x = { r with polls := r.polls.set x ⟨some l, some k.cycle⟩ } := by
  have honb : (table.get x).on = true := bne_iff_ne.mpr hon
  simp only [Record.pollDueTest, hdue, hlast, hstate, honb, hinterval, beq_self_eq_true, decide_true, Bool.and_self, if_true]

/-- Settles O29: the boundary itself, then the stale test and the poll test of one slot. -/
theorem tenthBoundaryReports : Obligations.TenthBoundaryReports := by
  unfold Obligations.TenthBoundaryReports
  refine ⟨⟨fun s hraised hdue => exec_tenthBoundary_of_due hraised hdue,
      fun r table x => ⟨Record.ageReports_get r table x, Record.ageReports_eq r table⟩⟩,
    fun s t h x r hraised hstage hr hstate hon => ?_⟩
  have hquiet : s.startOpen.part.raised = [] := (State.startOpen_raised s).trans hraised
  refine ⟨fun hvalid hstale hage => ?_, fun l hdue hlast hinterval => ?_⟩
  · have hfalls : r.staleDue s.startOpen.part.reportTable x = true := by
      simp only [Record.staleDue, Bool.and_eq_true, beq_iff_eq, Bool.not_eq_true', decide_eq_true_eq]
      exact ⟨⟨⟨hstate, (StoredReport.ages_iff _ _).mpr ⟨hvalid, hon⟩⟩, hstale⟩, hage⟩
    refine ⟨s.startOpen.part.modRecord t h fun q =>
      { q with reports := q.reports.set x ((r.reports.get x).aged (s.startOpen.part.reportTable.get x)) }, ?_,
      Part.modRecord_onlyRecord _ t h fun _ => ⟨rfl, rfl⟩, Part.record?_modRecord_some hr fun _ => ⟨rfl, rfl⟩⟩
    refine congrArg Host.Outcome.next ((State.takeAtTenth_of_due _ hstage (by simp [hr, hfalls])).trans ?_)
    rw [Part.staleTest_of_due hr hfalls]
    exact State.withPart_raise _ (by exact hquiet) _
  · have htest := Record.pollDueTest_of_due (k := s.startOpen.clock) hstate hon hdue hlast hinterval
    have hchanges : r.pollDueTest s.startOpen.part.reportTable s.startOpen.clock x ≠ r := by
      intro heq
      have hsame : (r.polls.get x).due = some s.startOpen.clock.cycle := by
        rw [← heq, htest]
        exact congrArg PollSchedule.due (PerSlot.get_set_self _ _ _)
      rw [hdue] at hsame
      cases hsame
    have hname : ∀ q : Record,
        (q.pollDueTest s.startOpen.part.reportTable s.startOpen.clock x).tree = q.tree
          ∧ (q.pollDueTest s.startOpen.part.reportTable s.startOpen.clock x).handle = q.handle := fun q => ⟨by simp, by simp⟩
    refine ⟨s.startOpen.part.modRecord t h (·.pollDueTest s.startOpen.part.reportTable s.startOpen.clock x), ?_,
      Part.modRecord_onlyRecord _ t h hname, (Part.record?_modRecord_some hr hname).trans (congrArg some htest)⟩
    refine congrArg Host.Outcome.next ((State.takeAtTenth_of_due _ hstage (by simp [hr, hchanges])).trans ?_)
    exact State.withPart_quiet _ (by exact hquiet)

end Sys2Proof.Machine
end

section
/-!
PROOFS. What the shared changes of the table, the orders and the push engine leave, as one equation each: an order offered
or withdrawn, a push let go, an attempt failed (the statement O31), and the entries of a record to HEARD, REFIND, HELD and FREE
while its push is not being served (the statement O30).
-/

namespace Sys2Proof.Machine

/-! ### Orders offered and withdrawn (R9, R10, R91) -/

/-- Whether an order is the LAG by tag of a record of tree `t` (R91). -/
def Order.isLagOf (t : TreeId) (r : Record) : Order → Bool
  | .lagByTag g h _ => r.named t h && r.tag == g
  | _ => false

/-- A record with its lag-unsent mark (R91). -/
def Record.withUnsent (v : Bool) (r : Record) : Record := { r with lagUnsent := v }

theorem Order.isLagOf_withUnsent (t : TreeId) (v : Bool) (r : Record) (o : Order) :
    o.isLagOf t (r.withUnsent v) = o.isLagOf t r := by
  cases o <;> rfl

theorem Part.markUnsent_records (p : Part) (t : TreeId) (o : Order) (v : Bool) :
    (p.markUnsent t o v).records =
      p.records.map fun r => if o.isLagOf t r then r.withUnsent v else r := by
  cases o <;> simp [Part.markUnsent, Order.isLagOf, Record.withUnsent]

/-- A tree that an order has been offered to (R3, R9). -/
def Tree.offered (o : Order) (T : Tree) : Tree :=
  if !T.enabled then T
  else if T.accepts then { T with queue := T.queue ++ [o] }
  else if T.mayHold o then { T with heldOrders := T.heldOrders ++ [o] }
  else T

theorem Part.offer_eq (p : Part) (t : TreeId) (o : Order) :
    p.offer t o = { p.modTree t (Tree.offered o) with records := (p.offer t o).records } := by
  have htree : ∀ f : Tree → Tree, f (p.tree t) = (p.tree t).offered o → p.modTree t f = p.modTree t (Tree.offered o) :=
    fun f hf => Part.modTree_congr p t hf
  have hmark : ∀ (q : Part) (v : Bool), q.markUnsent t o v = { q with records := (q.markUnsent t o v).records } :=
    fun q v => Part.markUnsent_eq q t o v
  cases he : (p.tree t).enabled with
  | false =>
    rw [Part.offer_of_disabled o he, Part.modTree_of_keeps _ _ _ (by simp [Tree.offered, he])]
  | true =>
    cases ha : (p.tree t).accepts with
    | true =>
      rw [Part.offer_of_accepts o he ha, hmark, htree _ (by simp [Tree.offered, he, ha])]
    | false =>
      cases hm : (p.tree t).mayHold o with
      | true => rw [Part.offer_of_held he ha hm, hmark, htree _ (by simp [Tree.offered, he, ha, hm])]
      | false =>
        rw [Part.offer_of_dropped he ha hm, hmark, Part.modTree_of_keeps _ _ _ (by simp [Tree.offered, he, ha, hm])]

/-- The records after an order is offered: the lag-unsent mark of the record of a LAG by tag follows it (R91). -/
theorem Part.offer_records (p : Part) (t : TreeId) (o : Order) :
    (p.offer t o).records =
      p.records.map fun r =>
        if (p.tree t).enabled && o.isLagOf t r then r.withUnsent (!(p.tree t).accepts) else r := by
  cases he : (p.tree t).enabled with
  | false => simp [Part.offer_of_disabled o he]
  | true =>
    cases ha : (p.tree t).accepts with
    | true => simp [Part.offer_of_accepts o he ha, Part.markUnsent_records]
    | false =>
      cases hm : (p.tree t).mayHold o with
      | true => simp [Part.offer_of_held he ha hm, Part.markUnsent_records]
      | false => simp [Part.offer_of_dropped he ha hm, Part.markUnsent_records]

/-- An order other than a LAG by tag is offered to the tree alone. -/
theorem Part.offer_of_not_lagByTag (p : Part) (t : TreeId) {o : Order} (h : ∀ g n l, o ≠ .lagByTag g n l) :
    p.offer t o = p.modTree t (Tree.offered o) := by
  have hrecords : (p.offer t o).records = p.records := by
    rw [Part.offer_records]
    cases o with
    | lagByTag g n l => exact absurd rfl (h g n l)
    | _ => simp [Order.isLagOf]
  rw [Part.offer_eq, hrecords]
  rfl

/-- A tree from which orders have been withdrawn (R10). -/
def Tree.withdrawn (f : Order → Bool) (T : Tree) : Tree :=
  { T with queue := T.queue.filter fun o => !f o, heldOrders := T.heldOrders.filter fun o => !f o }

theorem Part.foldl_markUnsent_records (t : TreeId) (os : List Order) (p : Part) :
    os.foldl (fun p o => p.markUnsent t o false) p =
      { p with
        records := p.records.map fun r => if os.any (Order.isLagOf t r) then r.withUnsent false else r } := by
  induction os generalizing p with
  | nil => simp
  | cons o os ih =>
    rw [List.foldl_cons, ih, Part.markUnsent_eq p t o false, Part.markUnsent_records]
    simp only [List.map_map]
    refine congrArg (fun rs => { p with records := rs }) (List.map_congr_left fun r _ => ?_)
    simp only [Function.comp_apply, List.any_cons]
    have hsame : os.any (Order.isLagOf t (r.withUnsent false)) = os.any (Order.isLagOf t r) :=
      congrArg os.any (funext (Order.isLagOf_withUnsent t false r))
    by_cases ho : o.isLagOf t r = true
    · simp only [ho, if_true, Bool.true_or, hsame]
      split <;> rfl
    · simp only [ho, if_false, Bool.false_or, Bool.false_eq_true]

/-- What a withdrawal leaves: a held LAG by tag that is withdrawn clears its record's lag-unsent mark (R10, R91). -/
theorem Part.withdraw_eq (p : Part) (t : TreeId) (f : Order → Bool) :
    p.withdraw t f =
      { p.modTree t (Tree.withdrawn f) with
        records := p.records.map fun r =>
          if ((p.tree t).heldOrders.filter f).any (Order.isLagOf t r) then r.withUnsent false else r } := by
  rw [Part.withdraw, Part.foldl_markUnsent_records]
  rfl

theorem Part.withdraw_isPush (p : Part) (t : TreeId) (h : Nat) :
    p.withdraw t (Order.isPush h) = p.modTree t (Tree.withdrawn (Order.isPush h)) :=
  Part.withdraw_of_not_lagByTag p t fun _ _ _ => rfl

/-! ### Expectations (R118) -/

/-- An expectation list in which the entry of a handle has become an orphan (R118). -/
def orphaned (h : Nat) (xs : List Expectation) : List Expectation :=
  xs.map fun e => if e.handle == h then { e with orphan := true } else e

@[simp] theorem orphaned_orphaned (h : Nat) (xs : List Expectation) : orphaned h (orphaned h xs) = orphaned h xs := by
  rw [orphaned, orphaned, List.map_map]
  refine List.map_congr_left fun e _ => ?_
  by_cases he : (e.handle == h) = true
  · simp only [Function.comp_apply, he, if_true]
  · simp only [Function.comp_apply, he, if_false, Bool.false_eq_true]

/-- An expectation list in which the LOAD-STATUS entry of a handle has become an orphan (R118). -/
def orphanedLoadStatus (h : Nat) (xs : List Expectation) : List Expectation :=
  xs.map fun e => if e.handle == h && e.purpose == .loadStatus then { e with orphan := true } else e

@[simp] theorem orphaned_orphanedLoadStatus (h : Nat) (xs : List Expectation) :
    orphaned h (orphanedLoadStatus h xs) = orphaned h xs := by
  rw [orphaned, orphanedLoadStatus, List.map_map]
  refine List.map_congr_left fun e _ => ?_
  by_cases he : e.handle = h <;> by_cases hp : e.purpose = .loadStatus <;> simp [he, hp]

/-! ### The end of a push (R161, R162) -/

/-- The master as the fetcher of a tree, its push ended, leaves it: the bytes of a transfer under way are discarded (R144). -/
def Master.discarding (m : Master) (t : TreeId) : Master :=
  match m.current with
  | some x => if x.requester == .fetcher t then ⟨some { x with discard := true }, m.last⟩ else m
  | none => m

theorem Part.dropFetch_eq (p : Part) (t : TreeId) :
    p.dropFetch t =
      { p.modTree t fun T => { T with fetchWait := none } with master := p.master.discarding t } := by
  simp only [Part.dropFetch, Master.discarding, Part.modTree_master]
  cases p.master.current with
  | none => rfl
  | some x =>
    by_cases hx : x.requester == .fetcher t
    · simp only [hx, if_true]
    · simp only [hx, if_false, Bool.false_eq_true]
      rfl

/-- A tree whose engine has let go of the push of a handle (R161). -/
def Tree.pushCleared (h : Nat) (T : Tree) : Tree :=
  { T.withdrawn (Order.isPush h) with fetchWait := none, engine := .idle }

theorem Part.clearPush_eq (p : Part) (t : TreeId) (h : Nat) :
    p.clearPush t h = { p.modTree t (Tree.pushCleared h) with master := p.master.discarding t } := by
  rw [Part.clearPush, Part.withdraw_isPush, Part.dropFetch_eq]
  cases t <;> rfl

theorem Part.letGo_eq (p : Part) (t : TreeId) (h : Nat) :
    p.letGo t h =
      { p.modTree t fun T =>
          { T.pushCleared h with
            expectations :=
              T.expectations.map fun e =>
                if T.engine.awaiting && e.handle == h && e.purpose == .loadStatus then { e with orphan := true } else e } with
        master := p.master.discarding t } := by
  cases hm : p.master.current <;> simp only [Part.letGo, Master.discarding, hm] <;> rfl

/-- An engine that awaits nothing lets go of its push as R162 clears it. -/
theorem Part.letGo_of_not_awaiting {p : Part} {t : TreeId} (h : Nat) (ha : (p.engine t).awaiting = false) :
    p.letGo t h = p.clearPush t h := by
  rw [Part.letGo_eq, Part.clearPush_eq]
  refine congrArg (fun q : Part => { q with master := p.master.discarding t }) (Part.modTree_congr p t ?_)
  have ha' : (p.tree t).engine.awaiting = false := ha
  simp only [ha', Bool.false_and, Bool.false_eq_true, if_false, List.map_id']
  rfl

theorem Part.letGo_of_awaiting {p : Part} {t : TreeId} (h : Nat) (ha : (p.engine t).awaiting = true) :
    p.letGo t h = (p.orphanLoadStatus t h).clearPush t h := by
  rw [Part.letGo_eq, Part.clearPush_eq, Part.orphanLoadStatus, Part.modExpectations, Part.modTree_modTree]
  refine congrArg (fun q : Part => { q with master := p.master.discarding t }) (Part.modTree_congr p t ?_)
  have ha' : (p.tree t).engine.awaiting = true := ha
  simp only [ha', Bool.true_and]
  rfl

/-- The push ends on a timer (R161). -/
theorem Part.letGo_of_timer (p : Part) (t : TreeId) (h : Nat) :
    (if (p.engine t).awaiting then p.orphanLoadStatus t h else p).clearPush t h = p.letGo t h := by
  cases ha : (p.engine t).awaiting with
  | true => rw [if_pos rfl, Part.letGo_of_awaiting h ha]
  | false => rw [if_neg Bool.false_ne_true, Part.letGo_of_not_awaiting h ha]

/-- The push ends without a timer: its live entry stays as it is (R159). -/
theorem Part.letGo_unawaiting (p : Part) (t : TreeId) (h : Nat) :
    (p.modEngine t fun e => { e with awaiting := false }).letGo t h = p.clearPush t h := by
  rw [Part.letGo_of_not_awaiting h (by rw [Part.engine_modEngine_self]), Part.clearPush_eq, Part.clearPush_eq,
    Part.modEngine, Part.modTree_modTree]
  rfl

@[simp] theorem Part.letGo_records (p : Part) (t : TreeId) (h : Nat) : (p.letGo t h).records = p.records := rfl
@[simp] theorem Part.letGo_record? (p : Part) (t u : TreeId) (h n : Nat) : (p.letGo t h).record? u n = p.record? u n := rfl
@[simp] theorem Part.letGo_raised (p : Part) (t : TreeId) (h : Nat) : (p.letGo t h).raised = p.raised := rfl

/-! ### The entry to HELD (R95) -/

theorem Record.heldFor_name (cause : Cause) (r : Record) :
    (r.heldFor cause).tree = r.tree ∧ (r.heldFor cause).handle = r.handle := ⟨rfl, rfl⟩

theorem Part.record?_name {p : Part} {t : TreeId} {h : Nat} {r : Record} (hr : p.record? t h = some r) :
    r.tree = t ∧ r.handle = h :=
  (Record.named_eq_true_iff r t h).mp (List.find?_some (p := fun q : Record => q.named t h) hr)

theorem Part.holdRecord_eq {p : Part} {t : TreeId} {h : Nat} {r : Record} (hr : p.record? t h = some r) (cause : Cause) :
    p.holdRecord t h cause =
      { (p.modExpectations t (orphaned h)).modRecord t h (·.heldFor cause) with
        raised := p.raised ++ [.terminal t h r.tag r.state .held cause] } := by
  obtain ⟨ht, hh⟩ := Part.record?_name hr
  simp only [Part.holdRecord, hr, Part.raiseTerminal, ht, hh]
  rfl

/-! ### The failure of an attempt (R161) -/

/-- The record of an attempt that failed and that may be tried again, waiting in the queue (R161). -/
def Record.requeued (r : Record) (l : Load) (used : Nat) : Record := { r with load := some ⟨l.profile, .queued, used, none⟩ }

/-- The part after an attempt has failed that may be tried again (R161). -/
def Part.retrying (p : Part) (t : TreeId) (h : Nat) (l : Load) (used : Nat) (n : Notice) : Part :=
  { (p.modTree t fun T => { T with pushQueue := T.pushQueue ++ [h] }).modRecord t h (·.requeued l used) with
    raised := p.raised ++ [n] }

/-- The part after the last attempt has failed (R161, R95). -/
def Part.givenUp (p : Part) (t : TreeId) (h : Nat) (n n' : Notice) : Part :=
  { (p.modExpectations t (orphaned h)).modRecord t h (·.heldFor .loadFail) with raised := p.raised ++ [n, n'] }

section
variable {p : Part} {t : TreeId} {h : Nat} {r : Record} {l : Load} (k : Clock) (reason : FailReason) (code : Nat)
  (byTimer : Bool)

/-- What the engine leaves as the attempt fails (R161): with a timer the entry it awaits becomes an orphan. -/
def Part.failing (p : Part) (t : TreeId) (h : Nat) (byTimer : Bool) : Part :=
  if byTimer then p.letGo t h else p.clearPush t h

theorem Part.failing_eq (p : Part) (t : TreeId) (h : Nat) (byTimer : Bool) :
    (if byTimer && (p.engine t).awaiting then p.orphanLoadStatus t h else p).clearPush t h = p.failing t h byTimer := by
  cases byTimer with
  | false => rfl
  | true => exact Part.letGo_of_timer p t h

theorem Part.failing_settings (p : Part) (t : TreeId) (h : Nat) (byTimer : Bool) :
    ((p.failing t h byTimer).tree t).settings = (p.tree t).settings
      ∧ ((p.failing t h byTimer).tree t).guard = (p.tree t).guard
      ∧ (p.failing t h byTimer).raised = p.raised
      ∧ (p.failing t h byTimer).records = p.records := by
  cases byTimer
  · rw [Part.failing, if_neg Bool.false_ne_true, Part.clearPush_eq]
    cases t <;> exact ⟨rfl, rfl, rfl, rfl⟩
  · rw [Part.failing, if_pos rfl, Part.letGo_eq]
    cases t <;> exact ⟨rfl, rfl, rfl, rfl⟩

/-- An attempt fails: it waits again, or its record is HELD (R161). -/
theorem Part.failAttempt_eq (hserving : (p.engine t).serving = some h) (hr : p.record? t h = some r)
    (hl : r.load = some l) {used : Nat}
    (hused : used = if (p.tree t).guard.present.dark then l.used else l.used + 1) :
    p.failAttempt k t reason code byTimer =
      if (p.tree t).settings.pushRetries < used then
        ((p.failing t h byTimer).givenUp t h
          (.pushFail t h r.tag l.profile (p.engine t).source reason code (p.engine t).ackPoint used
            (!(p.tree t).guard.present.dark) true)
          (.terminal t h r.tag r.state .held .loadFail)).takeTest k t
      else
        ((p.failing t h byTimer).retrying t h l used
          (.pushFail t h r.tag l.profile (p.engine t).source reason code (p.engine t).ackPoint used
            (!(p.tree t).guard.present.dark) false)).takeTest k t := by
  obtain ⟨hsettings, hguard, hraised, hrecords⟩ := Part.failing_settings p t h byTimer
  have hr' : (p.failing t h byTimer).record? t h = some r := by rw [Part.record?, hrecords]; exact hr
  have hcharge : (if (!(p.tree t).guard.present.dark) = true then l.used + 1 else l.used) = used := by
    rw [hused]
    cases (p.tree t).guard.present.dark <;> rfl
  simp only [Part.failAttempt, hserving, Part.failing_eq, hr', hl, hsettings, hguard, hcharge]
  by_cases hlast : (p.tree t).settings.pushRetries < used
  · rw [if_pos hlast, if_pos hlast]
    refine congrArg (Part.takeTest · k t) ?_
    rw [Part.holdRecord_eq (by exact hr'), decide_eq_true hlast, Part.givenUp, Part.raise_raised, List.append_assoc]
    rfl
  · rw [if_neg hlast, if_neg hlast, decide_eq_false hlast]
    rfl

end

/-- An attempt that fails by a timer that has expired (R148, R152, R157, R158). -/
theorem exec_pushTimer_of_due {s : State} {t : TreeId} {c : Instr} {state : EngineState} {timer : Option Timer}
    {reason : FailReason} {start : Tenth} {length : Nat} (hstage : s.startOpen.clock.stage = .boundaryTaken)
    (hc : (c = .prepareTimeout t ∧ state = .preparing ∧ timer = (s.startOpen.part.engine t).prepareTimer ∧ reason = .noReady)
      ∨ (c = .beginTimeout t ∧ state = .resolving ∧ timer = (s.startOpen.part.engine t).beginTimer ∧ reason = .stall)
      ∨ (c = .stallTimeout t ∧ state = .streaming ∧ timer = (s.startOpen.part.engine t).stallTimer ∧ reason = .stall)
      ∨ (c = .commitTimeout t ∧ state = .committing ∧ timer = (s.startOpen.part.engine t).commitTimer
        ∧ reason = .noCommit))
    (hstate : (s.startOpen.part.engine t).state = state) (htimer : timer = some ⟨start, length⟩)
    (hlength : length ≤ tenthsSince s.startOpen.clock.tenth start) :
    exec c s = .next (s.startOpen.withPart (s.startOpen.part.failAttempt s.startOpen.clock t reason 0 true)) := by
  have hexpired : s.startOpen.clock.expiredTimer timer = true := by
    simp [htimer, Clock.expiredTimer, Clock.expired, hlength]
  rcases hc with ⟨rfl, rfl, rfl, rfl⟩ | ⟨rfl, rfl, rfl, rfl⟩ | ⟨rfl, rfl, rfl, rfl⟩ | ⟨rfl, rfl, rfl, rfl⟩ <;>
    exact congrArg Host.Outcome.next (State.takeAtTenth_of_due _ hstage (by simp [hstate, hexpired]))

/-- Settles O31: a timer that expired fails the attempt, and so does any other failure. -/
theorem pushTimersFail : Obligations.PushTimersFail := by
  unfold Obligations.PushTimersFail
  refine ⟨fun s t h r l c state timer reason start length used hraised hstage hc hstate htimer hlength hserving hr hl hused => ?_,
    fun p k t h code used r l reason hserving hr hl hused => ?_⟩
  · have hquiet : s.startOpen.part.raised = [] := (State.startOpen_raised s).trans hraised
    obtain ⟨ht, hh⟩ := Part.record?_name hr
    have hexec := exec_pushTimer_of_due hstage hc hstate htimer hlength
    rw [Part.failAttempt_eq s.startOpen.clock reason 0 true hserving hr hl hused, Part.failing, if_pos rfl] at hexec
    refine ⟨fun hmore => ?_, fun hlast => ?_⟩
    · rw [hexec, if_neg (Nat.not_lt.mpr hmore), Part.retrying, Part.letGo_raised, hquiet]
      rfl
    · rw [hexec, if_pos hlast, Part.givenUp, Part.letGo_raised, hquiet, ht, hh]
      rfl
  · have hfail := Part.failAttempt_eq k reason code false hserving hr hl hused
    rw [Part.failing, if_neg Bool.false_ne_true, ← Part.letGo_unawaiting] at hfail
    refine ⟨fun hmore => ?_, fun hlast => ?_⟩
    · rw [hfail, if_neg (Nat.not_lt.mpr hmore)]
      rfl
    · rw [hfail, if_pos hlast]
      rfl

/-! ### A record leaves its push that is not being served (R90, R93, R95, R96) -/

section
variable {p : Part} {t : TreeId} {h : Nat} {r : Record} (k : Clock)

theorem Part.leavePush_of_not_served (hs : (p.engine t).serving ≠ some h) :
    p.leavePush k t h = p.modTree t fun T => { T with pushQueue := T.pushQueue.filter (· != h) } := by
  simp [Part.leavePush, hs]

/-- An orphan made, a place in the push queue given up (R95, R118, R145). -/
theorem Part.orphan_leavePush_of_not_served (hs : (p.engine t).serving ≠ some h) :
    (p.orphan t h).leavePush k t h = p.heldBack t h := by
  rw [Part.leavePush_of_not_served k (by rw [Part.orphan, Part.modExpectations, Part.engine, Part.tree_modTree_self]; exact hs),
    Part.orphan, Part.modExpectations, Part.modTree_modTree]
  rfl

theorem Part.enterHeld_of_not_served (hr : p.record? t h = some r) (hs : (p.engine t).serving ≠ some h) (cause : Cause) :
    p.enterHeld k t h cause =
      { (p.heldBack t h).modRecord t h (·.heldFor cause) with
        raised := p.raised ++ [.terminal t h r.tag r.state .held cause] } := by
  rw [Part.enterHeld, Part.orphan_leavePush_of_not_served k hs, Part.holdRecord_eq (by exact hr)]
  have hidem : (p.heldBack t h).modExpectations t (orphaned h) = p.heldBack t h :=
    Part.modTree_of_keeps _ _ _ (by
      rw [Part.heldBack, Part.tree_modTree_self]
      exact congrArg (fun xs => { p.tree t with
        expectations := xs, pushQueue := (p.tree t).pushQueue.filter (· != h) }) (orphaned_orphaned h _))
  rw [hidem]
  rfl

theorem Part.enterRefind_of_not_served (hr : p.record? t h = some r) (hs : (p.engine t).serving ≠ some h) (cause : Cause) :
    p.enterRefind k t h cause =
      { (p.relistened t h).modRecord t h
          (·.refound cause (k.tenth + BitVec.ofNat 32 (10 * (p.tree t).settings.refindTime))) with
        raised := p.raised ++ [.terminal t h r.tag r.state .refind cause] } := by
  obtain ⟨ht, hh⟩ := Part.record?_name hr
  have hoffer := Part.offer_of_not_lagByTag p t (o := .relisten h) (fun _ _ _ => Order.noConfusion)
  have hserving : ((p.offer t (.relisten h)).engine t).serving ≠ some h := by
    rw [hoffer, Part.engine, Part.tree_modTree_self, Tree.offered]
    (repeat' split) <;> exact hs
  simp only [Part.enterRefind, hr, Part.orphan_leavePush_of_not_served k hserving, Part.raiseTerminal, ht, hh]
  rw [Part.relistened, hoffer]
  rfl

/-- A record as its entry to HEARD leaves it (R90). -/
def Record.reheard (r : Record) (cause : Cause) : Record :=
  { r.startUpkeep with
    state := .heard
    cause := cause
    load := none
    refind := none
    attentionMark := none
    upkeepDue := false
    check := .none }

theorem Part.enterHeard_of_not_served (hr : p.record? t h = some r) (hs : (p.engine t).serving ≠ some h) (cause : Cause) :
    p.enterHeard k t h cause =
      { (p.heldBack t h).modRecord t h (·.reheard cause) with
        raised := p.raised ++ [.terminal t h r.tag r.state .heard cause] } := by
  obtain ⟨ht, hh⟩ := Part.record?_name hr
  simp only [Part.enterHeard, hr, Part.orphan_leavePush_of_not_served k hs, Part.raiseTerminal, ht, hh]
  rfl

/-- A change that keeps the records of other names is not seen once the records of the name are gone. -/
theorem filter_not_named_map {t : TreeId} {h : Nat} {f : Record → Record} (hname : ∀ r, (f r).named t h = r.named t h)
    (hkeep : ∀ r, r.named t h = false → f r = r) (l : List Record) :
    ((l.map f).filter fun r => !r.named t h) = l.filter fun r => !r.named t h := by
  induction l with
  | nil => rfl
  | cons r l ih =>
    rw [List.map_cons, List.filter_cons, List.filter_cons, hname, ih]
    cases hr : r.named t h with
    | true => rfl
    | false => rw [hkeep r hr]

/-- The LAG by tag that a freeing withdraws is one of the record freed: the others keep their lag-unsent marks (R91, R96). -/
theorem Part.withdraw_isOfFreed_dropRecord (p : Part) (t : TreeId) (h : Nat) :
    (p.withdraw t (Order.isOfFreed h)).dropRecord t h =
      (p.modTree t (Tree.withdrawn (Order.isOfFreed h))).dropRecord t h := by
  rw [Part.withdraw_eq]
  refine congrArg (fun rs => { p.modTree t (Tree.withdrawn (Order.isOfFreed h)) with records := rs })
    (filter_not_named_map (f := fun r =>
      if ((p.tree t).heldOrders.filter (Order.isOfFreed h)).any (Order.isLagOf t r) then r.withUnsent false else r)
      (fun r => ?_) (fun r hr => if_neg ?_) p.records)
  · split <;> rfl
  rw [Bool.not_eq_true, List.any_eq_false]
  intro o ho hlag
  have hfreed := (List.mem_filter.mp ho).2
  cases o with
  | lagByTag g n l =>
    obtain rfl : n = h := beq_iff_eq.mp hfreed
    simp [Order.isLagOf, hr] at hlag
  | _ => cases hlag

theorem Part.freeRecord_of_not_served (hr : p.record? t h = some r) (hs : (p.engine t).serving ≠ some h) (cause : Cause) :
    p.freeRecord k t h cause =
      { p.freed t h r.tag with raised := p.raised ++ [.terminal t h r.tag r.state .free cause] } := by
  obtain ⟨ht, hh⟩ := Part.record?_name hr
  obtain ⟨q, hq⟩ : ∃ q, q = p.modEntry r.tag fun e => { e with bound := false } := ⟨_, rfl⟩
  have hserving : ((q.withdraw t (Order.isOfFreed h)).engine t).serving ≠ some h := by
    rw [Part.withdraw_eq, hq]
    simpa [Part.engine, Part.tree, Part.modTree, Tree.withdrawn, Part.modEntry] using hs
  have hswap : ((q.withdraw t (Order.isOfFreed h)).heldBack t h).dropRecord t h =
      ((q.withdraw t (Order.isOfFreed h)).dropRecord t h).heldBack t h := rfl
  simp only [Part.freeRecord, hr, ← hq, Part.orphan_leavePush_of_not_served k hserving, Part.raiseTerminal, ht, hh, hswap,
    Part.withdraw_isOfFreed_dropRecord]
  rw [hq]
  cases t <;> rfl

end

/-! ### What a tenth boundary brings to a record and to the guard (R94, R177) -/

theorem Record.deadlineReached_iff (r : Record) (n d : Tenth) (hd : r.refind = some d) :
    r.deadlineReached n = true ↔ r.state = .refind ∧ tenthsSince n d < 2147483648 := by
  simp [Record.deadlineReached, hd]

/-- Settles O30: the record is freed with the cause GONE, and the guard leaves HUSH. -/
theorem deadlineAndResume : Obligations.DeadlineAndResume := by
  unfold Obligations.DeadlineAndResume
  intro s t hraised hstage
  have hquiet : s.startOpen.part.raised = [] := (State.startOpen_raised s).trans hraised
  refine ⟨fun h r d hr hstate hd hreached hserving => ?_, fun start length hhush hresume hlength => ?_⟩
  · have hdue := (Record.deadlineReached_iff r s.startOpen.clock.tenth d hd).mpr ⟨hstate, hreached⟩
    have hexec : exec (.refindDeadline t h) s =
        .next (s.startOpen.withPart (s.startOpen.part.freeRecord s.startOpen.clock t h .gone)) := by
      refine congrArg Host.Outcome.next ((State.takeAtTenth_of_due _ hstage (by simp [hr, hdue])).trans ?_)
      simp only [Part.deadlineTest, hr, hdue, if_true]
    rw [hexec, Part.freeRecord_of_not_served _ hr hserving, hquiet, hstate]
    exact congrArg Host.Outcome.next (State.withPart_raising _ (by exact hquiet) _)
  · refine congrArg Host.Outcome.next ((State.takeAtTenth_of_due _ hstage ?_).trans ?_)
    · simp [hhush, hresume, Clock.expiredTimer, Clock.expired, hlength]
    · exact State.withPart_raise _ (by exact hquiet) _

end Sys2Proof.Machine
end

section
/-!
PROOFS. The upstream side between two commands (the statements O33, O34, O35, O38, O39): light and seek periods, bursts, the order
of dispatch, the close of a window, and the arithmetic unit.
-/

namespace Sys2Proof.Machine

/-! ### Events of a settled state -/

section
variable {s : State} {pos : Nat}

/-- Between commands an event at a position not gone by is taken there. -/
theorem State.Settled.eventAt (hs : s.Settled) (h1 : s.clock.pos ≤ pos) (h2 : pos < 131072) (f : State → Option State) :
    s.eventAt pos f = (f (s.atPos pos)).getD s :=
  State.eventAt_of_closed f hs.1 h1 h2

theorem State.Settled.ready (hs : s.Settled) : s.ready = s := State.ready_of_closed hs.1

/-- A change of one tree, at a settled state, raises nothing. -/
theorem State.Settled.onTree (hs : s.Settled) (t : TreeId) (f : Tree → Tree) :
    (s.atPos pos).onTree t f = (s.atPos pos).afterEvent (s.part.modTree t f) [] :=
  State.withPart_quiet (s.atPos pos) (by exact hs.2)

theorem State.Settled.withPart_modTree (hs : s.Settled) (t : TreeId) (f : Tree → Tree) :
    s.withPart (s.part.modTree t f) = s.afterEvent (s.part.modTree t f) [] :=
  State.withPart_quiet s (by exact hs.2)

end

/-! ### Light and seek periods (R11, R13, R175) -/

/-- A guard as the end of DARK leaves it (R175, R177). -/
def Guard.lit (g : Guard) (k : Clock) (delay : Nat) : Guard :=
  { g with
    present := { g.present with dark := false }
    resume :=
      if g.hush = true ∧ g.present.stray = false ∧ g.present.storm = false then some ⟨k.tenth, delay⟩ else g.resume }

/-- DARK ends, and the test of R146 is made (R175). -/
theorem Part.endFactor_dark (p : Part) (k : Clock) (t : TreeId) :
    p.endFactor k t .dark =
      (p.modTree t fun T => { T with guard := T.guard.lit k T.settings.resumeDelay }).takeTest k t := by
  simp only [Part.endFactor, Part.startResume, Part.modGuard, Part.tree_modTree_self, beq_self_eq_true, if_true]
  refine congrArg (Part.takeTest · k t) ?_
  have hcond : ((p.tree t).guard.hush && !((p.tree t).guard.present.put .dark false).any) = true ↔
      (p.tree t).guard.hush = true ∧ (p.tree t).guard.present.stray = false ∧ (p.tree t).guard.present.storm = false := by
    simp [Factors.any, Factors.put]
  by_cases hresume :
      (p.tree t).guard.hush = true ∧ (p.tree t).guard.present.stray = false ∧ (p.tree t).guard.present.storm = false
  · rw [if_pos (hcond.mpr hresume), Part.modTree_modTree]
    refine Part.modTree_congr p t ?_
    simp only [Guard.lit, if_pos hresume]
    rfl
  · rw [if_neg (fun h => hresume (hcond.mp h))]
    refine Part.modTree_congr p t ?_
    simp only [Guard.lit, if_neg hresume]
    rfl

/-- The instants of a cycle lie as far apart as their positions. -/
theorem timeDiff_atPos (k : Clock) {pos : Nat} (h1 : k.pos ≤ pos) (h2 : pos < 131072) :
    timeDiff ({ k with pos := pos } : Clock).treeTime k.treeTime = (pos - k.pos : Nat) := by
  have hpos : BitVec.ofNat 33 pos = BitVec.ofNat 33 (pos - k.pos) + BitVec.ofNat 33 k.pos := by
    rw [← BitVec.ofNat_add, Nat.sub_add_cancel h1]
  have hdiff : ({ k with pos := pos } : Clock).treeTime - k.treeTime = BitVec.ofNat 33 (pos - k.pos) := by
    simp only [Clock.treeTime]
    rw [hpos]
    generalize BitVec.ofNat 33 (pos - k.pos) = d
    generalize BitVec.ofNat 33 k.pos = b
    generalize startOf k.cycle = c
    rw [← BitVec.add_assoc, BitVec.add_assoc c d b, BitVec.add_comm d b, ← BitVec.add_assoc, BitVec.add_comm (c + b) d,
      BitVec.add_sub_cancel]
  rw [timeDiff, hdiff, BitVec.toInt_eq_toNat_of_lt, BitVec.toNat_ofNat, Nat.mod_eq_of_lt (by omega)]
  rw [BitVec.toNat_ofNat, Nat.mod_eq_of_lt (by omega)]
  omega

theorem Clock.positionOf_atPos (k : Clock) {pos : Nat} (h1 : k.pos ≤ pos) (h2 : pos < 131072) {x : TreeTime}
    (hx : ({ k with pos := pos } : Clock).treeTime = x) : k.positionOf x = some pos := by
  rw [Clock.positionOf, ← hx, timeDiff_atPos k h1 h2]
  by_cases hd : ((pos - k.pos : Nat) : Int) ≤ 0
  · rw [if_pos hd]
    exact congrArg some (by omega)
  · rw [if_neg hd, Int.toNat_natCast, Nat.add_sub_cancel' h1]
    exact if_pos h2

/-- Settles O33: each case of an onset, then the oldest seek period ends in light or in the dark. -/
theorem lightAndSeek : Obligations.LightAndSeek := by
  unfold Obligations.LightAndSeek
  intro s t pos dark hs h1 h2
  have honset : exec (.lightOnset t pos dark) s = .next ((s.atPos pos).lightOnset t dark) :=
    congrArg Host.Outcome.next (hs.eventAt h1 h2 _)
  refine ⟨fun hdisabled => ?_, fun henabled hdark => ?_, fun henabled hdark => ?_, fun q rest hq htime => ?_⟩
  · rw [honset]
    exact congrArg Host.Outcome.next (if_neg (by simpa [State.atPos] using hdisabled))
  · rw [honset]
    refine congrArg Host.Outcome.next ((if_pos henabled).trans ?_)
    rw [Part.onsetEndsDark, Part.tree_modTree_self]
    refine (congrArg (State.withPart _) (if_neg ?_)).trans (hs.onTree t _)
    exact fun h => absurd (hdark.symm.trans h) Bool.false_ne_true
  · rw [honset]
    refine congrArg Host.Outcome.next ((if_pos henabled).trans (congrArg (State.withPart _) ?_))
    rw [Part.onsetEndsDark, Part.tree_modTree_self]
    refine (if_pos (by exact hdark)).trans ?_
    rw [Part.endFactor_dark, Part.modTree_modTree]
    rfl
  · have hends : ∀ lit : Bool, exec (.seekPeriodEnd t lit) s =
        .next ((s.atPos pos).afterEvent (s.part.modTree t (·.seekEnds q rest lit)) []) := by
      intro lit
      have hposition : s.clock.positionOf q.ends = some pos := Clock.positionOf_atPos s.clock h1 h2 htime
      have hseek : s.seekEnds t lit = some ((s.atPos pos).onTree t (·.seekEnds q rest lit)) := by
        simp only [State.seekEnds, hq, hposition, Option.map_some]
        rfl
      have hexec : exec (.seekPeriodEnd t lit) s = .next ((s.ready.seekEnds t lit).getD s) := rfl
      rw [hexec, hs.ready, hseek, Option.getD_some, hs.onTree]
    exact ⟨hends true, hends false⟩

/-! ### Bursts (R11, R12, R51) -/

/-- A delimiter belongs to the youngest seek period, when that one has not ended. -/
theorem Tree.seekFor_of_getLast? {T : Tree} {now : TreeTime} {q : Seek} (hq : T.seeks.getLast? = some q)
    (hopen : elapsed now q.opened ≤ 2000) : T.seekFor now = some q := by
  obtain ⟨before, hsplit⟩ := List.getLast?_eq_some_iff.mp hq
  rw [Tree.seekFor, hsplit, List.reverse_append, List.reverse_singleton, List.singleton_append, List.find?_cons_of_pos]
  exact decide_eq_true hopen

theorem Burst.arrival_eq_none {b : Burst} (h : b.ended = none ∨ b.decoded = none) : b.arrival = none := by
  obtain h | h := h <;> simp [Burst.arrival, h]

/-- What a burst that has ended and is decoded is as it waits for dispatch (R12). -/
def burstContent (quietLead endCode : Bool) (fine : Nat) (coarse : QuarterNo) (reply : Option TreeReply) : Content :=
  match reply with
  | some r => if quietLead = true ∧ endCode = true then .valid fine coarse r else .errored
  | none => .errored

theorem Burst.arrival_of_both {b : Burst} {endCode : Bool} {coarse : QuarterNo} {reply : Option TreeReply}
    (he : b.ended = some endCode) (hd : b.decoded = some (coarse, reply)) :
    b.arrival = some ⟨reconcile b.fine coarse, b.opened, burstContent b.quietLead endCode b.fine coarse reply⟩ := by
  cases reply with
  | none => simp [Burst.arrival, he, hd, burstContent]
  | some r => simp [Burst.arrival, he, hd, burstContent]

/-- Of the bursts behind one none of which has both ended and been decoded, that one alone becomes an arrival. -/
theorem Tree.finishBursts_cons (T : Tree) {b : Burst} {rest : List Burst} (hb : T.bursts = b :: rest)
    (hrest : ∀ x ∈ rest, x.ended = none ∨ x.decoded = none) :
    T.finishBursts =
      { T with
        bursts := if b.arrival = none then b :: rest else rest
        arrivals := T.arrivals ++ b.arrival.toList } := by
  have hfilter : rest.filter (·.arrival.isNone) = rest :=
    List.filter_eq_self.mpr fun x hx => by simp [Burst.arrival_eq_none (hrest x hx)]
  have hnone : rest.filterMap Burst.arrival = [] :=
    List.filterMap_eq_nil_iff.mpr fun x hx => Burst.arrival_eq_none (hrest x hx)
  rw [Tree.finishBursts, hb, List.filter_cons, List.filterMap_cons, hfilter, hnone]
  cases b.arrival <;> rfl

theorem Tree.lightGoesOn_eq (T : Tree) (now : TreeTime) (lit : Bool) :
    T.lightGoesOn now lit =
      { T with
        seeks := if lit then T.seeks ++ [⟨now, false⟩] else T.seeks
        lit := lit
        lightSeen := T.lightSeen || lit } := by
  cases lit <;> simp [Tree.lightGoesOn]

/-- The oldest burst ends (R11). -/
theorem Tree.burstEnds_cons {T : Tree} {b : Burst} {rest : List Burst} (hb : T.bursts = b :: rest) (hended : b.ended = none)
    (hrest : ∀ x ∈ rest, x.ended = none ∨ x.decoded = none) (now : TreeTime) (endCode lit : Bool) :
    T.burstEnds now endCode lit =
      { T with
        bursts := if b.decoded = none then { b with ended := some endCode } :: rest else rest
        arrivals := T.arrivals ++
          match b.decoded with
          | none => []
          | some (coarse, reply) =>
            [⟨reconcile b.fine coarse, b.opened, burstContent b.quietLead endCode b.fine coarse reply⟩]
        seeks := if lit then T.seeks ++ [⟨now, false⟩] else T.seeks
        lit := lit
        lightSeen := T.lightSeen || lit } := by
  have hmod : modNth (·.ended.isNone) (fun b => { b with ended := some endCode }) 0 T.bursts =
      { b with ended := some endCode } :: rest := by
    rw [hb]
    simp [modNth, hended]
  rw [Tree.burstEnds, hmod, Tree.lightGoesOn_eq, Tree.finishBursts_cons _ rfl hrest]
  cases hd : b.decoded with
  | none =>
    have harrival : ({ b with ended := some endCode } : Burst).arrival = none := Burst.arrival_eq_none (Or.inr hd)
    rw [hd] at harrival
    simp only [harrival, if_true, Option.toList_none]
  | some d =>
    have harrival := Burst.arrival_of_both (b := { b with ended := some endCode }) rfl hd
    rw [hd] at harrival
    simp only [harrival, reduceCtorEq, if_false, Option.toList_some]

/-- The oldest burst is decoded (R12). -/
theorem Tree.decoded_cons {T : Tree} {b : Burst} {rest : List Burst} (hb : T.bursts = b :: rest)
    (hdecoded : b.decoded = none) (hrest : ∀ x ∈ rest, x.ended = none ∨ x.decoded = none) (quarter : QuarterNo)
    (cell : List Byte) :
    T.decoded quarter 0 cell =
      { T with
        bursts := if b.ended = none then { b with decoded := some (quarter, decodeReply cell) } :: rest else rest
        arrivals := T.arrivals ++
          match b.ended with
          | none => []
          | some endCode =>
            [⟨reconcile b.fine quarter, b.opened, burstContent b.quietLead endCode b.fine quarter (decodeReply cell)⟩] } := by
  have hmod : modNth (·.decoded.isNone) (fun b => { b with decoded := some (quarter, decodeReply cell) }) 0 T.bursts =
      { b with decoded := some (quarter, decodeReply cell) } :: rest := by
    rw [hb]
    simp [modNth, hdecoded]
  rw [Tree.decoded, hmod, Tree.finishBursts_cons _ rfl hrest]
  cases he : b.ended with
  | none =>
    have harrival : ({ b with decoded := some (quarter, decodeReply cell) } : Burst).arrival = none :=
      Burst.arrival_eq_none (Or.inl he)
    rw [he] at harrival
    simp only [harrival, if_true, Option.toList_none]
  | some e =>
    have harrival := Burst.arrival_of_both (b := { b with decoded := some (quarter, decodeReply cell) }) he rfl
    rw [he] at harrival
    simp only [harrival, reduceCtorEq, if_false, Option.toList_some]

/-- Settles O34: a delimiter makes a burst; a burst's end and its decoding, whichever comes last, make the arrival. -/
theorem burstReceived : Obligations.BurstReceived := by
  unfold Obligations.BurstReceived
  intro s t pos hs h1 h2
  refine ⟨fun q hq hopen => ?_, fun b rest hb hrest => ⟨fun endCode lit hended => ?_, fun cell hdecoded hfound => ?_⟩⟩
  · have hseek : (s.atPos pos).delimiterFound t =
        some ((s.atPos pos).onTree t (·.delimiter (s.atPos pos).clock.treeTime pos q)) := by
      have hfor : ((s.atPos pos).part.tree t).seekFor (s.atPos pos).clock.treeTime = some q :=
        Tree.seekFor_of_getLast? hq hopen
      rw [State.delimiterFound, hfor]
      rfl
    have hexec : exec (.delimiterFound t pos) s = .next (((s.atPos pos).delimiterFound t).getD s) :=
      congrArg Host.Outcome.next (hs.eventAt h1 h2 _)
    rw [hexec, hseek, Option.getD_some, hs.onTree]
    rfl
  · have hends : (s.atPos pos).burstEnds t endCode lit =
        some ((s.atPos pos).onTree t (·.burstEnds (s.atPos pos).clock.treeTime endCode lit)) := by
      have hany : ((s.atPos pos).part.tree t).bursts.any (·.ended.isNone) = true := by
        have hb' : ((s.atPos pos).part.tree t).bursts = b :: rest := hb
        simp [hb', hended]
      rw [State.burstEnds, if_pos hany]
    have hexec : exec (.burstEnd t pos endCode lit) s = .next (((s.atPos pos).burstEnds t endCode lit).getD s) :=
      congrArg Host.Outcome.next (hs.eventAt h1 h2 _)
    rw [hexec, hends, Option.getD_some, hs.onTree]
    refine congrArg (fun q => Host.Outcome.next ((s.atPos pos).afterEvent q [])) (Part.modTree_congr _ t ?_)
    refine (Tree.burstEnds_cons hb hended hrest _ endCode lit).trans ?_
    cases b.decoded <;> rfl
  · have hundecoded : ((s.atPos pos).part.tree t).undecoded 0 = some b := by
      have hb' : ((s.atPos pos).part.tree t).bursts = b :: rest := hb
      simp [Tree.undecoded, hb', hdecoded]
    have hcell : (s.atPos pos).cellDecoded t 0 cell =
        some ((s.atPos pos).onTree t (·.decoded (s.atPos pos).clock.quarter 0 cell)) := by
      simp only [State.cellDecoded, hundecoded]
      exact if_pos hfound
    have hexec : exec (.cellDecoded t 0 pos cell) s = .next (((s.atPos pos).cellDecoded t 0 cell).getD s) :=
      congrArg Host.Outcome.next (hs.eventAt h1 h2 _)
    rw [hexec, hcell, Option.getD_some, hs.onTree]
    refine congrArg (fun q => Host.Outcome.next ((s.atPos pos).afterEvent q [])) (Part.modTree_congr _ t ?_)
    refine (Tree.decoded_cons hb hdecoded hrest _ cell).trans ?_
    cases b.ended <;> rfl

/-! ### The order of dispatch (R14) and the settled time (R15) -/

theorem earliest_eq_none_iff (now : TreeTime) (l : List Arrival) : earliest now l = none ↔ l = [] := by
  cases l with
  | nil => simp [earliest]
  | cons a l =>
    simp only [earliest, reduceCtorEq, iff_false]
    (repeat' split) <;> simp

/-- The arrival of the earliest arrival time, the first of equals (R14). -/
theorem earliest_split {now : TreeTime} {l : List Arrival} {a : Arrival} (h : earliest now l = some a) :
    ∃ pre post, l = pre ++ a :: post ∧ (∀ x ∈ pre, elapsed now x.time < elapsed now a.time)
      ∧ ∀ x ∈ post, elapsed now x.time ≤ elapsed now a.time := by
  induction l generalizing a with
  | nil => cases h
  | cons b l ih =>
    cases hl : earliest now l with
    | none =>
      obtain rfl : b = a := by simpa [earliest, hl] using h
      obtain rfl := (earliest_eq_none_iff now l).mp hl
      exact ⟨[], [], rfl, by simp, by simp⟩
    | some c =>
      obtain ⟨pre, post, rfl, hpre, hpost⟩ := ih hl
      by_cases hlt : elapsed now b.time < elapsed now c.time
      · obtain rfl : c = a := by simpa [earliest, hl, hlt] using h
        exact ⟨b :: pre, post, rfl, List.forall_mem_cons.mpr ⟨hlt, hpre⟩, hpost⟩
      · obtain rfl : b = a := by simpa [earliest, hl, hlt] using h
        have hle := Nat.not_lt.mp hlt
        refine ⟨[], _, rfl, by simp, List.forall_mem_append.mpr ⟨fun x hx => ?_, List.forall_mem_cons.mpr ⟨hle, fun x hx => ?_⟩⟩⟩
        · exact Nat.le_trans (Nat.le_of_lt (hpre x hx)) hle
        · exact Nat.le_trans (hpost x hx) hle

theorem earliest_of_split {now : TreeTime} {a : Arrival} {pre post : List Arrival}
    (hpre : ∀ x ∈ pre, elapsed now x.time < elapsed now a.time) (hpost : ∀ x ∈ post, elapsed now x.time ≤ elapsed now a.time) :
    earliest now (pre ++ a :: post) = some a := by
  induction pre with
  | nil =>
    rw [List.nil_append, earliest]
    cases hl : earliest now post with
    | none => rfl
    | some c =>
      obtain ⟨pre', post', hsplit, -, -⟩ := earliest_split hl
      have hle : elapsed now c.time ≤ elapsed now a.time := hpost c (by simp [hsplit])
      simp [Nat.not_lt.mpr hle]
  | cons b pre ih =>
    rw [List.cons_append, earliest, ih fun x hx => hpre x (List.mem_cons_of_mem b hx)]
    simp [hpre b List.mem_cons_self]

theorem earliest_eq_some_iff (now : TreeTime) (l : List Arrival) (a : Arrival) :
    earliest now l = some a ↔
      ∃ pre post, l = pre ++ a :: post ∧ (∀ x ∈ pre, elapsed now x.time < elapsed now a.time)
        ∧ ∀ x ∈ post, elapsed now x.time ≤ elapsed now a.time := by
  constructor
  · exact earliest_split
  · rintro ⟨pre, post, rfl, hpre, hpost⟩
    exact earliest_of_split hpre hpost

theorem Tree.mustWait_eq_false_iff (T : Tree) (now : TreeTime) (a : Arrival) :
    T.mustWait now a = false ↔
      (∀ q ∈ T.seeks, elapsed now q.opened ≤ elapsed now a.time) ∧ ∀ b ∈ T.bursts, elapsed now b.found ≤ elapsed now a.time := by
  simp [Tree.mustWait]

theorem Tree.nextArrival_eq_some_iff (T : Tree) (now : TreeTime) (a : Arrival) :
    T.nextArrival now = some a ↔ earliest now T.arrivals = some a ∧ T.mustWait now a = false := by
  rw [Tree.nextArrival]
  cases earliest now T.arrivals with
  | none => simp
  | some b =>
    simp only [Option.some.injEq, Option.ite_none_left_eq_some, Bool.not_eq_true]
    exact ⟨fun ⟨h1, h2⟩ => ⟨h2, h2 ▸ h1⟩, fun ⟨h1, h2⟩ => ⟨h1 ▸ h2, h1⟩⟩

/-- The openings of what a tree has not fully dispatched (R15). -/
def Tree.openings (T : Tree) : List TreeTime :=
  T.seeks.map (·.opened) ++ T.bursts.map (·.opened) ++ T.arrivals.map (·.opened)

theorem Tree.mem_openings {T : Tree} {x : TreeTime} :
    x ∈ T.openings ↔ x ∈ T.seeks.map (·.opened) ∨ x ∈ T.bursts.map (·.opened) ∨ x ∈ T.arrivals.map (·.opened) := by
  rw [Tree.openings, List.mem_append, List.mem_append, or_assoc]

theorem le_foldl_max (l : List Nat) (n : Nat) : n ≤ l.foldl max n ∧ ∀ x ∈ l, x ≤ l.foldl max n := by
  induction l generalizing n with
  | nil => simp
  | cons a l ih =>
    obtain ⟨h1, h2⟩ := ih (max n a)
    refine ⟨Nat.le_trans (Nat.le_max_left n a) h1, fun x hx => ?_⟩
    obtain rfl | hx := List.mem_cons.mp hx
    · exact Nat.le_trans (Nat.le_max_right n x) h1
    · exact h2 x hx

theorem foldl_max_mem (l : List Nat) (n : Nat) : l.foldl max n = n ∨ l.foldl max n ∈ l := by
  induction l generalizing n with
  | nil => exact Or.inl rfl
  | cons a l ih =>
    rw [List.foldl_cons]
    obtain h | h := ih (max n a)
    · rw [h]
      obtain h' | h' := Nat.le_total n a
      · rw [Nat.max_eq_right h']
        exact Or.inr List.mem_cons_self
      · exact Or.inl (Nat.max_eq_left h')
    · exact Or.inr (List.mem_cons_of_mem a h)

theorem sub_ofNat_elapsed (now x : TreeTime) : now - BitVec.ofNat 33 (elapsed now x) = x := by
  rw [elapsed, BitVec.ofNat_toNat, BitVec.setWidth_eq]
  bv_omega

/-- How long ago the settled time is: as long as the longest opening not dispatched (R15). -/
theorem Tree.settledTime_cases (T : Tree) (now : TreeTime) :
    (T.settledTime now = now ∨ T.settledTime now ∈ T.openings)
      ∧ ∀ x ∈ T.openings, elapsed now x ≤ elapsed now (T.settledTime now) := by
  obtain ⟨n, hn⟩ : ∃ n, n = (T.openings.map (elapsed now)).foldl max 0 := ⟨_, rfl⟩
  have hsettled : T.settledTime now = now - BitVec.ofNat 33 n := by rw [hn]; rfl
  have hmax : ∀ x ∈ T.openings, elapsed now x ≤ n := fun x hx => by
    rw [hn]
    exact (le_foldl_max _ 0).2 _ (List.mem_map_of_mem hx)
  obtain h0 | hmem := foldl_max_mem (T.openings.map (elapsed now)) 0
  · rw [← hn] at h0
    have hnow : T.settledTime now = now := by rw [hsettled, h0]; exact BitVec.sub_zero now
    exact ⟨Or.inl hnow, fun x hx => Nat.le_trans (hmax x hx) (h0 ▸ Nat.zero_le _)⟩
  · obtain ⟨y, hy, hyn⟩ := List.mem_map.mp hmem
    have hopen : T.settledTime now = y := by rw [hsettled, hn, ← hyn, sub_ofNat_elapsed]
    refine ⟨Or.inr (hopen ▸ hy), fun x hx => ?_⟩
    rw [hopen, hyn, ← hn]
    exact hmax x hx

/-- Settles O35: the dispatcher's choice, and the settled time. -/
theorem dispatchOrder : Obligations.DispatchOrder := by
  unfold Obligations.DispatchOrder
  intro T now
  obtain ⟨hcases, hmax⟩ := T.settledTime_cases now
  refine ⟨fun a => ?_, fun hseeks hbursts harrivals => ?_, fun x hx => hmax x (Tree.mem_openings.mpr hx), ?_⟩
  · rw [Tree.nextArrival_eq_some_iff, earliest_eq_some_iff, Tree.mustWait_eq_false_iff]
    constructor
    · rintro ⟨⟨pre, post, hsplit, hpre, hpost⟩, hseeks, hbursts⟩
      exact ⟨pre, post, hsplit, hpre, hpost, hseeks, hbursts⟩
    · rintro ⟨pre, post, hsplit, hpre, hpost, hseeks, hbursts⟩
      exact ⟨⟨pre, post, hsplit, hpre, hpost⟩, hseeks, hbursts⟩
  · obtain h | h := hcases
    · exact h
    · simp [Tree.openings, hseeks, hbursts, harrivals] at h
  · exact hcases.imp_right Tree.mem_openings.mp

/-! ### The close of a window (R44, R45, R176, R177) -/

theorem Part.raise_modTree (p : Part) (n : Notice) (t : TreeId) (f : Tree → Tree) :
    (p.raise n).modTree t f = (p.modTree t f).raise n := rfl

/-- Changes of one tree pass over the notices raised. -/
theorem Part.raised_modTree_modTree (p : Part) (ns ms : List Notice) (t : TreeId) (f g : Tree → Tree) :
    ({ ({ p.modTree t f with raised := ns } : Part).modTree t g with raised := ms } : Part) =
      { p.modTree t (fun T => g (f T)) with raised := ms } := by
  cases t <;> rfl

/-- A tree whose window closes (R44). -/
def Tree.windowClosed (win : Window) (T : Tree) : Tree :=
  { T with scheduler := { T.scheduler with phase := .idle, spread := nextSpread T.settings win } }

/-- The WINDOW notice of a window that closes (R44). -/
def Tree.windowNotices (T : Tree) (t : TreeId) (win : Window) : List Notice :=
  if T.settings.windowSummaries then
    [.window t T.scheduler.number win.spread win.h win.c (nextSpread T.settings win)]
  else []

theorem Part.closeWindow_eq (p : Part) (k : Clock) (t : TreeId) (win : Window) :
    p.closeWindow k t win =
      { (p.stormTest k t win.c).modTree t (Tree.windowClosed win) with
        raised := (p.stormTest k t win.c).raised ++ ((p.stormTest k t win.c).tree t).windowNotices t win } := by
  simp only [Part.closeWindow, Tree.windowNotices]
  cases ((p.stormTest k t win.c).tree t).settings.windowSummaries with
  | false =>
    rw [if_neg Bool.false_ne_true, if_neg Bool.false_ne_true, List.append_nil]
    exact Part.modTree_congr _ t rfl
  | true =>
    rw [if_pos rfl, if_pos rfl]
    exact congrArg (Part.raise · _) (Part.modTree_congr _ t (g := Tree.windowClosed win) rfl)

theorem Part.stormTest_of_quiet {p : Part} {t : TreeId} {c : Nat} (k : Clock)
    (h : (p.tree t).settings.guardMask.storm = false ∨ c < (p.tree t).settings.stormThreshold) : p.stormTest k t c = p := by
  obtain h | h := h
  · simp [Part.stormTest, h]
  · simp [Part.stormTest, Nat.not_le.mpr h]

/-- A guard that STORM has arisen and ended in (R176, R177). -/
def Guard.stormed (g : Guard) (k : Clock) (delay : Nat) : Guard :=
  ⟨true, g.present, if g.hush then { g.seen with storm := true } else ⟨false, false, true⟩, g.strayCount,
    if g.present.any then none else some ⟨k.tenth, delay⟩⟩

def Tree.stormed (k : Clock) (T : Tree) : Tree := { T with guard := T.guard.stormed k T.settings.resumeDelay }

/-- In HUSH with no factor present the resume timer starts (R177). -/
theorem Part.startResume_of_hush {p : Part} {t : TreeId} (k : Clock) (h : (p.tree t).guard.hush = true)
    (hr : (p.tree t).guard.resume = none) :
    p.startResume k t =
      p.modTree t fun T =>
        { T with guard := { T.guard with
          resume := if T.guard.present.any then none else some ⟨k.tenth, T.settings.resumeDelay⟩ } } := by
  cases hp : (p.tree t).guard.present.any with
  | true =>
    simp only [Part.startResume, h, hp, Bool.not_true, Bool.and_false, Bool.false_eq_true, if_false]
    exact (Part.modTree_of_keeps p t _ (by simp [hp, ← hr])).symm
  | false =>
    simp only [Part.startResume, h, hp, Bool.not_false, Bool.and_self, if_true]
    exact Part.modTree_congr p t (by simp [hp, Clock.timer])

theorem Tree.cancelLeadIn_of_listening {T : Tree} {win : Window} (h : T.scheduler.phase = .listening win) :
    T.cancelLeadIn = T := by
  simp [Tree.cancelLeadIn, h]

/-- STORM arises at the close of a window, and ends there (R176). -/
theorem Part.stormTest_of_storm {p : Part} {t : TreeId} {c : Nat} {win : Window} (k : Clock)
    (hphase : (p.tree t).scheduler.phase = .listening win) (hmask : (p.tree t).settings.guardMask.storm = true)
    (hc : (p.tree t).settings.stormThreshold ≤ c) :
    p.stormTest k t c =
      { p.modTree t (Tree.stormed k) with
        raised := p.raised ++
          if (p.tree t).guard.hush then []
          else [.hush t true ⟨false, false, true⟩ ⟨false, false, true⟩ c k.cycle k.tenth] } := by
  have hstorm : p.stormTest k t c = (p.arise k t .storm c).startResume k t := by
    simp [Part.stormTest, hmask, hc]
  rw [hstorm]
  cases hhush : (p.tree t).guard.hush with
  | true =>
    have harise : p.arise k t .storm c =
        p.modGuard t fun g => { g with present := (p.tree t).guard.present, seen := g.seen.put .storm true, resume := none } := by
      simp [Part.arise, hhush]
    rw [harise, Part.startResume_of_hush k (by simpa [Part.modGuard] using hhush) (by simp [Part.modGuard]),
      Part.modGuard, Part.modTree_modTree, if_pos rfl, List.append_nil]
    refine (Part.modTree_congr p t (g := Tree.stormed k) ?_).trans rfl
    simp [Tree.stormed, Guard.stormed, hhush, Factors.put]
  | false =>
    have harise : p.arise k t .storm c =
        (p.modGuard t fun g => { g with hush := true, present := (p.tree t).guard.present, seen := ⟨false, false, true⟩, resume := none }).raise
          (.hush t true ⟨false, false, true⟩ ⟨false, false, true⟩ c k.cycle k.tenth) := by
      simp only [Part.arise, hhush, Bool.false_eq_true, if_false]
      refine (Part.modTree_of_keeps _ t _ (Tree.cancelLeadIn_of_listening (win := win) ?_)).trans rfl
      rw [Part.raise_tree, Part.modGuard, Part.tree_modTree_self]
      exact hphase
    rw [harise, Part.startResume_of_hush k (by simp [Part.modGuard]) (by simp [Part.modGuard]), if_neg Bool.false_ne_true]
    rw [Part.raise_modTree, Part.modGuard, Part.modTree_modTree, Part.modTree_congr p t (g := Tree.stormed k)]
    · rfl
    · simp [Tree.stormed, Guard.stormed, hhush]

/-- Settles O38: the window closes with or without a STORM; the next spread case by case. -/
theorem windowCloses : Obligations.WindowCloses := by
  unfold Obligations.WindowCloses
  refine ⟨fun s t pos win hs h1 h2 hphase hpassed => ?_, fun S win hS hspread => ?_⟩
  · have hclosing : ((s.atPos pos).part.tree t).closing (s.atPos pos).clock.treeTime = some win := by
      have hwindow : ((s.atPos pos).part.tree t).window? = some win := by
        have hphase' : ((s.atPos pos).part.tree t).scheduler.phase = .listening win := hphase
        simp [Tree.window?, hphase']
      rw [Tree.closing, hwindow, Option.filter_some, if_pos (by exact hpassed)]
    have hexec : exec (.windowClose t pos) s =
        .next ((s.atPos pos).withPart (s.part.closeWindow (s.atPos pos).clock t win)) := by
      refine congrArg Host.Outcome.next ((hs.eventAt h1 h2 _).trans ?_)
      rw [State.windowClose, hclosing]
      rfl
    rw [hexec, Part.closeWindow_eq]
    refine ⟨fun hquiet => congrArg Host.Outcome.next ?_, fun hmask hc => congrArg Host.Outcome.next ?_⟩
    · rw [Part.stormTest_of_quiet _ hquiet, hs.2]
      exact State.withPart_raising (s.atPos pos) (by exact hs.2) _
    · rw [Part.stormTest_of_storm _ hphase hmask hc, hs.2]
      rw [Part.raised_modTree_modTree]
      refine (State.withPart_raising (s.atPos pos) (by exact hs.2) _).trans (congrArg (State.afterEvent (s.atPos pos) _) ?_)
      refine congrArg (_ ++ ·) ?_
      exact (congrArg (Tree.windowNotices · t win)
        (Part.tree_modTree_self s.part t (Tree.stormed (s.atPos pos).clock))).trans rfl
  · obtain ⟨-, -, -, -, hmin, -⟩ := hS
    refine ⟨fun hraw => ?_, fun hraw hc hlt => ?_, fun hraw hc heq => ?_, fun hraw hc => ?_, fun hraw hc hh hlt => ?_,
      fun hraw hc hor => ?_, ?_⟩
    · simp [nextSpread, hraw]
    · simp [nextSpread, hraw, hc, hlt]
    · have hc0 : win.c ≠ 0 := by omega
      simp [nextSpread, hraw, heq, hc0]
    · simp [nextSpread, hraw, hc]
    · simp [nextSpread, hraw, hc, hh, hlt]
    · have hcond : ¬(win.h ≤ win.spread / 4 ∧ S.spreadMin < win.spread) := by omega
      simp only [nextSpread, hraw, hc]
      simp [hcond]
    · simp only [nextSpread]
      split
      · exact hmin
      · split
        · rename_i hdouble
          simp only [Bool.and_eq_true, decide_eq_true_eq] at hdouble
          omega
        · split
          · rename_i hhalf
            simp only [Bool.and_eq_true, decide_eq_true_eq] at hhalf
            omega
          · exact hspread

/-! ### The arithmetic unit (R53, R55, R59, R61) -/

theorem Hello.measure_cls_negative_iff (m : Hello) (S : Settings) :
    (m.measure S).cls = .negative ↔ m.rtt S.treeOffset < -64 := by
  rw [Hello.measure_cls, classOf_negative_iff]

theorem exec_helloArithmetic {s : State} {t : TreeId} {m : Hello} {rest : List Hello} (hs : s.Settled)
    (hm : (s.part.tree t).hellos = m :: rest) :
    exec (.helloArithmetic t) s =
      .next (s.withPart ((s.part.modTree t fun T => { T with hellos := rest }).takeStamps t m)) := by
  refine congrArg Host.Outcome.next ?_
  rw [hs.ready, State.helloArithmetic]
  simp only [hm]
  rfl

/-- Settles O39: the raw-stamp mode, or the class of the round trip, decides. -/
theorem helloMeasured : Obligations.HelloMeasured := by
  unfold Obligations.HelloMeasured
  intro s t m rest hs hm
  rw [exec_helloArithmetic hs hm]
  have hsettings : ((s.part.modTree t fun T => { T with hellos := rest }).tree t).settings = (s.part.tree t).settings := by
    rw [Part.tree_modTree_self]
  have hcount : ((s.part.modTree t fun T => { T with hellos := rest }).tree t).rawCount = (s.part.tree t).rawCount := by
    rw [Part.tree_modTree_self]
  refine ⟨fun hraw hrtt => ?_, fun hraw hrtt => ?_, fun hraw hfew => ?_, fun hraw hmany => ?_⟩ <;>
    refine congrArg Host.Outcome.next ?_
  · have hneg := (m.measure_cls_negative_iff (s.part.tree t).settings).mpr hrtt
    simp only [Part.takeStamps, hsettings, hraw, hneg, Bool.false_eq_true, if_false, beq_self_eq_true, if_true,
      Part.modCounters, Part.modTree_modTree]
    exact hs.withPart_modTree t _
  · have hneg : ¬(m.measure (s.part.tree t).settings).cls = .negative := fun h =>
      absurd ((m.measure_cls_negative_iff _).mp h) (Int.not_lt.mpr hrtt)
    simp only [Part.takeStamps, hsettings, hraw, beq_iff_eq, hneg, Bool.false_eq_true, if_false, Part.modTree_modTree]
    exact (hs.withPart_modTree t _).trans rfl
  · simp only [Part.takeStamps, hsettings, hraw, if_true, Part.rawHello, hcount, hfew, Part.modTree_modTree]
    exact State.withPart_raise s (by exact hs.2) _
  · simp only [Part.takeStamps, hsettings, hraw, if_true, Part.rawHello, hcount, Nat.not_lt.mpr hmany, if_false]
    exact hs.withPart_modTree t _

end Sys2Proof.Machine
end

section
/-!
PROOFS. The link (the statements O43, O44): the notice queue, the transmitter, and what the receiver and the request slot refuse.
-/

namespace Sys2Proof.Machine

/-! ### Notices and the transmitter (R182 to R185) -/

section
variable (l : Link)

theorem Link.notify_of_room (n : Notice) (h : l.notices.length < 64) :
    l.notify n = { l with notices := l.notices ++ [⟨n, l.lost⟩], lost := false } := if_pos h

theorem Link.notify_of_full (n : Notice) (h : 64 ≤ l.notices.length) : l.notify n = { l with lost := true } :=
  if_neg (Nat.not_lt.mpr h)

theorem Link.kick_of_busy (h : l.tx ≠ none) : l.kick = l := by
  rw [Link.kick, if_pos (Option.isSome_iff_ne_none.mpr h)]

theorem Link.kick_of_empty (hr : l.replies = []) (hn : l.notices = []) : l.kick = l := by
  simp [Link.kick, hr, hn]

theorem Link.kick_of_reply {r : LinkReply} {rest : List LinkReply} (ht : l.tx = none) (hr : l.replies = r :: rest) :
    l.kick = l.startReply r rest := by
  simp [Link.kick, ht, hr]

theorem Link.kick_of_notice {q : QueuedNotice} {more : List QueuedNotice} (ht : l.tx = none) (hr : l.replies = [])
    (hn : l.notices = q :: more) : l.kick = l.startNotice q := by
  simp [Link.kick, ht, hr, hn]

end

theorem frameFlags_eq (lost attn : Bool) :
    frameFlags lost attn = (if lost then 1#8 else 0) ||| (if attn then 2#8 else 0) := by
  cases lost <;> cases attn <;> rfl

theorem Link.attn_eq_not_nil (l : Link) : (if l.attn then 2#8 else 0) = if l.notices = [] then 0 else 2#8 := by
  cases h : l.notices <;> simp [Link.attn, h]

/-- Settles O43: the notice queue, the transmitter, and the last byte of each kind of frame. -/
theorem linkSends : Obligations.LinkSends := by
  unfold Obligations.LinkSends
  refine ⟨fun l n => ⟨l.notify_of_room n, l.notify_of_full n, l.kick_of_busy, l.kick_of_empty, fun r rest ht hr => ?_,
    fun q more ht hr hn => ?_⟩, fun s x hs htx => ?_⟩
  · rw [Link.kick_of_reply l ht hr, Link.startReply, frameFlags_eq, Link.attn_eq_not_nil]
    cases r.fromSlot <;> simp [byte]
  · have hattn : l.attn = true := by simp [Link.attn, hn]
    rw [Link.kick_of_notice l ht hr hn, Link.startNotice, frameFlags_eq, hattn]
    rfl
  · have hexec : exec .frameSent s =
        .next (if x.source == .resetReply then s else { s with link := (s.link.endFrame x).kick }) := by
      refine congrArg Host.Outcome.next ?_
      rw [State.frameSent, hs.ready]
      simp only [htx]
    rw [hexec]
    refine ⟨fun hx => ?_, fun hx => ?_, fun hx => ?_⟩ <;> rw [hx] <;> simp [Link.endFrame, hx]

/-! ### The receiver's hunt (R181) -/

theorem hunt_of_no_sync {bs : List Byte} (h : Config.syncByte ∉ bs) (n : Nat) (hn : bs.length ≤ n) : hunt n bs = ([], []) := by
  induction bs generalizing n with
  | nil => cases n <;> rfl
  | cons b bs ih =>
    cases n with
    | zero => simp at hn
    | succ n =>
      have hb : b ≠ Config.syncByte := Ne.symm (List.ne_of_not_mem_cons h)
      rw [hunt, if_pos (bne_iff_ne.mpr hb)]
      exact ih (List.not_mem_of_not_mem_cons h) n (Nat.le_of_succ_le_succ hn)

/-- A sync byte before a frame that is bad and holds no other. -/
theorem hunt_of_bad {bs : List Byte} (h : Config.syncByte ∉ bs) (hbad : judgeFrame bs = .bad) :
    hunt (Config.syncByte :: bs).length (Config.syncByte :: bs) = ([], []) := by
  rw [List.length_cons, hunt, if_neg (by simp), hbad]
  exact hunt_of_no_sync h _ (Nat.le_refl _)

/-- Bytes in which the receiver finds no frame and of which it keeps none leave the state. -/
theorem exec_badFrame_of_none {s : State} (hs : s.Settled) (hrx : s.link.rx = []) {bs : List Byte}
    (h : hunt bs.length bs = ([], [])) : exec (.badFrame bs) s = .next s := by
  have hkeep : ({ s with link := { s.link with rx := [] } } : State) = s := by
    obtain ⟨clock, part, link, pending⟩ := s
    obtain ⟨rx⟩ := link
    cases hrx
    rfl
  have hbytes : s.bytesIn bs = { s with link := { s.link with rx := [] } } := by
    simp only [State.bytesIn, hs.ready, hrx, List.nil_append, h, List.foldl_nil]
  exact congrArg Host.Outcome.next (hbytes.trans hkeep)

theorem judgeFrame_of_length {bs : List Byte} {hi lo : Byte} (hbs : bs = [hi, lo])
    (h : hi.toNat * 256 + lo.toNat = 0 ∨ 514 < hi.toNat * 256 + lo.toNat) : judgeFrame bs = .bad := by
  have hn : numAt bs 0 2 = hi.toNat * 256 + lo.toNat := by
    rw [hbs]
    simp [numAt, fieldAt, fromBe]
  have hbad : (numAt bs 0 2 == 0 || decide (Config.maxFrameLength < numAt bs 0 2)) = true := by
    rw [hn, Bool.or_eq_true, beq_iff_eq, decide_eq_true_eq]
    exact h
  have hfew : ¬bs.length < 2 := by simp [hbs]
  simp only [judgeFrame, hfew, if_false, hbad, if_true]

theorem judgeFrame_of_crc {body crc : List Byte} {kind : Byte} (hbody : body.length ≤ 513) (hcrc : crc.length = 2)
    (hne : crc ≠ be 2 (crc16 (be 2 (body.length + 1) ++ kind :: body)).toNat) :
    judgeFrame (be 2 (body.length + 1) ++ kind :: body ++ crc) = .bad := by
  have hlen : (be 2 (body.length + 1) ++ kind :: body).length = body.length + 1 + 2 := by simp; omega
  have hn : numAt (be 2 (body.length + 1) ++ kind :: body ++ crc) 0 2 = body.length + 1 := by
    rw [numAt, List.append_assoc, fieldAt_append_left (by simp), fieldAt_zero_of_length (be_length 2 _), fromBe_be]
    omega
  have htotal : (be 2 (body.length + 1) ++ kind :: body ++ crc).length = body.length + 1 + 4 := by
    rw [List.length_append, hlen, hcrc]
  have htake : (be 2 (body.length + 1) ++ kind :: body ++ crc).take (body.length + 1 + 2) =
      be 2 (body.length + 1) ++ kind :: body := List.take_left' hlen
  have hfield : fieldAt (be 2 (body.length + 1) ++ kind :: body ++ crc) (body.length + 1 + 2) 2 = crc := by
    rw [fieldAt_append_of_length hlen, List.take_of_length_le (by omega)]
  have hmore : ¬body.length + 1 + 4 < body.length + 1 + 4 := Nat.lt_irrefl _
  have hfew : ¬body.length + 1 + 4 < 2 := by omega
  have hbad : ¬514 < body.length + 1 := by omega
  simp only [judgeFrame, hn, htake, hfield, htotal, Config.maxFrameLength, hmore, hfew]
  simp [hbad, Ne.symm hne]

/-! ### The request slot (R183) -/

section
variable {s : State} (kind : Byte) (fits : Bool) (act : Clock → Part → Answer)

theorem Link.verdict_of_busy {l : Link} {starting : Bool} (hroom : l.replies.length < 8)
    (hslot : l.slotBusy = true → l.replies.length < 7) (h : l.slotBusy = true ∨ l.resetArmed = true ∨ starting = true) :
    l.verdict starting = .busy := by
  have hkeep : (decide (Config.maxReplies ≤ l.replies.length)
      || (l.slotBusy && decide (Config.maxReplies ≤ l.replies.length + 1))) = false := by
    rw [Bool.or_eq_false_iff, Bool.and_eq_false_iff, decide_eq_false_iff_not, decide_eq_false_iff_not]
    refine ⟨Nat.not_le.mpr hroom, ?_⟩
    cases hb : l.slotBusy with
    | false => exact Or.inl rfl
    | true => exact Or.inr (Nat.not_le.mpr (Nat.succ_lt_succ (hslot hb)))
  have hbusy : (l.slotBusy || l.resetArmed || starting) = true := by simpa [or_assoc] using h
  simp only [Link.verdict, hkeep, hbusy, if_true, Bool.false_eq_true, if_false]

theorem Link.verdict_of_full {l : Link} (starting : Bool)
    (h : 8 ≤ l.replies.length ∨ (l.slotBusy = true ∧ 7 ≤ l.replies.length)) : l.verdict starting = .discard := by
  have hfull : (decide (Config.maxReplies ≤ l.replies.length)
      || (l.slotBusy && decide (Config.maxReplies ≤ l.replies.length + 1))) = true := by
    rw [Bool.or_eq_true, Bool.and_eq_true, decide_eq_true_eq, decide_eq_true_eq]
    exact h.imp id (And.imp_right Nat.succ_le_succ)
  simp only [Link.verdict, hfull, if_true]

theorem State.Settled.request_discard (hs : s.Settled)
    (h : 8 ≤ s.link.replies.length ∨ (s.link.slotBusy = true ∧ 7 ≤ s.link.replies.length)) :
    s.request kind fits act = s.consumed := by
  have hv : s.consumed.link.verdict s.consumed.part.loader.isSome = .discard := Link.verdict_of_full _ h
  simp only [State.request, hs.ready, hv]

theorem State.Settled.request_busy (hs : s.Settled) (hroom : s.link.replies.length < 8)
    (hslot : s.link.slotBusy = true → s.link.replies.length < 7)
    (h : s.link.slotBusy = true ∨ s.link.resetArmed = true ∨ s.part.loader.isSome = true) :
    s.request kind fits act = { s.consumed with link := (s.consumed.link.answerBusy kind).kick } := by
  have hv : s.consumed.link.verdict s.consumed.part.loader.isSome = .busy := Link.verdict_of_busy hroom hslot h
  simp only [State.request, hs.ready, hv]

/-- A body of a wrong length changes nothing (R181). -/
theorem State.request_of_badLength (hs : s.Taking) (hfits : fits = false) :
    s.request kind fits act = s.answered kind .badLength [] := by
  rw [State.request_of_taking hs]
  simp only [State.serve, hfits, Bool.false_eq_true, if_false, refuse]
  have hraised : s.consumed.part.raised = [] := hs.raised_eq
  rw [Part.forget_raised hraised, hraised]
  rfl

end

theorem treeSetFits_iff (n : Nat) : treeSetFits n = bodyLengthOk 0x0A#8 n := by
  have hok : bodyLengthOk 0x0A#8 n = (List.range 29).any fun k => n == 1 + 5 * k := rfl
  rw [hok, Bool.eq_iff_iff, List.any_eq_true]
  simp only [treeSetFits, Bool.and_eq_true, decide_eq_true_eq, beq_iff_eq, List.mem_range]
  constructor
  · rintro ⟨⟨h1, h2⟩, h3⟩
    exact ⟨(n - 1) / 5, by omega, by omega⟩
  · rintro ⟨k, hk, rfl⟩
    omega

theorem admitFits_iff (n : Nat) : admitFits n = bodyLengthOk 0x10#8 n := by
  have hok : bodyLengthOk 0x10#8 n = (List.range 8).any fun k => n == 27 * (k + 1) := rfl
  rw [hok, Bool.eq_iff_iff, List.any_eq_true]
  simp only [admitFits, Bool.and_eq_true, decide_eq_true_eq, beq_iff_eq, List.mem_range]
  constructor
  · rintro ⟨⟨h1, h2⟩, h3⟩
    exact ⟨n / 27 - 1, by omega, by omega⟩
  · rintro ⟨k, hk, rfl⟩
    omega

/-- Every request but RESET is served by the one rule of the request slot. -/
theorem exec_of_requestOf {c : Instr} {kind : Byte} {body : List Byte} (h : requestOf c = some (kind, body)) (s : State) :
    c = .reset body ∧ kind = 0x02#8
      ∨ ∃ act, exec c s = .next (s.request kind (bodyLengthOk kind body.length) act) := by
  cases c <;> simp only [requestOf, reduceCtorEq, Option.some.injEq, Prod.mk.injEq] at h <;> obtain ⟨rfl, rfl⟩ := h
  case reset => exact Or.inl ⟨rfl, rfl⟩
  case treeSet b => exact Or.inr ⟨treeSetAnswer b, treeSetFits_iff b.length ▸ rfl⟩
  case admitTags b => exact Or.inr ⟨admitAnswer b, admitFits_iff b.length ▸ rfl⟩
  all_goals exact Or.inr ⟨_, rfl⟩

/-! ### RESET in the request slot (R183, R187) -/

section
variable {s : State}

theorem State.Taking.verdict (hs : s.Taking) : s.consumed.link.verdict s.consumed.part.loader.isSome = .take := by
  obtain ⟨-, hroom, hslot, harmed, hloader, -⟩ := hs
  simp [Link.verdict, State.consumed, hslot, harmed, hloader, Nat.not_le.mpr hroom]

theorem exec_reset_of_badLength (hs : s.Taking) {body : List Byte} (hbody : bodyLengthOk 0x02#8 body.length = false) :
    exec (.reset body) s = .next (s.answered 0x02#8 .badLength []) := by
  have hlen : (body.length == 0) = false := hbody
  have hserve : s.serveReset body = { s.consumed with link := (s.consumed.link.answer 0x02#8 .badLength []).kick } := by
    simp only [State.serveReset, State.ready_of_closed hs.1, hs.verdict, hlen, Bool.false_eq_true, if_false]
  exact congrArg Host.Outcome.next hserve

theorem exec_reset_of_taking (hs : s.Taking) :
    exec (.reset []) s = .next { s.consumed with link := s.consumed.link.answerReset.kick } := by
  have hserve : s.serveReset [] = { s.consumed with link := s.consumed.link.answerReset.kick } := by
    simp only [State.serveReset, State.ready_of_closed hs.1, hs.verdict]
    rfl
  exact congrArg Host.Outcome.next hserve

theorem exec_reset_of_busy (hs : s.Settled) (body : List Byte) (hroom : s.link.replies.length < 8)
    (hslot : s.link.slotBusy = true → s.link.replies.length < 7)
    (h : s.link.slotBusy = true ∨ s.link.resetArmed = true ∨ s.part.loader.isSome = true) :
    exec (.reset body) s = .next { s.consumed with link := (s.consumed.link.answerBusy 0x02#8).kick } := by
  have hv : s.consumed.link.verdict s.consumed.part.loader.isSome = .busy := Link.verdict_of_busy hroom hslot h
  refine congrArg Host.Outcome.next ?_
  simp only [State.serveReset, hs.ready, hv]

theorem exec_reset_of_full (hs : s.Settled) (body : List Byte)
    (h : 8 ≤ s.link.replies.length ∨ (s.link.slotBusy = true ∧ 7 ≤ s.link.replies.length)) :
    exec (.reset body) s = .next s.consumed := by
  have hv : s.consumed.link.verdict s.consumed.part.loader.isSome = .discard := Link.verdict_of_full _ h
  refine congrArg Host.Outcome.next ?_
  simp only [State.serveReset, hs.ready, hv]

end

/-- Settles O44: the receiver finds no frame, and the slot refuses by the one rule of all requests. -/
theorem linkRefusals : Obligations.LinkRefusals := by
  unfold Obligations.LinkRefusals
  refine ⟨⟨fun s bs hs hrx hsync => ⟨?_, fun kind body crc hbs hbody hlen hne => ?_, fun hi lo hbs hlength => ?_⟩,
    fun s kind body hs hkind => ?_⟩, fun s c kind body hc => ?_⟩
  · exact exec_badFrame_of_none hs hrx (hunt_of_no_sync hsync _ (Nat.le_refl _))
  · exact exec_badFrame_of_none hs hrx (hunt_of_bad hsync (hbs ▸ judgeFrame_of_crc hbody hlen hne))
  · exact exec_badFrame_of_none hs hrx (hunt_of_bad hsync (judgeFrame_of_length hbs hlength))
  · have hexec : exec (.unknownRequest kind body) s = .next (s.serveUnknown kind) :=
      congrArg Host.Outcome.next (if_neg (by simpa using hkind))
    rw [hexec]
    exact congrArg Host.Outcome.next (State.request_refuse hs rfl rfl)
  · obtain ⟨rfl, rfl⟩ | ⟨act, hexec⟩ := exec_of_requestOf hc s
    · exact ⟨fun hs hlen => exec_reset_of_badLength hs hlen, fun hs hroom hslot hbusy => exec_reset_of_busy hs body hroom hslot hbusy,
        fun hs hfull => exec_reset_of_full hs body hfull⟩
    · rw [hexec]
      exact ⟨fun hs hlen => congrArg Host.Outcome.next (State.request_of_badLength _ _ _ hs hlen),
        fun hs hroom hslot hbusy => congrArg Host.Outcome.next (hs.request_busy _ _ _ hroom hslot hbusy),
        fun hs hfull => congrArg Host.Outcome.next (hs.request_discard _ _ _ hfull)⟩

end Sys2Proof.Machine
end

section
/-!
PROOFS. The two-wire bus and the save (the statements O41, O45): who gets the free bus, and the requests IDENTIFY, RESET and
STORE-SAVE with the pages that a save writes.
-/

namespace Sys2Proof.Machine

/-! ### Who waits for the bus (R190) -/

section
variable {p : Part}

theorem Part.waitingTransfer_saver_of_none (h : p.save = none) : p.waitingTransfer .saver = none := by
  simp [Part.waitingTransfer, h]

theorem Part.waitingTransfer_saver_of_some {v : Save} (h : p.save = some v) :
    p.waitingTransfer .saver = v.pages.head?.map fun g => ⟨.saver, .page g.bytes, g.address, g.bytes.length, false⟩ := by
  simp [Part.waitingTransfer, h]

theorem Part.waitingTransfer_saver_of_pages {v : Save} {g : Page} {rest : List Page} (h : p.save = some v)
    (hp : v.pages = g :: rest) :
    p.waitingTransfer .saver = some ⟨.saver, .page g.bytes, g.address, g.bytes.length, false⟩ := by
  rw [Part.waitingTransfer_saver_of_some h, hp]
  rfl

theorem Part.waitingTransfer_saver_eq_none_iff :
    p.waitingTransfer .saver = none ↔ ∀ v, p.save = some v → v.pages = [] := by
  cases h : p.save with
  | none => simp [Part.waitingTransfer_saver_of_none h]
  | some v =>
    rw [Part.waitingTransfer_saver_of_some h, Option.map_eq_none_iff, List.head?_eq_none_iff]
    exact ⟨fun hv w hw => Option.some.inj hw ▸ hv, fun hv => hv v rfl⟩

theorem Part.waitingTransfer_saver_requester {x : Transfer} (h : p.waitingTransfer .saver = some x) : x.requester = .saver := by
  cases hv : p.save with
  | none => rw [Part.waitingTransfer_saver_of_none hv] at h; cases h
  | some v =>
    rw [Part.waitingTransfer_saver_of_some hv] at h
    obtain ⟨g, -, rfl⟩ := Option.map_eq_some_iff.mp h
    rfl

theorem Part.firstWaiting_eq_none_iff (p : Part) (rs : List Requester) :
    p.firstWaiting rs = none ↔ ∀ r ∈ rs, p.waitingTransfer r = none := by
  induction rs with
  | nil => simp [Part.firstWaiting]
  | cons r rs ih =>
    rw [Part.firstWaiting, List.forall_mem_cons]
    cases p.waitingTransfer r with
    | none => simp [ih]
    | some x => simp

theorem Part.firstWaiting_of_split {pre post : List Requester} {r : Requester} {x : Transfer}
    (hpre : ∀ y ∈ pre, p.waitingTransfer y = none) (hr : p.waitingTransfer r = some x) :
    p.firstWaiting (pre ++ r :: post) = some x := by
  induction pre with
  | nil => simp [Part.firstWaiting, hr]
  | cons y pre ih =>
    have hy := hpre y List.mem_cons_self
    simpa [Part.firstWaiting, hy] using ih fun z hz => hpre z (List.mem_cons_of_mem y hz)

theorem mem_rotationAfter (last r : Requester) (h : r ≠ .loader) : r ∈ rotationAfter last := by
  cases last with
  | fetcher t => cases t <;> cases r with
    | fetcher u => cases u <;> simp [rotationAfter]
    | saver => simp [rotationAfter]
    | loader => exact absurd rfl h
  | saver | loader => cases r with
    | fetcher u => cases u <;> simp [rotationAfter, rotation]
    | saver => simp [rotationAfter, rotation]
    | loader => exact absurd rfl h

/-- Where no fetcher waits, the saver is the first that does. -/
theorem Part.firstWaiting_of_saver {x : Transfer} (hfetch : ∀ t, (p.tree t).fetchWait = none)
    (hx : p.waitingTransfer .saver = some x) {rs : List Requester} (hrs : .saver ∈ rs) : p.firstWaiting rs = some x := by
  induction rs with
  | nil => cases hrs
  | cons r rs ih =>
    cases r with
    | saver => simp [Part.firstWaiting, hx]
    | fetcher t =>
      have hr : p.waitingTransfer (.fetcher t) = none := hfetch t
      simpa [Part.firstWaiting, hr] using ih (by simpa using hrs)
    | loader =>
      have hr : p.waitingTransfer .loader = none := rfl
      simpa [Part.firstWaiting, hr] using ih (by simpa using hrs)

/-- No one waits: no fetcher has requested a transfer, and no page of a save is left. -/
theorem Part.noneWaiting_iff (p : Part) :
    p.firstWaiting (rotationAfter p.master.last) = none ↔
      (∀ t, (p.tree t).fetchWait = none) ∧ ∀ v, p.save = some v → v.pages = [] := by
  rw [Part.firstWaiting_eq_none_iff, ← Part.waitingTransfer_saver_eq_none_iff]
  constructor
  · intro h
    exact ⟨fun t => h (.fetcher t) (mem_rotationAfter _ _ Requester.noConfusion),
      h .saver (mem_rotationAfter _ _ Requester.noConfusion)⟩
  · rintro ⟨hfetch, hsave⟩ r -
    cases r with
    | fetcher t => exact hfetch t
    | saver => exact hsave
    | loader => rfl

theorem Part.serveBus_of_held (h : p.master.current ≠ none ∨ p.straps.store = false) : p.serveBus = p := by
  rw [Part.serveBus, if_pos]
  rw [Bool.or_eq_true, Option.isSome_iff_ne_none, Bool.not_eq_true']
  exact h

variable (hstore : p.straps.store = true) (hfree : p.master.current = none)
include hstore hfree

theorem Part.serveBus_of_none (h : p.firstWaiting (rotationAfter p.master.last) = none) : p.serveBus = p := by
  simp [Part.serveBus, hstore, hfree, h]

theorem Part.serveBus_of_some {x : Transfer} (h : p.firstWaiting (rotationAfter p.master.last) = some x) :
    p.serveBus = { p.noLongerWaiting x.requester with master := ⟨some x, p.master.last⟩ } := by
  simp [Part.serveBus, hstore, hfree, h]

theorem Part.serveBus_eq_self_iff :
    p.serveBus = p ↔ p.firstWaiting (rotationAfter p.master.last) = none := by
  refine ⟨fun h => ?_, Part.serveBus_of_none hstore hfree⟩
  cases hx : p.firstWaiting (rotationAfter p.master.last) with
  | none => rfl
  | some x =>
    rw [Part.serveBus_of_some hstore hfree hx] at h
    have hcurrent : some x = p.master.current := congrArg (fun q : Part => q.master.current) h
    rw [hfree] at hcurrent
    cases hcurrent

end

/-- Settles O41: who waits, and to whom the free bus goes. -/
theorem busRotation : Obligations.BusRotation := by
  unfold Obligations.BusRotation
  refine ⟨⟨rfl, rfl, rfl, rfl, rfl, fun p => ⟨fun t => rfl, Part.waitingTransfer_saver_of_none, fun v hv hpages => ?_,
    fun v g rest => Part.waitingTransfer_saver_of_pages⟩⟩, fun p => ⟨Part.serveBus_of_held, fun hstore hfree => ⟨?_, ?_⟩⟩⟩
  · rw [Part.waitingTransfer_saver_of_some hv, hpages]
    rfl
  · rw [Part.serveBus_eq_self_iff hstore hfree, Part.noneWaiting_iff]
  · intro pre r post x hsplit hpre hr
    have hfirst : p.firstWaiting (rotationAfter p.master.last) = some x := hsplit ▸ Part.firstWaiting_of_split hpre hr
    rw [Part.serveBus_of_some hstore hfree hfirst]
    refine ⟨fun t _ hx => by rw [hx]; rfl, fun hsaver => ?_⟩
    rw [Part.waitingTransfer_saver_requester (hsaver ▸ hr), Part.noLongerWaiting]

/-! ### The pages of a save (R190, R191, 12.8) -/

theorem Part.settingsBlock_length (p : Part) : p.settingsBlock.length = 465 := by
  simp [Part.settingsBlock, storedBlock, Part.settingsBody_length]

theorem Part.admissionBlock_length {p : Part} (h : ∀ e ∈ p.admission, e.label.length ≤ 16) :
    p.admissionBlock.length = 5 + 27 * p.admission.length := by
  have hentries : ∀ b ∈ p.admission.map AdmitEntry.stored, b.length = 27 := by
    intro b hb
    obtain ⟨e, he, rfl⟩ := List.mem_map.mp hb
    exact AdmitEntry.stored_length (h e he)
  rw [Part.admissionBlock, storedBlock, List.length_append, length_flatten_of_length hentries]
  simp

theorem Part.snapshot_settings (p : Part) : p.snapshot 1 = pagesOf p.savesBegun 0 p.settingsBlock :=
  List.append_nil _

theorem Part.snapshot_admission (p : Part) : p.snapshot 2 = pagesOf p.savesBegun 1024 p.admissionBlock := rfl

theorem Part.snapshot_both (p : Part) : p.snapshot 3 = p.snapshot 1 ++ p.snapshot 2 := by
  rw [Part.snapshot_settings, Part.snapshot_admission]
  rfl

theorem Part.snapshot_bytes_length {p : Part} {selector : Nat} {g : Page} (h : g ∈ p.snapshot selector) :
    g.bytes.length = 64 := by
  rw [Part.snapshot, List.mem_append] at h
  obtain h | h := h <;> split at h
  · exact pagesOf_bytes_length h
  · cases h
  · exact pagesOf_bytes_length h
  · cases h

/-- A block that is not empty has a first page, at the block's offset. -/
theorem pagesOf_cons (save base : Nat) {bs : List Byte} (h : 0 < bs.length) :
    ∃ g rest, pagesOf save base bs = g :: rest ∧ g.address = base := by
  have hcount : 0 < pageCount bs.length := by
    have := le_pageCount bs.length
    omega
  cases hpages : pagesOf save base bs with
  | nil =>
    have hlen : (pagesOf save base bs).length = pageCount bs.length := by simp [pagesOf]
    rw [hpages] at hlen
    simp at hlen
    omega
  | cons g rest =>
    refine ⟨g, rest, rfl, ?_⟩
    have haddress := congrArg List.head? (pagesOf_addresses save base bs)
    rw [hpages] at haddress
    simpa [List.head?_range, Nat.ne_of_gt hcount] using haddress

theorem Part.snapshot_cons (p : Part) {selector : Nat} (h1 : 1 ≤ selector) (h3 : selector ≤ 3) :
    ∃ g rest, p.snapshot selector = g :: rest ∧ g.address = if selector = 2 then 1024 else 0 := by
  have hsettings := pagesOf_cons p.savesBegun 0 (bs := p.settingsBlock) (by rw [Part.settingsBlock_length]; decide)
  have hadmission := pagesOf_cons p.savesBegun 1024 (bs := p.admissionBlock) (by simp [Part.admissionBlock, storedBlock])
  rw [← Part.snapshot_settings] at hsettings
  rw [← Part.snapshot_admission] at hadmission
  obtain rfl | rfl | rfl : selector = 1 ∨ selector = 2 ∨ selector = 3 := by omega
  · exact hsettings
  · exact hadmission
  · obtain ⟨g, rest, hpages, haddress⟩ := hsettings
    exact ⟨g, rest ++ p.snapshot 2, by rw [Part.snapshot_both, hpages]; rfl, haddress⟩

/-! ### IDENTIFY, RESET and STORE-SAVE (R186, R187, R191) -/

theorem byte_eq_zero_or_gt_iff {b : Byte} (n : Nat) : (b = 0 ∨ n < b.toNat) ↔ (b.toNat < 1 ∨ n < b.toNat) := by
  refine or_congr_left ⟨fun h => by rw [h]; decide, fun h => BitVec.eq_of_toNat_eq ?_⟩
  have hz : (0 : Byte).toNat = 0 := rfl
  omega

section
variable {p : Part} {b : Byte} (k : Clock)

theorem storeSaveAnswer_of_badField (h : b = 0 ∨ 3 < b.toNat) : storeSaveAnswer [b] k p = refuse p .badField := by
  have hbad : (decide ((byteAt [b] 0).toNat < 1) || decide (3 < (byteAt [b] 0).toNat)) = true := by
    rw [Bool.or_eq_true, decide_eq_true_eq, decide_eq_true_eq]
    exact (byte_eq_zero_or_gt_iff 3).mp h
  rw [storeSaveAnswer, if_pos hbad]

variable (h1 : 1 ≤ b.toNat) (h3 : b.toNat ≤ 3)
include h1 h3

theorem storeSaveAnswer_of_selector :
    storeSaveAnswer [b] k p =
      if !p.straps.store then refuse p .noDevice
      else if p.save.isSome then refuse p .busy
      else okay (p.startSave b.toNat) [] := by
  have hgood : ¬(decide ((byteAt [b] 0).toNat < 1) || decide (3 < (byteAt [b] 0).toNat)) = true := by
    rw [Bool.or_eq_true, decide_eq_true_eq, decide_eq_true_eq]
    show ¬(b.toNat < 1 ∨ 3 < b.toNat)
    omega
  rw [storeSaveAnswer, if_neg hgood]
  rfl

/-- A save begins: its snapshot is taken, and the free bus goes to its first page (R190, R191). -/
theorem Part.startSave_of_free (hstore : p.straps.store = true) (hsave : p.save = none) (hfree : p.master.current = none)
    (hfetch : ∀ t, (p.tree t).fetchWait = none) :
    ∃ g rest, p.snapshot b.toNat = g :: rest ∧ (g.address = if b = 2 then 1024 else 0)
      ∧ p.startSave b.toNat =
        { p with
          save := some ⟨b.toNat, g :: rest, false⟩
          savesBegun := p.savesBegun + 1
          master := ⟨some ⟨.saver, .page g.bytes, g.address, 64, false⟩, p.master.last⟩ } := by
  obtain ⟨g, rest, hpages, haddress⟩ := p.snapshot_cons h1 h3
  have hselector : b.toNat = 2 ↔ b = 2 := ⟨fun h => BitVec.eq_of_toNat_eq h, fun h => by rw [h]; rfl⟩
  have hlen : g.bytes.length = 64 := Part.snapshot_bytes_length (hpages ▸ List.mem_cons_self)
  refine ⟨g, rest, hpages, haddress.trans (ite_of_iff hselector), ?_⟩
  obtain ⟨q, hq⟩ : ∃ q : Part, q = { p with
    save := some ⟨b.toNat, g :: rest, false⟩
    savesBegun := p.savesBegun + 1 } := ⟨_, rfl⟩
  have hfirst : q.firstWaiting (rotationAfter q.master.last) = some ⟨.saver, .page g.bytes, g.address, 64, false⟩ := by
    have hsaver : q.waitingTransfer .saver = some ⟨.saver, .page g.bytes, g.address, 64, false⟩ := by
      rw [Part.waitingTransfer_saver_of_pages (v := ⟨b.toNat, g :: rest, false⟩) (by rw [hq]) rfl, hlen]
    exact Part.firstWaiting_of_saver (by rw [hq]; exact hfetch) hsaver (mem_rotationAfter _ _ Requester.noConfusion)
  rw [Part.startSave, hpages, ← hq, Part.serveBus_of_some (by rw [hq]; exact hstore) (by rw [hq]; exact hfree) hfirst, hq]
  rfl

end

theorem identifyData_eq (rateCode : Nat) (store : Bool) :
    identifyData rateCode store =
      [0x47#8, 0x50#8, 0x0A#8, 0x04#8, 1#8, BitVec.ofNat 8 rateCode, if store then 1#8 else 0,
        4#8, 192#8, 64#8, 1#8, 0#8, 16#8, 16#8, 16#8, 0#8, 64#8, 32#8, 16#8] := by
  cases store <;> rfl

theorem exec_storeSave (body : List Byte) (s : State) :
    exec (.storeSave body) s = .next (s.request 0x03#8 (body.length == 1) (storeSaveAnswer body)) := rfl

theorem exec_identify (body : List Byte) (s : State) :
    exec (.identify body) s = .next (s.request 0x01#8 (body.length == 0) (identifyAnswer s.link.rateCode)) := rfl

/-- Settles O45: the three requests, then the pages of each snapshot. -/
theorem identifyResetSave : Obligations.IdentifyResetSave := by
  unfold Obligations.IdentifyResetSave
  refine ⟨fun s hs => ⟨?_, exec_reset_of_taking hs, fun b => ⟨fun hb => ?_, fun h1 h3 hstore => ?_, fun h1 h3 hstore hsave => ?_,
    fun h1 h3 hstore hsave hfree hfetch => ?_⟩⟩, fun p => ⟨⟨?_, ?_⟩, fun size count hlabels hsize hcount => ⟨?_, ?_⟩,
    p.snapshot_both, fun selector g hg => Part.snapshot_bytes_length hg⟩⟩
  · rw [exec_identify, ← identifyData_eq]
    exact congrArg Host.Outcome.next (State.request_read hs rfl rfl)
  · exact (exec_storeSave _ s).trans
      (congrArg _ (State.request_refuse hs rfl (storeSaveAnswer_of_badField s.clock hb)))
  · have hact : storeSaveAnswer [b] s.clock s.part = refuse s.part .noDevice := by
      rw [storeSaveAnswer_of_selector s.clock h1 h3, hstore]
      rfl
    exact (exec_storeSave _ s).trans (congrArg _ (State.request_refuse hs rfl hact))
  · have hact : storeSaveAnswer [b] s.clock s.part = refuse s.part .busy := by
      rw [storeSaveAnswer_of_selector s.clock h1 h3, hstore, if_neg (by decide),
        if_pos (Option.isSome_iff_ne_none.mpr hsave)]
    exact (exec_storeSave _ s).trans (congrArg _ (State.request_refuse hs rfl hact))
  · obtain ⟨g, rest, hpages, haddress, hstart⟩ := Part.startSave_of_free h1 h3 hstore hsave hfree hfetch
    refine ⟨g, rest, hpages, haddress, ?_⟩
    have hact : storeSaveAnswer [b] s.clock s.part = okay (s.part.startSave b.toNat) [] := by
      rw [storeSaveAnswer_of_selector s.clock h1 h3, hstore, if_neg (by decide), hsave]
      rfl
    rw [hstart] at hact
    exact (exec_storeSave _ s).trans (congrArg _ (State.request_okay hs rfl hact rfl))
  · rw [Part.snapshot_settings, pagesOf_addresses, Part.settingsBlock_length]
    rfl
  · rw [Part.snapshot_settings, pagesOf_flatten, filledBlock, Part.settingsBlock_length]
    rfl
  · rw [Part.snapshot_admission, pagesOf_addresses, Part.admissionBlock_length hlabels, ← hsize, hcount]
    rfl
  · rw [Part.snapshot_admission, pagesOf_flatten, filledBlock, Part.admissionBlock_length hlabels, ← hsize, hcount]
    rfl

end Sys2Proof.Machine
end

section
/-!
PROOFS. The ends of two-wire transfers (the statement O42): a fetcher's directory and image reads, and the pages of a save.
-/

namespace Sys2Proof.Machine

/-! ### The bus after a change of one engine (R190) -/

/-- A change of one engine alone does not move the bus. -/
theorem Part.serveBus_modEngine (p : Part) (t : TreeId) (f : Engine → Engine) :
    (p.modEngine t f).serveBus = p.serveBus.modEngine t f := by
  have hwait : ∀ r, (p.modEngine t f).waitingTransfer r = p.waitingTransfer r := by
    intro r
    cases r with
    | fetcher u => cases t <;> cases u <;> rfl
    | saver | loader => rfl
  have hfirst : ∀ rs, (p.modEngine t f).firstWaiting rs = p.firstWaiting rs := by
    intro rs
    induction rs with
    | nil => rfl
    | cons r rs ih => simp only [Part.firstWaiting, hwait, ih]
  by_cases hheld : p.master.current ≠ none ∨ p.straps.store = false
  · rw [Part.serveBus_of_held hheld, Part.serveBus_of_held (by exact hheld)]
  · obtain ⟨hfree, hstore⟩ := not_or.mp hheld
    rw [Classical.not_not] at hfree
    rw [Bool.not_eq_false] at hstore
    cases hx : p.firstWaiting (rotationAfter p.master.last) with
    | none =>
      rw [Part.serveBus_of_none hstore hfree hx, Part.serveBus_of_none (by exact hstore) (by exact hfree) ((hfirst _).trans hx)]
    | some x =>
      rw [Part.serveBus_of_some hstore hfree hx,
        Part.serveBus_of_some (by exact hstore) (by exact hfree) ((hfirst _).trans hx)]
      cases x.requester with
      | fetcher u => cases t <;> cases u <;> rfl
      | saver | loader => rfl

theorem Part.serveBus_serveBus (p : Part) : p.serveBus.serveBus = p.serveBus := by
  by_cases hheld : p.master.current ≠ none ∨ p.straps.store = false
  · rw [Part.serveBus_of_held hheld, Part.serveBus_of_held hheld]
  · obtain ⟨hfree, hstore⟩ := not_or.mp hheld
    rw [Classical.not_not] at hfree
    rw [Bool.not_eq_false] at hstore
    cases hx : p.firstWaiting (rotationAfter p.master.last) with
    | none => rw [Part.serveBus_of_none hstore hfree hx, Part.serveBus_of_none hstore hfree hx]
    | some x =>
      rw [Part.serveBus_of_some hstore hfree hx]
      exact Part.serveBus_of_held (Or.inl (Option.some_ne_none _))

/-! ### A fetcher's transfer ends (R144, R147, R159) -/

section
variable {s : State} {t : TreeId} {x : Transfer}

theorem Part.endTransfer_of_current {p : Part} (hx : p.master.current = some x) :
    p.endTransfer = { p with master := ⟨none, x.requester⟩ } := by
  simp [Part.endTransfer, hx]

theorem Part.transferOf_of_current {p : Part} {r : Requester} {result : Option (List Byte)}
    (hx : p.master.current = some x) (hr : x.requester = r) (hfits : ∀ bs, result = some bs → bs.length = x.length) :
    p.transferOf r result = some x := by
  have hfit : x.fits result = true := by
    cases result with
    | none => rfl
    | some bs => exact beq_iff_eq.mpr (hfits bs rfl)
  rw [Part.transferOf, hx, Option.filter_some, if_pos (by simp [hr, hfit])]

variable (hs : s.Settled) (hx : s.part.master.current = some x) (hr : x.requester = .fetcher t)
include hs hx hr

theorem exec_fetchDirectoryDone_of_current {result : Option (List Byte)} (hkind : x.kind = .directory)
    (hfits : ∀ bs, result = some bs → bs.length = x.length) :
    exec (.fetchDirectoryDone t result) s =
      .next (s.withPart (s.part.fetchEnds s.clock t x result fun p bs => p.directoryRead s.clock t bs)) := by
  refine congrArg Host.Outcome.next ?_
  rw [hs.ready, State.directoryDone, Part.transferOf_of_current hx hr hfits, Option.filter_some,
    if_pos (beq_iff_eq.mpr hkind)]
  rfl

theorem exec_fetchDataDone_of_current {result : Option (List Byte)} (hkind : x.kind = .data)
    (hfits : ∀ bs, result = some bs → bs.length = x.length) :
    exec (.fetchDataDone t result) s =
      .next (s.withPart (s.part.fetchEnds s.clock t x result fun p bs => p.dataRead s.clock t bs)) := by
  refine congrArg Host.Outcome.next ?_
  rw [hs.ready, State.dataDone, Part.transferOf_of_current hx hr hfits, Option.filter_some,
    if_pos (beq_iff_eq.mpr hkind)]
  rfl

/-- The end of a fetcher's transfer, whichever kind it has (R144, R159). -/
theorem exec_fetchDone_of_current {c : Instr} {result : Option (List Byte)}
    (hc : c = .fetchDirectoryDone t result ∧ x.kind = .directory ∨ c = .fetchDataDone t result ∧ x.kind = .data)
    (hfits : ∀ bs, result = some bs → bs.length = x.length) :
    ∃ f, exec c s = .next (s.withPart (s.part.fetchEnds s.clock t x result f)) := by
  obtain ⟨rfl, hkind⟩ | ⟨rfl, hkind⟩ := hc
  · exact ⟨_, exec_fetchDirectoryDone_of_current hs hx hr hkind hfits⟩
  · exact ⟨_, exec_fetchDataDone_of_current hs hx hr hkind hfits⟩

end

section
variable {p : Part} {t : TreeId} {x : Transfer} {f : Part → List Byte → Part} (k : Clock)
  (hx : p.master.current = some x) (hr : x.requester = .fetcher t)
include hx hr

theorem Part.fetchEnds_of_bytes (bs : List Byte) (hkeep : x.discard = false) :
    p.fetchEnds k t x (some bs) f = (f { p with master := ⟨none, .fetcher t⟩ } bs).serveBus := by
  simp only [Part.fetchEnds, Part.endTransfer_of_current hx, hr, hkeep, Bool.false_eq_true, if_false]

theorem Part.fetchEnds_of_discard (result : Option (List Byte)) (hgone : x.discard = true) :
    p.fetchEnds k t x result f = ({ p with master := ⟨none, .fetcher t⟩ } : Part).serveBus := by
  simp only [Part.fetchEnds, Part.endTransfer_of_current hx, hr, hgone, if_true]

theorem Part.fetchEnds_of_none (hkeep : x.discard = false) :
    p.fetchEnds k t x none f =
      (({ p with master := ⟨none, .fetcher t⟩ } : Part).failAttempt k t .storeFault 0 false).serveBus := by
  simp only [Part.fetchEnds, Part.endTransfer_of_current hx, hr, hkeep, Bool.false_eq_true, if_false]

end

/-! ### A directory entry (R144, R147) -/

theorem directoryLength_of_good {hi lo : Byte} (more : List Byte) (h1 : 1 ≤ hi.toNat * 256 + lo.toNat)
    (h2 : hi.toNat * 256 + lo.toNat ≤ 4096) :
    directoryLength (0x5A#8 :: hi :: lo :: more) = some (hi.toNat * 256 + lo.toNat) := by
  have hn : fromBe [hi, lo] = hi.toNat * 256 + lo.toNat := by simp [fromBe]
  rw [directoryLength, hn, if_pos]
  simp [h1, Config.slotBytes, h2]

theorem directoryLength_of_bad {bs : List Byte}
    (h : ∀ hi lo more, bs = 0x5A#8 :: hi :: lo :: more →
      hi.toNat * 256 + lo.toNat = 0 ∨ 4096 < hi.toNat * 256 + lo.toNat) : directoryLength bs = none := by
  match bs with
  | [] | [_] | [_, _] => rfl
  | m :: hi :: lo :: more =>
    have hn : fromBe [hi, lo] = hi.toNat * 256 + lo.toNat := by simp [fromBe]
    rw [directoryLength, hn, if_neg]
    rw [Bool.and_eq_true, Bool.and_eq_true, beq_iff_eq, decide_eq_true_eq, decide_eq_true_eq]
    rintro ⟨⟨rfl, h1⟩, h2⟩
    have hsize : hi.toNat * 256 + lo.toNat ≤ 4096 := h2
    have := h hi lo more rfl
    omega

section
variable {p : Part} {t : TreeId} {h : Nat} (k : Clock) {bs : List Byte} (hserving : (p.engine t).serving = some h)
include hserving

theorem Part.directoryRead_of_good {n : Nat} (hn : directoryLength bs = some n) :
    p.directoryRead k t bs = p.startPreparing k t h .external n := by
  simp [Part.directoryRead, hserving, hn]

theorem Part.directoryRead_of_default (hn : directoryLength bs = none) (hf : (p.tree t).settings.fallback = .useDefault) :
    p.directoryRead k t bs = p.startPreparing k t h .default 256 := by
  simp only [Part.directoryRead, hserving, hn, Part.unavailable, hf, Bool.false_eq_true, if_false]
  rfl

theorem Part.directoryRead_of_hold (hn : directoryLength bs = none) (hf : (p.tree t).settings.fallback = .hold) :
    p.directoryRead k t bs = ((p.modEngine t fun _ => .idle).holdRecord t h .noProfile).takeTest k t := by
  simp only [Part.directoryRead, hserving, hn, Part.unavailable, hf, if_true]

end

/-- A record HELD as its engine, back from a transfer, becomes IDLE (R95, R147). -/
theorem Part.idle_holdRecord_eq {p : Part} {t : TreeId} {h : Nat} {r : Record} {m : Master} {cause : Cause}
    (hr : p.record? t h = some r) :
    ((({ p with master := m } : Part).modEngine t fun _ => .idle).holdRecord t h cause) =
      { (p.modTree t fun T =>
          { T with
            engine := .idle
            expectations := T.expectations.map fun e => if e.handle == h then { e with orphan := true } else e }).modRecord
          t h (·.heldFor cause) with
        master := m
        raised := p.raised ++ [.terminal t h r.tag r.state .held cause] } := by
  rw [Part.holdRecord_eq (r := r) (by exact hr)]
  cases t <;> rfl

/-! ### Image bytes from the bus (R144, R149, R157) -/

/-- The pause test of an engine whose pause, if any, has its timer running: only an end of the pause changes it (R157). -/
theorem Part.pauseUpdate_of_timed {p : Part} {t : TreeId} (k : Clock)
    (h : (p.engine t).state = .streaming → (p.engine t).paused = true → (p.engine t).stallTimer.isSome = true) :
    p.pauseUpdate k t =
      p.modEngine t fun e =>
        { e with stallTimer := if e.state = .streaming ∧ e.paused = false then none else e.stallTimer } := by
  by_cases hstate : (p.engine t).state = .streaming
  · cases hp : (p.engine t).paused with
    | false =>
      rw [Part.pauseUpdate_of_running hstate hp]
      refine Part.modEngine_congr p t ?_
      simp [hstate, hp]
    | true =>
      rw [Part.pauseUpdate_of_waiting hp (h hstate hp)]
      refine (Part.modTree_of_keeps p t _ ?_).symm
      have hp' : (p.tree t).engine.paused = true := hp
      simp [hp']
  · rw [Part.pauseUpdate_of_not_streaming hstate]
    refine (Part.modTree_of_keeps p t _ ?_).symm
    have hstate' : (p.tree t).engine.state ≠ .streaming := hstate
    simp [hstate']

/-- The pause test, so timed, and the bus do not touch each other. -/
theorem Part.serveBus_pauseUpdate_of_timed {p : Part} {t : TreeId} (k : Clock)
    (h : (p.engine t).state = .streaming → (p.engine t).paused = true → (p.engine t).stallTimer.isSome = true) :
    (p.serveBus.pauseUpdate k t).serveBus =
      (p.modEngine t fun e =>
        { e with stallTimer := if e.state = .streaming ∧ e.paused = false then none else e.stallTimer }).serveBus := by
  have hengine : p.serveBus.engine t = p.engine t := by
    by_cases hheld : p.master.current ≠ none ∨ p.straps.store = false
    · rw [Part.serveBus_of_held hheld]
    · obtain ⟨hfree, hstore⟩ := not_or.mp hheld
      rw [Classical.not_not] at hfree
      rw [Bool.not_eq_false] at hstore
      cases hx : p.firstWaiting (rotationAfter p.master.last) with
      | none => rw [Part.serveBus_of_none hstore hfree hx]
      | some x =>
        rw [Part.serveBus_of_some hstore hfree hx]
        cases x.requester with
        | fetcher u => cases t <;> cases u <;> rfl
        | saver | loader => rfl
  rw [Part.pauseUpdate_of_timed k (by rw [hengine]; exact h), ← Part.serveBus_modEngine, Part.serveBus_serveBus]

/-- An engine that image bytes have entered, its pause ended where they end it (R149, R157). -/
def Engine.entered (e : Engine) (bs : List Byte) : Engine :=
  { e.enter bs with
    stallTimer := if (e.enter bs).state = .streaming ∧ (e.enter bs).paused = false then none else e.stallTimer }

/-- Image bytes that the FIFO has room for come in from the bus, and the next read is requested (R144, R149, R157). -/
theorem Part.dataRead_serveBus {p : Part} {t : TreeId} {bs : List Byte} {e : Engine} {fill want : Nat} (k : Clock)
    (he : e = p.engine t) (hsource : e.source = some .external) (hfree : p.master.current = none)
    (hfill : fill = e.ackPoint + e.fifo.length + bs.length) (hlength : fill ≤ e.imageLength)
    (hroom : e.fifo.length + bs.length ≤ 2048)
    (htimed : e.state = .streaming → (e.enter bs).paused = true → e.stallTimer.isSome = true)
    (hwant : want = min 64 (e.imageLength - fill)) :
    (p.dataRead k t bs).serveBus =
      (p.modTree t fun T =>
        { T with
          engine := e.entered bs
          fetchWait :=
            if T.fetchWait = none ∧ 0 < want ∧ want ≤ 2048 - (e.fifo.length + bs.length) then
              some ⟨.fetcher t, .data, 16384 + 4096 * (e.profile - 17) + fill, want, false⟩
            else T.fetchWait }).serveBus := by
  have htake : bs.take (min e.freeSpace (e.imageLength - e.fillCount)) = bs := by
    refine List.take_of_length_le ?_
    simp only [Engine.freeSpace, Engine.fillCount, Config.fifoBytes]
    omega
  obtain ⟨q, hq⟩ : ∃ q, q = p.modEngine t (·.enter bs) := ⟨_, rfl⟩
  have hqe : q.engine t = e.enter bs := by rw [hq, he]; exact Part.engine_modEngine_self _ _ _
  have hread : p.dataRead k t bs = q.refill k t := by
    rw [Part.dataRead, ← he, htake, hq]
  have hcount : (e.enter bs).fillCount = fill := by
    simp only [Engine.fillCount, Engine.enter, List.length_append]
    omega
  have hspace : (e.enter bs).freeSpace = 2048 - (e.fifo.length + bs.length) := by
    simp only [Engine.freeSpace, Engine.enter, List.length_append]
    rfl
  have hidle : q.fetching t = false := by
    have hqfree : q.master.current = none := by rw [hq]; exact hfree
    simp [Part.fetching, hqfree]
  have hwait : (q.tree t).fetchWait = (p.tree t).fetchWait := by rw [hq, Part.modEngine, Part.tree_modTree_self]
  have hcond : (decide (0 < want) && decide (want ≤ (e.enter bs).freeSpace) && (q.tree t).fetchWait.isNone
      && !q.fetching t) = true ↔
      (p.tree t).fetchWait = none ∧ 0 < want ∧ want ≤ 2048 - (e.fifo.length + bs.length) := by
    rw [hspace, hidle, hwait]
    simp only [Bool.and_eq_true, decide_eq_true_eq, Option.isNone_iff_eq_none, Bool.not_false, and_true]
    exact and_comm
  have hrefill : q.refill k t =
      (if decide (0 < want) && decide (want ≤ (e.enter bs).freeSpace) && (q.tree t).fetchWait.isNone && !q.fetching t then
        q.requestFetch t .data (16384 + 4096 * (e.profile - 17) + fill) want
      else q).pauseUpdate k t := by
    have hsource' : (q.engine t).source = some .external := by rw [hqe]; exact hsource
    simp only [Part.refill, hsource']
    rw [hqe, hcount]
    subst hwant
    rfl
  have hstream : (e.enter bs).state = .streaming → (e.enter bs).paused = true → (e.enter bs).stallTimer.isSome = true := htimed
  have hafter : ∀ w : Option Transfer,
      ((q.modTree t fun T => { T with fetchWait := w }).modEngine t fun e =>
        { e with stallTimer := if e.state = .streaming ∧ e.paused = false then none else e.stallTimer }) =
      p.modTree t fun T => { T with engine := e.entered bs, fetchWait := w } := by
    intro w
    rw [hq, Part.modEngine, Part.modEngine, Part.modTree_modTree, Part.modTree_modTree, he]
    exact Part.modTree_congr p t rfl
  rw [hread, hrefill]
  by_cases hc : (p.tree t).fetchWait = none ∧ 0 < want ∧ want ≤ 2048 - (e.fifo.length + bs.length)
  · have hqw : ∀ w, (q.modTree t fun T => { T with fetchWait := w }).engine t = e.enter bs := fun w => by
      rw [Part.engine, Part.tree_modTree_self]; exact hqe
    rw [if_pos (hcond.mpr hc), Part.requestFetch, Part.serveBus_pauseUpdate_of_timed k (by rw [hqw]; exact hstream), hafter]
    refine congrArg Part.serveBus (Part.modTree_congr p t ?_)
    rw [if_pos hc]
  · have hsame : q = q.modTree t fun T => { T with fetchWait := (p.tree t).fetchWait } :=
      (Part.modTree_of_keeps q t _ (by rw [← hwait])).symm
    rw [if_neg (fun h => hc (hcond.mp h)), Part.pauseUpdate_of_timed k (by rw [hqe]; exact hstream), hsame, hafter]
    refine congrArg Part.serveBus (Part.modTree_congr p t ?_)
    rw [if_neg hc]

/-! ### The pages of a save (R191) -/

section
variable {s : State} {v : Save} {x : Transfer} (hs : s.Settled) (hsave : s.part.save = some v)
  (hx : s.part.master.current = some x) (hr : x.requester = .saver)
include hs hsave hx hr

theorem exec_savePageDone_of_current (ack : Bool) :
    exec (.savePageDone ack) s = .next (s.withPart (s.part.pageWritten v x.address ack)) := by
  refine congrArg Host.Outcome.next ?_
  have hcurrent : s.part.transferOf .saver none = some x :=
    Part.transferOf_of_current hx hr fun bs hbs => nomatch hbs
  simp only [hs.ready, State.pageDone, hsave, hcurrent, Option.getD_some]

end

/-- With nothing requested and no save, a free bus stays free (R190). -/
theorem Part.serveBus_of_idle {p : Part} (hstore : p.straps.store = true) (hfree : p.master.current = none)
    (hsave : p.save = none) (hfetch : ∀ t, (p.tree t).fetchWait = none) : p.serveBus = p :=
  Part.serveBus_of_none hstore hfree
    ((Part.noneWaiting_iff p).mpr ⟨hfetch, fun _ hv => nomatch hsave.symm.trans hv⟩)

/-- With no fetch requested, a free bus goes to the next page of a save (R190). -/
theorem Part.serveBus_of_page {p : Part} {v : Save} {g : Page} {rest : List Page} (hstore : p.straps.store = true)
    (hfree : p.master.current = none) (hsave : p.save = some v) (hpages : v.pages = g :: rest)
    (hfetch : ∀ t, (p.tree t).fetchWait = none) :
    p.serveBus =
      { p with master := ⟨some ⟨.saver, .page g.bytes, g.address, g.bytes.length, false⟩, p.master.last⟩ } :=
  Part.serveBus_of_some hstore hfree
    (Part.firstWaiting_of_saver hfetch (Part.waitingTransfer_saver_of_pages hsave hpages)
      (mem_rotationAfter _ _ Requester.noConfusion))

section
variable {p : Part} {v : Save} {x : Transfer} {address : Nat} (hx : p.master.current = some x) (hr : x.requester = .saver)
  (hstore : p.straps.store = true) (hfetch : ∀ t, (p.tree t).fetchWait = none)
include hx hr hstore hfetch

/-- A page written leads to the next page of the save (R191). -/
theorem Part.pageWritten_of_more {g : Page} {more : List Page} (hrest : v.pages.drop 1 = g :: more) :
    p.pageWritten v address true =
      { p with
        save := some ⟨v.selector, g :: more, true⟩
        master := ⟨some ⟨.saver, .page g.bytes, g.address, g.bytes.length, false⟩, .saver⟩ } := by
  simp only [Part.pageWritten, Part.endTransfer_of_current hx, hr, hrest, if_true]
  exact Part.serveBus_of_page hstore rfl rfl rfl hfetch

/-- The last page written ends the save with OK (R191). -/
theorem Part.pageWritten_of_last (hrest : v.pages.drop 1 = []) :
    p.pageWritten v address true =
      ({ p with save := none, master := ⟨none, .saver⟩ } : Part).raise (.storeDone v.selector .ok 0) := by
  simp only [Part.pageWritten, Part.endTransfer_of_current hx, hr, hrest, if_true]
  exact Part.serveBus_of_idle hstore rfl rfl hfetch

/-- A page not acknowledged ends the save with the fault of its place (R191). -/
theorem Part.pageWritten_of_fault :
    p.pageWritten v address false =
      ({ p with save := none, master := ⟨none, .saver⟩ } : Part).raise
        (.storeDone v.selector (if v.anyWritten then .writeFail else .noDevice) address) := by
  simp only [Part.pageWritten, Part.endTransfer_of_current hx, hr, Bool.false_eq_true, if_false]
  exact Part.serveBus_of_idle hstore rfl rfl hfetch

end

/-- Settles O42: a fetcher's transfer by what its bytes say, then a page of a save. -/
theorem transfersEnd : Obligations.TransfersEnd := by
  unfold Obligations.TransfersEnd
  refine ⟨fun s t x hs hx hr => ⟨?_, ?_, ?_, ?_, ?_⟩, fun s v x g rest hs hstore hsave hx hr hpages hfetch => ⟨?_, ?_, ?_⟩⟩
  · intro bs hi lo more h r l hkind hkeep hbs hlen h1 h2 hserving _ _
    rw [exec_fetchDirectoryDone_of_current hs hx hr hkind (fun b hb => Option.some.inj hb ▸ hlen),
      Part.fetchEnds_of_bytes _ hx hr bs hkeep,
      Part.directoryRead_of_good (p := { s.part with master := ⟨none, .fetcher t⟩ }) (h := h) _ (by exact hserving) (hbs ▸ directoryLength_of_good more h1 h2)]
  · intro bs h hkind hkeep hlen hbad hserving
    rw [exec_fetchDirectoryDone_of_current hs hx hr hkind (fun b hb => Option.some.inj hb ▸ hlen),
      Part.fetchEnds_of_bytes _ hx hr bs hkeep]
    refine ⟨fun hf => ?_, fun r hf hrecord => ?_⟩
    · rw [Part.directoryRead_of_default (p := { s.part with master := ⟨none, .fetcher t⟩ }) (h := h) _ (by exact hserving)
        (directoryLength_of_bad hbad) (by exact hf)]
    · rw [Part.directoryRead_of_hold (p := { s.part with master := ⟨none, .fetcher t⟩ }) (h := h) _ (by exact hserving)
        (directoryLength_of_bad hbad) (by exact hf),
        Part.idle_holdRecord_eq hrecord, hs.2]
      rfl
  · intro bs e after fill want hkind hkeep hlen he hsource hafter hfill hlength hroom htimed hwant
    rw [exec_fetchDataDone_of_current hs hx hr hkind (fun b hb => Option.some.inj hb ▸ hlen),
      Part.fetchEnds_of_bytes _ hx hr bs hkeep]
    subst hafter
    exact congrArg (fun q => Host.Outcome.next (s.withPart q))
      (Part.dataRead_serveBus _ (by exact he) hsource rfl hfill hlength hroom htimed hwant)
  · intro c result hc hfits hgone
    obtain ⟨f, hexec⟩ := exec_fetchDone_of_current hs hx hr hc hfits
    rw [hexec, Part.fetchEnds_of_discard _ hx hr _ hgone]
  · intro c hc hkeep
    obtain ⟨f, hexec⟩ := exec_fetchDone_of_current hs hx hr hc (fun bs hbs => nomatch hbs)
    rw [hexec, Part.fetchEnds_of_none _ hx hr hkeep]
  · intro g' more hrest
    rw [exec_savePageDone_of_current hs hsave hx hr,
      Part.pageWritten_of_more (v := v) hx hr hstore hfetch (by rw [hpages]; exact hrest), ← hrest]
    exact congrArg Host.Outcome.next (State.withPart_quiet s (by exact hs.2))
  · intro hrest
    rw [exec_savePageDone_of_current hs hsave hx hr,
      Part.pageWritten_of_last (v := v) hx hr hstore hfetch (by rw [hpages]; exact hrest)]
    exact congrArg Host.Outcome.next (State.withPart_raise s (by exact hs.2) _)
  · rw [exec_savePageDone_of_current hs hsave hx hr, Part.pageWritten_of_fault hx hr hstore hfetch]
    exact congrArg Host.Outcome.next (State.withPart_raise s (by exact hs.2) _)

end Sys2Proof.Machine
end

section
/-!
PROOFS. The requests on one record and the orders STANDDOWN and LIFT (the statements O53 to O55).
-/

namespace Sys2Proof.Machine

/-! ### What a request names -/

theorem treeOf_of_large {n : Nat} (h : 3 < n) : treeOf n = none := by
  match n with
  | n + 4 => rfl

theorem treeOf_toNat (t : TreeId) : treeOf (BitVec.ofNat 8 (treeNo t)).toNat = some t := by cases t <;> rfl

/-- A tree above 3, a handle 0 or above 64 names no record (12.10). -/
theorem recordAt_of_bad {b c : Byte} (h : 3 < b.toNat ∨ c = 0 ∨ 64 < c.toNat) : recordAt [b, c] 0 = none := by
  have hb : byteAt [b, c] 0 = b := rfl
  have hc : byteAt [b, c] (0 + 1) = c := rfl
  rw [recordAt, hb, hc]
  cases ht : treeOf b.toNat with
  | none => rfl
  | some t =>
    have hbad : ¬(1 ≤ c.toNat ∧ c.toNat ≤ 64) := by
      rintro ⟨h1, h2⟩
      obtain h | rfl | h := h
      · rw [treeOf_of_large h] at ht
        cases ht
      · exact absurd h1 (by decide)
      · omega
    exact if_neg (by rwa [Bool.and_eq_true, decide_eq_true_eq, decide_eq_true_eq])

theorem recordAt_of_good (t : TreeId) {h : Nat} (h1 : 1 ≤ h) (h2 : h ≤ 64) :
    recordAt [BitVec.ofNat 8 (treeNo t), BitVec.ofNat 8 h] 0 = some (t, h) := by
  have hb : byteAt [BitVec.ofNat 8 (treeNo t), BitVec.ofNat 8 h] 0 = BitVec.ofNat 8 (treeNo t) := rfl
  have hc : byteAt [BitVec.ofNat 8 (treeNo t), BitVec.ofNat 8 h] (0 + 1) = BitVec.ofNat 8 h := rfl
  have hn : (BitVec.ofNat 8 h).toNat = h := by rw [BitVec.toNat_ofNat]; omega
  rw [recordAt, hb, hc, treeOf_toNat]
  simp only [hn]
  exact if_pos (by rw [Bool.and_eq_true, decide_eq_true_eq, decide_eq_true_eq]; exact ⟨h1, h2⟩)

section
variable {p : Part} {t : TreeId} {h : Nat} {f : TreeId → Nat → Record → Answer}

theorem withRecord_of_bad {b c : Byte} (hbad : 3 < b.toNat ∨ c = 0 ∨ 64 < c.toNat) :
    withRecord p [b, c] f = refuse p .badField := by
  rw [withRecord, recordAt_of_bad hbad]

variable (h1 : 1 ≤ h) (h2 : h ≤ 64)
include h1 h2

theorem withRecord_of_free (hr : p.record? t h = none) :
    withRecord p [BitVec.ofNat 8 (treeNo t), BitVec.ofNat 8 h] f = refuse p .notFound := by
  simp only [withRecord, recordAt_of_good t h1 h2, hr]

theorem withRecord_of_record {r : Record} (hr : p.record? t h = some r) :
    withRecord p [BitVec.ofNat 8 (treeNo t), BitVec.ofNat 8 h] f = f t h r := by
  simp only [withRecord, recordAt_of_good t h1 h2, hr]

end

/-- A request carried out that raises notices. -/
theorem State.request_raising {s : State} (hs : s.Taking) {kind : Byte} {fits : Bool} (hfits : fits = true)
    {act : Clock → Part → Answer} {q : Part} {ns : List Notice} {data : List Byte}
    (hact : act s.clock s.part = okay { q with raised := s.part.raised ++ ns } data) (hq : q.raised = s.part.raised) :
    s.request kind fits act = s.afterRequest q ns kind .ok data := by
  rw [State.request_of_answer hs hfits hact, hs.raised_eq]
  exact congrArg (fun p => s.afterRequest p ns kind .ok data) (Part.forget_raised (hq.trans hs.raised_eq))

theorem exec_retire (body : List Byte) (s : State) :
    exec (.retire body) s = .next (s.request 0x1B#8 (body.length == 2) (retireAnswer body)) := rfl

theorem exec_release (body : List Byte) (s : State) :
    exec (.release body) s = .next (s.request 0x1C#8 (body.length == 2) (releaseAnswer body)) := rfl

theorem exec_realign (body : List Byte) (s : State) :
    exec (.realign body) s = .next (s.request 0x1D#8 (body.length == 2) (realignAnswer body)) := rfl

theorem exec_reload (body : List Byte) (s : State) :
    exec (.reload body) s = .next (s.request 0x1E#8 (body.length == 2) (reloadAnswer body)) := rfl

/-! ### A push served to a record that leaves it (R162) -/

/-- With no record in its push queue an engine takes none (R146). -/
theorem Part.takeTest_of_empty {p : Part} {t : TreeId} (k : Clock) (h : (p.tree t).pushQueue = []) : p.takeTest k t = p := by
  have hnone : p.nextToTake t = none := by rw [Part.nextToTake, h]; rfl
  have hone : p.takeOne k t = (p, false) := by
    simp only [Part.takeOne, hnone]
    split <;> rfl
  rw [Part.takeTest, Part.takeUpTo, hone]
  rfl

/-- An engine that serves a push takes no other record (R146). -/
theorem Part.takeTest_of_busy {p : Part} {t : TreeId} (k : Clock) (h : (p.engine t).state ≠ .idle) : p.takeTest k t = p := by
  have hone : p.takeOne k t = (p, false) := by
    refine if_pos ?_
    rw [Bool.or_eq_true, bne_iff_ne]
    exact Or.inl h
  rw [Part.takeTest, Part.takeUpTo, hone]
  rfl

/-- A tree whose engine has let go of the push of a record that leaves it (R118, R162). -/
def Tree.pushAborted (h : Nat) (T : Tree) : Tree := { T.pushCleared h with expectations := orphaned h T.expectations }

theorem orphanedLoadStatus_orphaned (h : Nat) (xs : List Expectation) :
    orphanedLoadStatus h (orphaned h xs) = orphaned h xs := by
  rw [orphanedLoadStatus, orphaned, List.map_map]
  refine List.map_congr_left fun e _ => ?_
  by_cases he : e.handle = h <;> by_cases hp : e.purpose = .loadStatus <;> simp [he, hp]

theorem orphaned_orphanedWhile (b : Bool) (h : Nat) (xs : List Expectation) :
    orphaned h (xs.map fun e => if b && e.handle == h && e.purpose == .loadStatus then { e with orphan := true } else e) =
      orphaned h xs := by
  rw [orphaned, List.map_map]
  refine List.map_congr_left fun e _ => ?_
  by_cases he : e.handle = h <;> by_cases hp : e.purpose = .loadStatus <;> cases b <;> simp [he, hp]

theorem Part.orphan_clearPush_eq (p : Part) (t : TreeId) (h : Nat) :
    ((p.orphan t h).orphanLoadStatus t h).clearPush t h =
      { p.modTree t (Tree.pushAborted h) with master := p.master.discarding t } := by
  rw [Part.clearPush_eq, Part.orphan, Part.orphanLoadStatus, Part.modExpectations, Part.modExpectations,
    Part.modTree_modTree, Part.modTree_modTree]
  refine congrArg (fun q : Part => { q with master := p.master.discarding t }) (Part.modTree_congr p t ?_)
  exact congrArg (fun xs => { (p.tree t).pushCleared h with expectations := xs }) (orphanedLoadStatus_orphaned h _)

theorem Part.letGo_orphan_eq (p : Part) (t : TreeId) (h : Nat) :
    (p.letGo t h).orphan t h = { p.modTree t (Tree.pushAborted h) with master := p.master.discarding t } := by
  rw [Part.letGo_eq]
  refine Eq.trans (congrArg (fun q : Part => { q with master := p.master.discarding t })
    (Part.modTree_modTree p t _ fun T => { T with expectations := orphaned h T.expectations })) ?_
  refine congrArg (fun q : Part => { q with master := p.master.discarding t }) (Part.modTree_congr p t ?_)
  exact congrArg (fun xs => { (p.tree t).pushCleared h with expectations := xs }) (orphaned_orphanedWhile _ h _)

/-- The tree of a record freed while its push was served, as the model takes the changes (R96, R162). -/
def Tree.freedThenAborted (h : Nat) (T : Tree) : Tree :=
  { (T.withdrawn (Order.isOfFreed h)).pushAborted h with turnedAway := false }

/-- The same with the push let go first (R161). -/
def Tree.letGoThenFreed (h : Nat) (T : Tree) : Tree :=
  { T.pushCleared h with
    queue := (T.pushCleared h).queue.filter fun o => !o.isOfFreed h
    heldOrders := (T.pushCleared h).heldOrders.filter fun o => !o.isOfFreed h
    expectations :=
      orphaned h (T.expectations.map fun e =>
        if T.engine.awaiting && e.handle == h && e.purpose == .loadStatus then { e with orphan := true } else e)
    pushQueue := T.pushQueue.filter (· != h)
    turnedAway := false }

theorem Tree.freedThenAborted_eq (h : Nat) {T : Tree} (hqueue : T.pushQueue = []) :
    T.freedThenAborted h = T.letGoThenFreed h := by
  have hcomm : ∀ os : List Order, (os.filter fun o => !o.isOfFreed h).filter (fun o => !o.isPush h) =
      (os.filter fun o => !o.isPush h).filter fun o => !o.isOfFreed h := fun os => by
    rw [List.filter_filter, List.filter_filter]
    exact congrArg (os.filter ·) (funext fun o => Bool.and_comm _ _)
  simp only [Tree.freedThenAborted, Tree.letGoThenFreed, Tree.pushAborted, Tree.pushCleared, Tree.withdrawn,
    orphaned_orphanedWhile, hcomm, hqueue]
  rfl

section
variable {p : Part} {t : TreeId} {h : Nat} (k : Clock) (hserving : (p.engine t).serving = some h)
include hserving

/-- The push served to a record that leaves it is let go, and the engine may take the next (R118, R161, R162). -/
theorem Part.orphan_leavePush_of_served :
    (p.orphan t h).leavePush k t h = ((p.letGo t h).orphan t h).takeTest k t := by
  have hserving' : ((p.orphan t h).engine t).serving = some h := by
    rw [Part.orphan, Part.modExpectations, Part.engine, Part.tree_modTree_self]
    exact hserving
  rw [Part.leavePush, hserving', if_pos (by simp), Part.abortPush, Part.orphan_clearPush_eq, Part.letGo_orphan_eq]

/-- A record whose push is being served, and for which no other waits, is freed as after its push was let go (R96, R162). -/
theorem Part.freeRecord_of_served {r : Record} (hr : p.record? t h = some r) (hqueue : (p.tree t).pushQueue = [])
    (cause : Cause) :
    p.freeRecord k t h cause =
      { (p.letGo t h).freed t h r.tag with raised := p.raised ++ [.terminal t h r.tag r.state .free cause] } := by
  obtain ⟨ht, hh⟩ := Part.record?_name hr
  obtain ⟨q, hq⟩ : ∃ q, q = p.modEntry r.tag fun e => { e with bound := false } := ⟨_, rfl⟩
  have htree : ((q.withdraw t (Order.isOfFreed h)).tree t) = (p.tree t).withdrawn (Order.isOfFreed h) := by
    rw [Part.withdraw_eq, hq]
    exact Part.tree_modTree_self _ _ _
  have hserving' : ((q.withdraw t (Order.isOfFreed h)).engine t).serving = some h := by
    rw [Part.engine, htree]
    exact hserving
  have hempty : ((((q.withdraw t (Order.isOfFreed h)).letGo t h).orphan t h).tree t).pushQueue = [] := by
    rw [Part.letGo_orphan_eq]
    refine (congrArg Tree.pushQueue (Part.tree_modTree_self (q.withdraw t (Order.isOfFreed h)) t (Tree.pushAborted h))).trans ?_
    rw [Tree.pushAborted, Tree.pushCleared, htree]
    exact hqueue
  have hswap : (((q.withdraw t (Order.isOfFreed h)).letGo t h).orphan t h).dropRecord t h =
      { ((q.withdraw t (Order.isOfFreed h)).dropRecord t h).modTree t (Tree.pushAborted h) with
        master := q.master.discarding t } := by
    rw [Part.letGo_orphan_eq, Part.withdraw_eq]
    rfl
  simp only [Part.freeRecord, hr, ← hq, Part.orphan_leavePush_of_served k hserving', Part.takeTest_of_empty k hempty,
    Part.raiseTerminal, ht, hh, hswap, Part.withdraw_isOfFreed_dropRecord]
  have hleft : (({ (((p.modEntry r.tag fun e => { e with bound := false }).modTree t
        (Tree.withdrawn (Order.isOfFreed h))).dropRecord t h).modTree t (Tree.pushAborted h) with
        master := p.master.discarding t } : Part).modTree t fun T => { T with turnedAway := false }) =
      { p.modTree t (Tree.freedThenAborted h) with
        master := p.master.discarding t
        records := p.records.filter fun r => !r.named t h
        admission := p.admission.map fun e => if e.tag == r.tag then { e with bound := false } else e } := by
    cases t <;> rfl
  have hright : (p.letGo t h).freed t h r.tag =
      { p.modTree t (Tree.letGoThenFreed h) with
        master := p.master.discarding t
        records := p.records.filter fun r => !r.named t h
        admission := p.admission.map fun e => if e.tag == r.tag then { e with bound := false } else e } := by
    rw [Part.letGo_eq]
    cases t <;> rfl
  rw [hright, ← Part.modTree_congr p t (Tree.freedThenAborted_eq h hqueue), ← hleft, hq]
  rfl

end

/-! ### RETIRE and RELEASE (R100, R101) -/

section
variable {p : Part} {t : TreeId} {h : Nat} {r : Record} (k : Clock) (h1 : 1 ≤ h) (h2 : h ≤ 64) (hr : p.record? t h = some r)
include h1 h2 hr

theorem retireAnswer_of_record :
    retireAnswer [BitVec.ofNat 8 (treeNo t), BitVec.ofNat 8 h] k p =
      okay ((if r.state.aligned then p.offer t (.relisten h) else p).freeRecord k t h .byRequest) [byte r.state.code] :=
  withRecord_of_record h1 h2 hr

theorem releaseAnswer_of_held (hstate : r.state = .held) :
    releaseAnswer [BitVec.ofNat 8 (treeNo t), BitVec.ofNat 8 h] k p =
      okay ((p.modEntry r.tag fun e => { e with conflict := false }).freeRecord k t h .byRequest) [] :=
  (withRecord_of_record h1 h2 hr).trans (if_pos (beq_iff_eq.mpr hstate))

theorem releaseAnswer_of_not_held (hstate : r.state ≠ .held) :
    releaseAnswer [BitVec.ofNat 8 (treeNo t), BitVec.ofNat 8 h] k p = refuse p .wrongState :=
  (withRecord_of_record h1 h2 hr).trans (if_neg (by rwa [beq_iff_eq]))

end

theorem RecState.aligned_iff (x : RecState) : x.aligned = true ↔ x = .aligning ∨ x = .loading ∨ x = .inService := by
  cases x <;> simp [RecState.aligned]

theorem RecState.not_aligned_iff (x : RecState) : x.aligned = false ↔ x = .free ∨ x = .heard ∨ x = .refind ∨ x = .held := by
  cases x <;> simp [RecState.aligned]

/-- What a RELISTEN offered leaves of the engine, the push queue and the records (R9). -/
theorem Part.offer_relisten_keeps (p : Part) (t : TreeId) (h : Nat) :
    ((p.offer t (.relisten h)).engine t) = p.engine t
      ∧ ((p.offer t (.relisten h)).tree t).pushQueue = (p.tree t).pushQueue
      ∧ (p.offer t (.relisten h)).records = p.records
      ∧ (p.offer t (.relisten h)).raised = p.raised := by
  rw [Part.offer_of_not_lagByTag p t (o := .relisten h) (fun _ _ _ => Order.noConfusion)]
  have hkeep : ((p.tree t).offered (.relisten h)).engine = (p.tree t).engine
      ∧ ((p.tree t).offered (.relisten h)).pushQueue = (p.tree t).pushQueue := by
    rw [Tree.offered]
    (repeat' split) <;> exact ⟨rfl, rfl⟩
  rw [Part.engine, Part.tree_modTree_self]
  exact ⟨hkeep.1, hkeep.2, rfl, rfl⟩

/-- Settles O53: RETIRE and RELEASE free the record as R96 says, a push served to it being let go first. -/
theorem retireRelease : Obligations.RetireRelease := by
  unfold Obligations.RetireRelease
  intro s hs
  refine ⟨fun b c hbad => ⟨?_, ?_⟩, fun t h h1 h2 => ⟨fun hr => ⟨?_, ?_⟩, fun r hr => ⟨?_, ?_, ?_, ?_, ?_⟩⟩⟩
  · exact (exec_retire _ s).trans (congrArg _ (State.request_refuse hs rfl (withRecord_of_bad hbad)))
  · exact (exec_release _ s).trans (congrArg _ (State.request_refuse hs rfl (withRecord_of_bad hbad)))
  · exact (exec_retire _ s).trans (congrArg _ (State.request_refuse hs rfl (withRecord_of_free h1 h2 hr)))
  · exact (exec_release _ s).trans (congrArg _ (State.request_refuse hs rfl (withRecord_of_free h1 h2 hr)))
  · intro hstate hserving
    have haligned : r.state.aligned = false := (RecState.not_aligned_iff _).mpr (Or.inr hstate)
    refine (exec_retire _ s).trans (congrArg _ (State.request_raising hs rfl ?_ rfl))
    rw [retireAnswer_of_record _ h1 h2 hr, haligned, if_neg Bool.false_ne_true, Part.freeRecord_of_not_served _ hr hserving]
    rfl
  · intro hstate hserving
    have haligned : r.state.aligned = true := (RecState.aligned_iff _).mpr hstate
    obtain ⟨hengine, -, hrecords, hraised⟩ := Part.offer_relisten_keeps s.part t h
    refine (exec_retire _ s).trans (congrArg _ (State.request_raising hs rfl ?_ hraised))
    rw [retireAnswer_of_record _ h1 h2 hr, haligned, if_pos rfl,
      Part.freeRecord_of_not_served _ (by rw [Part.record?, hrecords]; exact hr) (by rw [hengine]; exact hserving), hraised]
    rfl
  · intro hstate hserving hqueue
    have haligned : r.state.aligned = true := (RecState.aligned_iff _).mpr (Or.inr (Or.inl hstate))
    obtain ⟨hengine, hpush, hrecords, hraised⟩ := Part.offer_relisten_keeps s.part t h
    refine (exec_retire _ s).trans (congrArg _ (State.request_raising hs rfl ?_ hraised))
    rw [retireAnswer_of_record _ h1 h2 hr, haligned, if_pos rfl,
      Part.freeRecord_of_served _ (by rw [hengine]; exact hserving) (by rw [Part.record?, hrecords]; exact hr)
        (hpush.trans hqueue), hraised, hstate]
    rfl
  · intro hstate hserving
    refine (exec_release _ s).trans (congrArg _ (State.request_raising hs rfl ?_ rfl))
    rw [releaseAnswer_of_held _ h1 h2 hr hstate,
      Part.freeRecord_of_not_served (p := s.part.modEntry r.tag fun e => { e with conflict := false }) _ hr hserving, hstate]
    simp only [Part.modEntry, beq_iff_eq]
  · intro hstate
    exact (exec_release _ s).trans
      (congrArg _ (State.request_refuse hs rfl (releaseAnswer_of_not_held _ h1 h2 hr hstate)))

/-! ### REALIGN and RELOAD (R102, R103) -/

section
variable {p : Part} {t : TreeId} {h : Nat} {r : Record} (k : Clock) (h1 : 1 ≤ h) (h2 : h ≤ 64) (hr : p.record? t h = some r)
include h1 h2 hr

theorem realignAnswer_of_aligned (hstate : r.state.aligned = true) :
    realignAnswer [BitVec.ofNat 8 (treeNo t), BitVec.ofNat 8 h] k p = okay (p.enterRefind k t h .byRequest) [] :=
  (withRecord_of_record h1 h2 hr).trans (if_pos hstate)

theorem realignAnswer_of_not_aligned (hstate : r.state.aligned = false) :
    realignAnswer [BitVec.ofNat 8 (treeNo t), BitVec.ofNat 8 h] k p = refuse p .wrongState :=
  (withRecord_of_record h1 h2 hr).trans (if_neg (by rw [hstate]; exact Bool.false_ne_true))

theorem reloadAnswer_of_not_inService (hstate : r.state ≠ .inService) :
    reloadAnswer [BitVec.ofNat 8 (treeNo t), BitVec.ofNat 8 h] k p = refuse p .wrongState :=
  (withRecord_of_record h1 h2 hr).trans (if_pos (bne_iff_ne.mpr hstate))

variable {e : AdmitEntry} (hentry : p.entry? r.tag = some e) (hstate : r.state = .inService)
include hentry hstate

theorem reloadAnswer_of_no_profile (hprofile : e.profile = 0) :
    reloadAnswer [BitVec.ofNat 8 (treeNo t), BitVec.ofNat 8 h] k p = refuse p .badField := by
  rw [reloadAnswer, withRecord_of_record h1 h2 hr]
  simp [hstate, Part.profileOf, hentry, hprofile]

theorem reloadAnswer_of_profile (hprofile : e.profile ≠ 0) :
    reloadAnswer [BitVec.ofNat 8 (treeNo t), BitVec.ofNat 8 h] k p =
      okay (p.enterLoading k t h e.profile .byRequest) [] := by
  rw [reloadAnswer, withRecord_of_record h1 h2 hr]
  simp [hstate, Part.profileOf, hentry, hprofile]

end

/-- A record as its entry to LOADING leaves it (R92). -/
def Record.loadingAs (r : Record) (profile : Nat) (cause : Cause) : Record :=
  { r with
    state := .loading
    cause := cause
    load := some ⟨profile, .queued, 0, none⟩
    check := .none }

/-- A record enters LOADING while the engine is serving another (R92, R145). -/
theorem Part.enterLoading_of_busy {p : Part} {t : TreeId} {h : Nat} {r : Record} (k : Clock) (hr : p.record? t h = some r)
    (hbusy : (p.engine t).state ≠ .idle) (profile : Nat) (cause : Cause) :
    p.enterLoading k t h profile cause =
      { (p.modTree t fun T => { T with pushQueue := T.pushQueue ++ [h] }).modRecord t h (·.loadingAs profile cause) with
        raised := p.raised ++ [.terminal t h r.tag r.state .loading cause] } := by
  obtain ⟨ht, hh⟩ := Part.record?_name hr
  simp only [Part.enterLoading, hr, Part.joinQueue, Part.raiseTerminal, ht, hh]
  refine (Part.takeTest_of_busy k ?_).trans rfl
  rw [Part.engine, Part.tree_modTree_self]
  exact hbusy

/-- Settles O54: a record aligned enters REFIND, one IN_SERVICE enters LOADING with the profile of its entry. -/
theorem realignReload : Obligations.RealignReload := by
  unfold Obligations.RealignReload
  intro s hs
  refine ⟨fun b c hbad => ⟨?_, ?_⟩, fun t h h1 h2 hr => ⟨?_, ?_⟩,
    fun t h r h1 h2 hr => ⟨?_, ?_, ?_, fun e hentry hstate => ⟨?_, ?_⟩⟩⟩
  · exact (exec_realign _ s).trans (congrArg _ (State.request_refuse hs rfl (withRecord_of_bad hbad)))
  · exact (exec_reload _ s).trans (congrArg _ (State.request_refuse hs rfl (withRecord_of_bad hbad)))
  · exact (exec_realign _ s).trans (congrArg _ (State.request_refuse hs rfl (withRecord_of_free h1 h2 hr)))
  · exact (exec_reload _ s).trans (congrArg _ (State.request_refuse hs rfl (withRecord_of_free h1 h2 hr)))
  · intro hstate
    have haligned : r.state.aligned = false := (RecState.not_aligned_iff _).mpr (Or.inr hstate)
    exact (exec_realign _ s).trans
      (congrArg _ (State.request_refuse hs rfl (realignAnswer_of_not_aligned _ h1 h2 hr haligned)))
  · intro hstate hserving henabled haccepts
    have haligned : r.state.aligned = true := (RecState.aligned_iff _).mpr hstate
    have hoffer := Part.offer_of_not_lagByTag s.part t (o := .relisten h) (fun _ _ _ => Order.noConfusion)
    have hqueue : (s.part.tree t).offered (.relisten h) =
        { s.part.tree t with queue := (s.part.tree t).queue ++ [.relisten h] } := by
      simp [Tree.offered, henabled, haccepts]
    have hrelistened : s.part.relistened t h = s.part.modTree t fun T =>
        { T with
          queue := T.queue ++ [.relisten h]
          expectations := T.expectations.map fun e => if e.handle == h then { e with orphan := true } else e
          pushQueue := T.pushQueue.filter (· != h) } := by
      rw [Part.relistened, hoffer, Part.modTree_modTree]
      refine Part.modTree_congr s.part t ?_
      rw [hqueue]
    refine ⟨_, (exec_realign _ s).trans (congrArg _ (State.request_raising hs rfl
      ((realignAnswer_of_aligned _ h1 h2 hr haligned).trans
        (congrArg (okay · []) (Part.enterRefind_of_not_served _ hr hserving .byRequest))) ?_)), ?_, ?_⟩
    · rw [hrelistened]
      rfl
    · rw [hrelistened]
      exact Part.modRecord_onlyRecord _ t h fun _ => ⟨rfl, rfl⟩
    · rw [hrelistened]
      exact Part.record?_modRecord_some (by exact hr) fun _ => ⟨rfl, rfl⟩
  · intro hstate
    exact (exec_reload _ s).trans
      (congrArg _ (State.request_refuse hs rfl (reloadAnswer_of_not_inService _ h1 h2 hr hstate)))
  · intro hprofile
    exact (exec_reload _ s).trans
      (congrArg _ (State.request_refuse hs rfl (reloadAnswer_of_no_profile _ h1 h2 hr hentry hstate hprofile)))
  · intro hprofile hbusy
    have hload := Part.enterLoading_of_busy s.clock hr hbusy e.profile .byRequest
    rw [hstate] at hload
    refine ⟨(s.part.modTree t fun T => { T with pushQueue := T.pushQueue ++ [h] }).modRecord t h
      (·.loadingAs e.profile .byRequest), (exec_reload _ s).trans (congrArg _ (State.request_raising hs rfl
        ((reloadAnswer_of_profile _ h1 h2 hr hentry hstate hprofile).trans (congrArg (okay · []) hload)) rfl)), ?_, ?_⟩
    · exact Part.modRecord_onlyRecord _ t h fun _ => ⟨rfl, rfl⟩
    · exact Part.record?_modRecord_some (by exact hr) fun _ => ⟨rfl, rfl⟩

/-! ### STANDDOWN and LIFT (R104, R105) -/

theorem exec_standdown (body : List Byte) (s : State) :
    exec (.standdown body) s = .next (s.request 0x1F#8 (body.length == 9) (standdownAnswer body)) := rfl

theorem exec_lift (body : List Byte) (s : State) :
    exec (.lift body) s = .next (s.request 0x20#8 (body.length == 9) (liftAnswer body)) := rfl

/-- A tree mask of 0 or above 15 is refused (12.10). -/
theorem maskAt_of_bad {b : Byte} (rest : List Byte) (h : b = 0 ∨ 15 < b.toNat) : maskAt (b :: rest) 0 = none := by
  have hb : byteAt (b :: rest) 0 = b := rfl
  rw [maskAt, hb]
  refine if_pos ?_
  rwa [Bool.or_eq_true, beq_iff_eq, decide_eq_true_eq]

theorem maskAt_of_good {m : TreeMask} (rest : List Byte) (h : m ≠ 0) : maskAt (m.setWidth 8 :: rest) 0 = some m := by
  have hb : byteAt (m.setWidth 8 :: rest) 0 = m.setWidth 8 := rfl
  have hle : ¬15 < (m.setWidth 8 : Byte).toNat := by
    rw [mask_setWidth_toNat]
    omega
  rw [maskAt, hb]
  refine (if_neg ?_).trans (congrArg some (mask_setWidth m))
  rw [Bool.or_eq_true, beq_iff_eq, decide_eq_true_eq, mask_setWidth_eq_zero_iff]
  exact not_or.mpr ⟨h, hle⟩

theorem tagField_of_masked (b : Byte) (g : Tag) : tagOf (fieldAt (b :: tagBytes g) 1 8) = g := by
  have hfield : fieldAt (b :: tagBytes g) 1 8 = tagBytes g := rfl
  rw [hfield, tagOf_tagBytes]

/-- A change of each tree of a mask, as a change of every tree (00_scope, Identities and numbering). -/
theorem Part.foldl_treesOf (p : Part) (m : TreeMask) (f : Part → TreeId → Part) :
    (treesOf m).foldl f p = p.eachTree fun p t => if inMask m t then f p t else p := by
  rw [treesOf, List.foldl_filter]
  rfl

theorem Part.offerOn_eq (p : Part) (m : TreeMask) {o : Order} (ho : ∀ g h l, o ≠ .lagByTag g h l) :
    p.offerOn m o = p.eachTree fun p t => p.modTree t fun T => if inMask m t then T.offered o else T := by
  rw [Part.offerOn, Part.foldl_treesOf]
  refine congrArg p.eachTree (funext fun q => funext fun t => ?_)
  cases hm : inMask m t with
  | true => exact Part.offer_of_not_lagByTag q t ho
  | false => exact (Part.modTree_of_keeps q t _ rfl).symm

/-- An order offered on each tree of a mask while every queue has room: the queues of the ENABLED ones alone take it
(R3, R104). -/
theorem Part.offerOn_tree (p : Part) (m : TreeMask) {o : Order} (ho : ∀ g h l, o ≠ .lagByTag g h l) (t : TreeId)
    (haccepts : (p.tree t).accepts = true) :
    (p.offerOn m o).tree t =
      if inMask m t = true ∧ (p.tree t).enabled = true then
        { p.tree t with queue := (p.tree t).queue ++ [o] }
      else p.tree t := by
  rw [Part.offerOn_eq p m ho, Part.eachTree_modTree_tree]
  cases hm : inMask m t with
  | false => simp
  | true =>
    cases he : (p.tree t).enabled with
    | false => simp [Tree.offered, he]
    | true => simp [Tree.offered, he, haccepts]

theorem Part.ext_of_trees {p q q' : Part} (hq : q = { p with trees := q.trees }) (hq' : q' = { p with trees := q'.trees })
    (h : ∀ t, q.tree t = q'.tree t) : q = q' := by
  rw [hq, hq', PerTree.ext_get (p := q.trees) (q := q'.trees) h]

theorem standdownAnswer_of_bad {b : Byte} (rest : List Byte) (h : b = 0 ∨ 15 < b.toNat) (k : Clock) (p : Part) :
    standdownAnswer (b :: rest) k p = refuse p .badField := by
  rw [standdownAnswer, maskAt_of_bad rest h]

theorem liftAnswer_of_bad {b : Byte} (rest : List Byte) (h : b = 0 ∨ 15 < b.toNat) (k : Clock) (p : Part) :
    liftAnswer (b :: rest) k p = refuse p .badField := by
  rw [liftAnswer, maskAt_of_bad rest h]

theorem standdownAnswer_of_mask {m : TreeMask} (h : m ≠ 0) (g : Tag) (k : Clock) (p : Part) :
    standdownAnswer (m.setWidth 8 :: tagBytes g) k p =
      okay ((p.offerOn m (.standdown g)).standRecordDown k m g) [(p.enabledOf m).setWidth 8] := by
  simp only [standdownAnswer, maskAt_of_good _ h, tagField_of_masked]

theorem liftAnswer_of_mask {m : TreeMask} (h : m ≠ 0) (g : Tag) (k : Clock) (p : Part) :
    liftAnswer (m.setWidth 8 :: tagBytes g) k p = okay (p.offerOn m (.lift g)) [(p.enabledOf m).setWidth 8] := by
  simp only [liftAnswer, maskAt_of_good _ h, tagField_of_masked]

section
variable {p : Part} {m : TreeMask} {g : Tag} (k : Clock)

theorem Part.standRecordDown_of_none (h : ∀ r, p.recordOf? g = some r → r.state = .held ∨ inMask m r.tree = false) :
    p.standRecordDown k m g = p := by
  rw [Part.standRecordDown]
  cases hr : p.recordOf? g with
  | none => rfl
  | some r =>
    refine if_neg ?_
    obtain hstate | hmask := h r hr
    · simp [hstate]
    · simp [hmask]

theorem Part.standRecordDown_of_record {r : Record} (hr : p.recordOf? g = some r) (hstate : r.state ≠ .held)
    (hmask : inMask m r.tree = true) : p.standRecordDown k m g = p.enterHeld k r.tree r.handle .stoodDown := by
  simp [Part.standRecordDown, hr, hstate, hmask]

end

/-- Settles O55: the order is offered tree by tree, and the record of the tag enters HELD. -/
theorem standdownLift : Obligations.StanddownLift := by
  unfold Obligations.StanddownLift
  intro s g hs
  refine ⟨fun b hbad => ⟨?_, ?_⟩, fun m hm haccepts q hq => ?_⟩
  · exact (exec_standdown _ s).trans (congrArg _ (State.request_refuse hs rfl (standdownAnswer_of_bad _ hbad _ _)))
  · exact (exec_lift _ s).trans (congrArg _ (State.request_refuse hs rfl (liftAnswer_of_bad _ hbad _ _)))
  have hoffer : ∀ o : Order, (∀ g h l, o ≠ .lagByTag g h l) → s.part.offerOn m o = q o := by
    intro o ho
    obtain ⟨hq, htrees⟩ := hq o
    refine Part.ext_of_trees (p := s.part) (by rw [Part.offerOn_eq _ _ ho]; rfl) hq fun t => ?_
    rw [htrees, Part.offerOn_tree _ _ ho t (haccepts t)]
  have hstanddown := hoffer (.standdown g) fun _ _ _ => Order.noConfusion
  have hfields : ∀ o, (q o).records = s.part.records ∧ (q o).raised = s.part.raised := fun o => by
    rw [(hq o).1]
    exact ⟨rfl, rfl⟩
  refine ⟨?_, fun hnone => ?_, fun r hr hstate hmask hserving hname => ?_⟩
  · refine (exec_lift _ s).trans (congrArg _ (State.request_okay hs rfl ?_ (hfields _).2))
    rw [liftAnswer_of_mask hm, hoffer _ fun _ _ _ => Order.noConfusion]
    rfl
  · refine (exec_standdown _ s).trans (congrArg _ (State.request_okay hs rfl ?_ (hfields _).2))
    rw [standdownAnswer_of_mask hm, hstanddown, Part.standRecordDown_of_none _ (by
      rw [Part.recordOf?, (hfields _).1]; exact hnone)]
    rfl
  · have hqserving : ((q (.standdown g)).engine r.tree).serving ≠ some r.handle := by
      rw [Part.engine, (hq _).2]
      split <;> exact hserving
    have hqname : (q (.standdown g)).record? r.tree r.handle = some r := by
      rw [Part.record?, (hfields _).1]
      exact hname
    have htag : r.tag = g := beq_iff_eq.mp (List.find?_some (p := fun x : Record => x.tag == g) hr)
    refine ⟨((q (.standdown g)).heldBack r.tree r.handle).modRecord r.tree r.handle (·.heldFor .stoodDown),
      (exec_standdown _ s).trans (congrArg _ (State.request_raising hs rfl ?_ (hfields _).2)), ?_, ?_⟩
    · rw [standdownAnswer_of_mask hm, hstanddown, Part.standRecordDown_of_record (r := r) _ (by
        rw [Part.recordOf?, (hfields _).1]; exact hr) hstate hmask, Part.enterHeld_of_not_served _ hqname hqserving,
        (hfields _).2, htag]
      rfl
    · exact Part.modRecord_onlyRecord _ _ _ fun _ => ⟨rfl, rfl⟩
    · exact Part.record?_modRecord_some (by exact hqname) fun _ => ⟨rfl, rfl⟩

end Sys2Proof.Machine
end

section
/-!
PROOFS. The requests on the internal slots, on a streamed push and on the report table (the statements O56, O58 and O59).
-/

namespace Sys2Proof.Machine

/-! ### Slots in use (R138) -/

theorem maskOf_ne_zero_iff (f : TreeId → Bool) : maskOf f ≠ 0 ↔ ∃ t, f t = true := by
  have hbits : ∀ a b c d : Bool,
      ((if a then 1#4 else 0) ||| (if b then 2#4 else 0) ||| (if c then 4#4 else 0) ||| (if d then 8#4 else 0)) ≠ 0 ↔
        (a || b || c || d) = true := by decide
  rw [maskOf, hbits, Bool.or_eq_true, Bool.or_eq_true, Bool.or_eq_true]
  constructor
  · rintro (((h | h) | h) | h)
    · exact ⟨.t0, h⟩
    · exact ⟨.t1, h⟩
    · exact ⟨.t2, h⟩
    · exact ⟨.t3, h⟩
  · rintro ⟨t, h⟩
    cases t
    · exact Or.inl (Or.inl (Or.inl h))
    · exact Or.inl (Or.inl (Or.inr h))
    · exact Or.inl (Or.inr h)
    · exact Or.inr h

theorem Engine.usesSlot_iff (e : Engine) (n : Nat) :
    e.usesSlot n = true ↔ e.state ≠ .idle ∧ e.source = some .internal ∧ e.profile = n := by
  simp [Engine.usesSlot, and_assoc]

theorem Part.slotInUse_iff (p : Part) (n : Nat) :
    p.slotInUse n = true ↔
      ∃ t, (p.engine t).state ≠ .idle ∧ (p.engine t).source = some .internal ∧ (p.engine t).profile = n := by
  rw [Part.slotInUse, bne_iff_ne, Part.slotUsers, maskOf_ne_zero_iff]
  exact exists_congr fun t => Engine.usesSlot_iff _ n

theorem Part.slotInUse_eq_false_iff (p : Part) (n : Nat) :
    p.slotInUse n = false ↔
      ∀ t, (p.engine t).state = .idle ∨ (p.engine t).source ≠ some .internal ∨ (p.engine t).profile ≠ n := by
  rw [← Bool.not_eq_true, Part.slotInUse_iff]
  rw [not_exists]
  exact forall_congr' fun t => by rw [Classical.not_and_iff_not_or_not, Classical.not_and_iff_not_or_not, Classical.not_not]

theorem Part.slot_setSlot_self (p : Part) {n : Nat} (h1 : 1 ≤ n) (h16 : n ≤ 16) (v : ProfileSlot) :
    (p.setSlot n v).slot n = v := by
  have hn : n - 1 < 16 := by omega
  simp [Part.slot, Part.setSlot, hn]

theorem Part.slot_setSlot_ne (p : Part) {n k : Nat} (h1 : 1 ≤ n) (hk : 1 ≤ k) (hne : k ≠ n) (v : ProfileSlot) :
    (p.setSlot n v).slot k = p.slot k := by
  have hn : n - 1 ≠ k - 1 := by omega
  simp [Part.slot, Part.setSlot, Vector.getElem?_setIfInBounds_ne hn]

/-! ### PROFILE-OPEN, PROFILE-ERASE, PROFILE-WRITE (R139, R140, R142) -/

theorem exec_profileOpen (body : List Byte) (s : State) :
    exec (.profileOpen body) s = .next (s.request 0x28#8 (body.length == 1) (profileOpenAnswer body)) := rfl

theorem exec_profileErase (body : List Byte) (s : State) :
    exec (.profileErase body) s = .next (s.request 0x2B#8 (body.length == 1) (profileEraseAnswer body)) := rfl

theorem exec_profileWrite (body : List Byte) (s : State) :
    exec (.profileWrite body) s =
      .next (s.request 0x29#8 (4 ≤ body.length && body.length ≤ 195) (profileWriteAnswer body)) := rfl

theorem numAt_be_append (b : Byte) {n : Nat} (h : n < 65536) (data : List Byte) :
    numAt (b :: be 2 n ++ data) 1 2 = n := by
  have hfield : fieldAt (b :: be 2 n ++ data) 1 2 = be 2 n := rfl
  rw [numAt, hfield, fromBe_be]
  exact Nat.mod_eq_of_lt h

theorem writeBody_fits (b : Byte) (n : Nat) {data : List Byte} (h1 : 1 ≤ data.length) (h2 : data.length ≤ 192) :
    (decide (4 ≤ (b :: be 2 n ++ data).length) && decide ((b :: be 2 n ++ data).length ≤ 195)) = true := by
  have hlength : (b :: be 2 n ++ data).length = 3 + data.length := by
    rw [List.cons_append, List.length_cons, List.length_append, be_length]
    omega
  rw [hlength, Bool.and_eq_true, decide_eq_true_eq, decide_eq_true_eq]
  omega

section
variable {n : Nat} (h1 : 1 ≤ n) (h16 : n ≤ 16) (k : Clock) {p : Part}
include h1 h16

theorem profileOpenAnswer_of_free (hfree : p.slotInUse n = false) :
    profileOpenAnswer [BitVec.ofNat 8 n] k p = okay (p.setSlot n ⟨.writing, []⟩) [] :=
  (withSlot_of_le h1 h16 p [] _).trans (if_neg (by rw [hfree]; exact Bool.false_ne_true))

theorem profileOpenAnswer_of_inUse (huse : p.slotInUse n = true) :
    profileOpenAnswer [BitVec.ofNat 8 n] k p = refuse p .inUse :=
  (withSlot_of_le h1 h16 p [] _).trans (if_pos huse)

theorem profileEraseAnswer_of_free (hfree : p.slotInUse n = false) :
    profileEraseAnswer [BitVec.ofNat 8 n] k p = okay (p.setSlot n ⟨.empty, []⟩) [] :=
  (withSlot_of_le h1 h16 p [] _).trans (if_neg (by rw [hfree]; exact Bool.false_ne_true))

theorem profileEraseAnswer_of_inUse (huse : p.slotInUse n = true) :
    profileEraseAnswer [BitVec.ofNat 8 n] k p = refuse p .inUse :=
  (withSlot_of_le h1 h16 p [] _).trans (if_pos huse)

variable {offset : Nat} (hoffset : offset < 65536) (data : List Byte)
include hoffset

theorem profileWriteAnswer_of_le :
    profileWriteAnswer (BitVec.ofNat 8 n :: be 2 offset ++ data) k p =
      if (p.slot n).state ≠ .writing ∨ offset ≠ (p.slot n).bytes.length
          ∨ 4096 < (p.slot n).bytes.length + data.length then refuse p .badField
      else okay (p.setSlot n ⟨.writing, (p.slot n).bytes ++ data⟩) (be 2 ((p.slot n).bytes.length + data.length)) := by
  have hdrop : (BitVec.ofNat 8 n :: be 2 offset ++ data).drop 3 = data := rfl
  rw [profileWriteAnswer, List.cons_append, withSlot_of_le h1 h16, ← List.cons_append, numAt_be_append _ hoffset, hdrop]
  refine ite_of_iff ?_
  rw [Bool.or_eq_true, Bool.or_eq_true, bne_iff_ne, bne_iff_ne, decide_eq_true_eq, or_assoc]
  exact Iff.rfl

end

/-- Settles O56: each request by the slot that it names and the slot's state. -/
theorem profileOpenWriteErase : Obligations.ProfileOpenWriteErase := by
  unfold Obligations.ProfileOpenWriteErase
  intro s hs
  refine ⟨fun n h1 h16 => ⟨fun hfree => ?_, fun huse => ?_, fun data hd1 hd2 hlength => ⟨?_, ?_, ?_⟩,
    fun v => Part.slot_setSlot_self _ h1 h16 v, fun v k hk hne => Part.slot_setSlot_ne _ h1 hk hne v⟩, fun b hbad => ⟨?_, ?_, ?_⟩⟩
  · have hfree := (Part.slotInUse_eq_false_iff s.part n).mpr hfree
    exact ⟨(exec_profileOpen _ s).trans
        (congrArg _ (State.request_okay hs rfl (profileOpenAnswer_of_free h1 h16 _ hfree) rfl)),
      (exec_profileErase _ s).trans
        (congrArg _ (State.request_okay hs rfl (profileEraseAnswer_of_free h1 h16 _ hfree) rfl))⟩
  · have huse := (Part.slotInUse_iff s.part n).mpr huse
    exact ⟨(exec_profileOpen _ s).trans
        (congrArg _ (State.request_refuse hs rfl (profileOpenAnswer_of_inUse h1 h16 _ huse))),
      (exec_profileErase _ s).trans
        (congrArg _ (State.request_refuse hs rfl (profileEraseAnswer_of_inUse h1 h16 _ huse)))⟩
  · intro hwriting hfits
    refine (exec_profileWrite _ s).trans (congrArg _ (State.request_okay hs (writeBody_fits _ _ hd1 hd2)
      ((profileWriteAnswer_of_le h1 h16 _ (by omega) data).trans (if_neg ?_)) rfl))
    rintro (h | h | h)
    · exact h hwriting
    · exact h rfl
    · omega
  · intro hbad
    refine (exec_profileWrite _ s).trans (congrArg _ (State.request_refuse hs (writeBody_fits _ _ hd1 hd2)
      ((profileWriteAnswer_of_le h1 h16 _ (by omega) data).trans (if_pos ?_))))
    exact hbad.imp_right Or.inr
  · intro offset hoffset hne
    exact (exec_profileWrite _ s).trans (congrArg _ (State.request_refuse hs (writeBody_fits _ _ hd1 hd2)
      ((profileWriteAnswer_of_le h1 h16 _ hoffset data).trans (if_pos (Or.inr (Or.inl hne))))))
  · exact (exec_profileOpen _ s).trans (congrArg _ (State.request_refuse hs rfl (withSlot_of_bad hbad _ _ _)))
  · exact (exec_profileErase _ s).trans (congrArg _ (State.request_refuse hs rfl (withSlot_of_bad hbad _ _ _)))
  · intro offset data hd1 hd2
    exact (exec_profileWrite _ s).trans (congrArg _ (State.request_refuse hs (writeBody_fits _ _ hd1 hd2)
      (withSlot_of_bad hbad _ _ _)))

/-! ### PUSH-BEGIN (R148) -/

theorem exec_pushBegin (body : List Byte) (s : State) :
    exec (.pushBegin body) s = .next (s.request 0x2D#8 (body.length == 3) (pushBeginAnswer body)) := rfl

theorem exec_pushData (body : List Byte) (s : State) :
    exec (.pushData body) s = .next (s.request 0x2E#8 (2 ≤ body.length && body.length ≤ 257) (pushDataAnswer body)) := rfl

theorem numAt_be {n : Nat} (b : Byte) (h : n < 65536) : numAt (b :: be 2 n) 1 2 = n := by
  have hfield := numAt_be_append b h []
  rwa [List.append_nil] at hfield

theorem pushBeginAnswer_of_bad {b : Byte} {n : Nat} (hn : n < 65536) (hbad : 3 < b.toNat ∨ n = 0 ∨ 4096 < n) (k : Clock)
    (p : Part) : pushBeginAnswer (b :: be 2 n) k p = refuse p .badField := by
  have hb : byteAt (b :: be 2 n) 0 = b := rfl
  simp only [pushBeginAnswer, numAt_be b hn, hb]
  cases ht : treeOf b.toNat with
  | none => rfl
  | some t =>
    refine if_pos ?_
    rw [Bool.or_eq_true, beq_iff_eq, decide_eq_true_eq]
    obtain h | h := hbad
    · rw [treeOf_of_large h] at ht
      cases ht
    · exact h

section
variable {p : Part} {t : TreeId} {n : Nat} (h1 : 1 ≤ n) (h2 : n ≤ 4096) (k : Clock)
include h1 h2

theorem pushBeginAnswer_of_tree :
    pushBeginAnswer (BitVec.ofNat 8 (treeNo t) :: be 2 n) k p =
      match p.waitingStream t with
      | none => refuse p .wrongState
      | some r =>
        okay (p.startPreparing k t r.handle .streamed n) (byte r.handle :: tagBytes r.tag ++ be 2 Config.fifoBytes) := by
  have hb : byteAt (BitVec.ofNat 8 (treeNo t) :: be 2 n) 0 = BitVec.ofNat 8 (treeNo t) := rfl
  simp only [pushBeginAnswer, numAt_be _ (show n < 65536 by omega), hb, treeOf_toNat]
  refine if_neg ?_
  rw [Bool.or_eq_true, beq_iff_eq, decide_eq_true_eq]
  have hsize : Config.slotBytes = 4096 := rfl
  omega

theorem pushBeginAnswer_of_not_waiting (h : (p.engine t).state ≠ .resolving ∨ (p.engine t).profile ≠ 64) :
    pushBeginAnswer (BitVec.ofNat 8 (treeNo t) :: be 2 n) k p = refuse p .wrongState := by
  have hnone : p.waitingStream t = none := by
    refine if_neg ?_
    rw [Bool.and_eq_true, beq_iff_eq, beq_iff_eq]
    exact fun ⟨hresolving, hprofile⟩ => h.elim (· hresolving) (· hprofile)
  rw [pushBeginAnswer_of_tree h1 h2, hnone]

theorem pushBeginAnswer_of_waiting {h : Nat} {r : Record} (hstate : (p.engine t).state = .resolving)
    (hprofile : (p.engine t).profile = 64) (hserving : (p.engine t).serving = some h) (hr : p.record? t h = some r) :
    pushBeginAnswer (BitVec.ofNat 8 (treeNo t) :: be 2 n) k p =
      okay (p.startPreparing k t h .streamed n) (byte h :: tagBytes r.tag ++ be 2 2048) := by
  have hsome : p.waitingStream t = some r := by
    simp only [Part.waitingStream, hstate, hprofile, hserving, beq_self_eq_true, Bool.and_self, if_true]
    exact hr
  obtain ⟨-, hh⟩ := Part.record?_name hr
  rw [pushBeginAnswer_of_tree h1 h2, hsome, ← hh]
  rfl

end

/-- An engine as it enters PREPARING (R147, R152). -/
def Engine.startPreparing (e : Engine) (source : Source) (length : Nat) : Engine :=
  { e with
    state := .preparing
    source := some source
    imageLength := length
    beginTimer := none }

/-- A record as its engine enters PREPARING (R147). -/
def Record.preparedFrom (r : Record) (source : Source) : Record :=
  { r with load := r.load.map fun l => { l with sub := .preparing, source := some source } }

theorem Tree.offered_withEngine (T : Tree) (o : Order) (e : Engine) :
    Tree.offered o { T with engine := e } = { T.offered o with engine := e } := by
  have haccepts : Tree.accepts { T with engine := e } = T.accepts := rfl
  have hhold : Tree.mayHold { T with engine := e } o = T.mayHold o := rfl
  simp only [Tree.offered, haccepts, hhold]
  (repeat' split) <;> rfl

/-- An engine enters PREPARING: its PREPARE is offered, and bytes begin to enter (R147, R152). -/
theorem Part.startPreparing_eq (p : Part) (k : Clock) (t : TreeId) (h : Nat) (source : Source) (length : Nat) {number : Nat}
    (hnumber : number = if source == .default then 0 else (p.engine t).profile) :
    p.startPreparing k t h source length =
      ((p.modTree t fun T =>
        { T.offered (.prepare h length number) with
          engine := T.engine.startPreparing source length }).modRecord t h (·.preparedFrom source)).refill k t := by
  refine congrArg (Part.refill · k t) ((Part.offer_of_not_lagByTag _ t fun _ _ _ => Order.noConfusion).trans ?_)
  rw [← hnumber]
  refine congrArg (fun q : Part => q.modRecord t h (·.preparedFrom source))
    ((Part.modTree_modTree p t _ _).trans (Part.modTree_congr p t ?_))
  exact Tree.offered_withEngine _ _ _

/-- The host brings the bytes of a streamed image: there is nothing to fetch as its push is PREPARING (R149, R150). -/
theorem Part.refill_streamed {p : Part} {t : TreeId} (k : Clock) (hsource : (p.engine t).source = some .streamed)
    (hstate : (p.engine t).state ≠ .streaming) : p.refill k t = p := by
  simp only [Part.refill, hsource]
  exact Part.pauseUpdate_of_not_streaming hstate

/-- A streamed push enters PREPARING, its PREPARE in the queue (R148, R152). -/
theorem Part.startPreparing_streamed {p : Part} {t : TreeId} (k : Clock) (h n : Nat) (henabled : (p.tree t).enabled = true)
    (haccepts : (p.tree t).accepts = true) :
    p.startPreparing k t h .streamed n =
      (p.modTree t fun T =>
        { T with
          queue := T.queue ++ [.prepare h n (p.engine t).profile]
          engine := T.engine.startPreparing .streamed n }).modRecord t h (·.preparedFrom .streamed) := by
  have hqueue : (p.tree t).offered (.prepare h n (p.engine t).profile) =
      { p.tree t with queue := (p.tree t).queue ++ [.prepare h n (p.engine t).profile] } := by
    simp [Tree.offered, henabled, haccepts]
  rw [Part.startPreparing_eq p k t h .streamed n (number := (p.engine t).profile) rfl, Part.refill_streamed]
  · refine congrArg (fun q : Part => q.modRecord t h (·.preparedFrom .streamed)) (Part.modTree_congr p t ?_)
    rw [hqueue]
  · rw [Part.engine, Part.modRecord_tree, Part.tree_modTree_self]
    rfl
  · rw [Part.engine, Part.modRecord_tree, Part.tree_modTree_self]
    exact EngineState.noConfusion

/-! ### PUSH-DATA (R150) -/

theorem pushDataAnswer_of_bad {b : Byte} (hbad : 3 < b.toNat) (data : List Byte) (k : Clock) (p : Part) :
    pushDataAnswer (b :: data) k p = refuse p .badField := by
  have hb : byteAt (b :: data) 0 = b := rfl
  rw [pushDataAnswer, hb, treeOf_of_large hbad]

theorem Engine.takesStream_iff (e : Engine) :
    e.takesStream = true ↔ e.source = some .streamed ∧ (e.state = .preparing ∨ e.state = .settling ∨ e.state = .streaming) := by
  simp [Engine.takesStream, or_assoc]

section
variable {p : Part} {t : TreeId} (k : Clock) (data : List Byte)

theorem pushDataAnswer_of_not_taking (h : (p.engine t).takesStream = false) :
    pushDataAnswer (BitVec.ofNat 8 (treeNo t) :: data) k p = refuse p .wrongState := by
  have hb : byteAt (BitVec.ofNat 8 (treeNo t) :: data) 0 = BitVec.ofNat 8 (treeNo t) := rfl
  simp only [pushDataAnswer, hb, treeOf_toNat, h, Bool.false_eq_true, if_false]

theorem pushDataAnswer_of_taking {n : Nat} (h : (p.engine t).takesStream = true)
    (htimed : (p.engine t).state = .streaming → (p.engine t).stallTimer.isSome = true)
    (hn : n = (p.engine t).acceptCount data.length) :
    pushDataAnswer (BitVec.ofNat 8 (treeNo t) :: data) k p =
      okay (p.modEngine t (·.entered (data.take n)))
        (be 2 n ++ be 2 ((p.engine t).entered (data.take n)).fillCount
          ++ be 2 ((p.engine t).entered (data.take n)).freeSpace) := by
  have hb : byteAt (BitVec.ofNat 8 (treeNo t) :: data) 0 = BitVec.ofNat 8 (treeNo t) := rfl
  have hdrop : (BitVec.ofNat 8 (treeNo t) :: data).drop 1 = data := rfl
  have hpause : (p.modEngine t (·.enter (data.take n))).pauseUpdate k t = p.modEngine t (·.entered (data.take n)) := by
    rw [Part.pauseUpdate_of_timed k (by
      rw [Part.engine_modEngine_self]
      exact fun hstate _ => htimed hstate), Part.modEngine, Part.modEngine, Part.modTree_modTree]
    rfl
  simp only [pushDataAnswer, hb, hdrop, treeOf_toNat, h, if_true, ← hn, hpause, Part.engine_modEngine_self]

end

/-- Settles O58: PUSH-BEGIN by the engine's state, PUSH-DATA by what the FIFO and the image length allow. -/
theorem pushBeginData : Obligations.PushBeginData := by
  unfold Obligations.PushBeginData
  intro s t hs
  have hfits : ∀ (b : Byte) (data : List Byte), 1 ≤ data.length → data.length ≤ 256 →
      (decide (2 ≤ (b :: data).length) && decide ((b :: data).length ≤ 257)) = true := fun b data h1 h2 => by
    rw [List.length_cons, Bool.and_eq_true, decide_eq_true_eq, decide_eq_true_eq]
    omega
  refine ⟨fun b n hn hbad => ?_, fun b data hbad hd1 hd2 => ?_, fun n h1 h2 => ⟨fun hstate => ?_, ?_⟩,
    fun data hd1 hd2 => ⟨fun hstate => ?_, ?_⟩⟩
  · exact (exec_pushBegin _ s).trans (congrArg _ (State.request_refuse hs rfl (pushBeginAnswer_of_bad hn hbad _ _)))
  · exact (exec_pushData _ s).trans
      (congrArg _ (State.request_refuse hs (hfits _ _ hd1 hd2) (pushDataAnswer_of_bad hbad _ _ _)))
  · exact (exec_pushBegin _ s).trans
      (congrArg _ (State.request_refuse hs rfl (pushBeginAnswer_of_not_waiting h1 h2 _ hstate)))
  · intro h r l hstate hprofile hserving hr hl henabled haccepts
    refine ⟨(s.part.modTree t fun T =>
        { T with
          queue := T.queue ++ [.prepare h n (s.part.engine t).profile]
          engine := T.engine.startPreparing .streamed n }).modRecord t h (·.preparedFrom .streamed),
      (exec_pushBegin _ s).trans (congrArg _ (State.request_okay hs rfl
      ((pushBeginAnswer_of_waiting h1 h2 _ hstate hprofile hserving hr).trans
        (congrArg (okay · _) (Part.startPreparing_streamed _ h n henabled haccepts))) rfl)), ?_, ?_⟩
    · rw [hprofile]
      exact Part.modRecord_onlyRecord _ t h fun _ => ⟨rfl, rfl⟩
    · refine (Part.record?_modRecord_some (r := r) (f := (·.preparedFrom .streamed)) (by exact hr) fun _ => ⟨rfl, rfl⟩).trans ?_
      rw [Record.preparedFrom, hl]
      rfl
  · have hnot : (s.part.engine t).takesStream = false := by
      rw [← Bool.not_eq_true, Engine.takesStream_iff]
      grind
    exact (exec_pushData _ s).trans
      (congrArg _ (State.request_refuse hs (hfits _ _ hd1 hd2) (pushDataAnswer_of_not_taking _ _ hnot)))
  · intro e n he hsource hstate hn
    subst he
    have htakes : (s.part.engine t).takesStream = true := by
      rw [Engine.takesStream_iff]
      grind
    have htimed : (s.part.engine t).state = .streaming → (s.part.engine t).stallTimer.isSome = true := by
      intro hstreaming
      simpa [hstreaming] using hstate
    have hlength : (data.take n).length = n := List.length_take_of_le (by omega)
    refine (exec_pushData _ s).trans (congrArg _ ((State.request_okay hs (hfits _ _ hd1 hd2)
      (pushDataAnswer_of_taking _ _ htakes htimed hn) rfl).trans ?_))
    have hfill : ((s.part.engine t).entered (data.take n)).fillCount =
        (s.part.engine t).ackPoint + (s.part.engine t).fifo.length + n := by
      simp only [Engine.fillCount, Engine.entered, Engine.enter, List.length_append, hlength]
      omega
    have hfree : ((s.part.engine t).entered (data.take n)).freeSpace = 2048 - ((s.part.engine t).fifo.length + n) := by
      simp only [Engine.freeSpace, Engine.entered, Engine.enter, List.length_append, hlength]
      rfl
    rw [hfill, hfree]
    rfl

/-! ### REPORT-TABLE-SET (R165, R167, R169) -/

theorem exec_reportTableSet (body : List Byte) (s : State) :
    exec (.reportTableSet body) s = .next (s.request 0x30#8 (body.length == 5) (reportTableSetAnswer body)) := rfl

theorem reportSlotOf_of_bad {b : Byte} (h : b = 0 ∨ 3 < b.toNat) : reportSlotOf b.toNat = none := by
  obtain rfl | h := h
  · rfl
  · match hn : b.toNat with
    | 0 | 1 | 2 | 3 => omega
    | n + 4 => rfl

theorem reportSlotOf_slotCode (x : ReportSlot) : reportSlotOf (BitVec.ofNat 8 (slotCode x)).toNat = some x := by
  cases x <;> rfl

section
variable {kind interval multiple flag : Byte}

theorem reportTableSetAnswer_of_bad {b : Byte} (h : b = 0 ∨ 3 < b.toNat) (k : Clock) (p : Part) :
    reportTableSetAnswer [b, kind, interval, multiple, flag] k p = refuse p .badField := by
  have hb : byteAt [b, kind, interval, multiple, flag] 0 = b := rfl
  rw [reportTableSetAnswer, hb, reportSlotOf_of_bad h]

/-- The slot as the request's bytes give it, clamped (R165). -/
theorem tableSlotOf_eq (b : Byte) :
    tableSlotOf [b, kind, interval, multiple, flag] =
      ⟨kind, max 1 interval.toNat, max 1 (min 15 multiple.toNat), flag = 1⟩ := by
  have hmultiple : byteAt [b, kind, interval, multiple, flag] 3 = multiple := rfl
  have hclamp : (clampInt 1 15 multiple.toNat).toNat = max 1 (min 15 multiple.toNat) := by
    rw [clampInt]
    omega
  rw [tableSlotOf, hmultiple, hclamp]
  exact congrArg (TableSlot.mk kind _ _) (Bool.beq_eq_decide_eq flag 1)

variable (x : ReportSlot) (k : Clock) (p : Part)

theorem reportTableSetAnswer_of_bad_flag (h : 1 < flag.toNat) :
    reportTableSetAnswer [BitVec.ofNat 8 (slotCode x), kind, interval, multiple, flag] k p = refuse p .badField := by
  have hb : byteAt [BitVec.ofNat 8 (slotCode x), kind, interval, multiple, flag] 0 = BitVec.ofNat 8 (slotCode x) := rfl
  simp only [reportTableSetAnswer, hb, reportSlotOf_slotCode]
  exact if_pos h

theorem reportTableSetAnswer_of_slot {slot : TableSlot} (h : flag.toNat ≤ 1)
    (hslot : slot = ⟨kind, max 1 interval.toNat, max 1 (min 15 multiple.toNat), flag = 1⟩) :
    reportTableSetAnswer [BitVec.ofNat 8 (slotCode x), kind, interval, multiple, flag] k p =
      okay (p.setTableSlot k x slot)
        [BitVec.ofNat 8 (slotCode x), kind, BitVec.ofNat 8 slot.interval, BitVec.ofNat 8 slot.multiple, flag] := by
  have hb : byteAt [BitVec.ofNat 8 (slotCode x), kind, interval, multiple, flag] 0 = BitVec.ofNat 8 (slotCode x) := rfl
  have hflag : flagByte (flag = 1) = flag := by
    obtain hzero | hone : flag.toNat = 0 ∨ flag.toNat = 1 := by omega
    · obtain rfl : flag = 0 := BitVec.eq_of_toNat_eq hzero
      rfl
    · obtain rfl : flag = 1 := BitVec.eq_of_toNat_eq hone
      rfl
  simp only [reportTableSetAnswer, hb, reportSlotOf_slotCode]
  refine (if_neg (Nat.not_lt.mpr h)).trans ?_
  rw [tableSlotOf_eq, ← hslot, TableSlot.bytes_eq]
  refine congrArg (fun f => okay (p.setTableSlot k x slot)
    [BitVec.ofNat 8 (slotCode x), slot.kind, BitVec.ofNat 8 slot.interval, BitVec.ofNat 8 slot.multiple, f])
    (?_ : flagByte slot.clearOnStale = flag) |>.trans ?_
  · rw [hslot, hflag]
  · rw [hslot]

end

/-- A record's slot as a change of its kind code leaves it, case by case (R165, R167, R169). -/
theorem Record.slotRekinded_eq (r : Record) (x : ReportSlot) {slot : TableSlot} (c : CycleNo) :
    r.slotRekinded x slot.on c =
      { r with
        reports := r.reports.set x ⟨false, 0, [], 0, false⟩
        polls := r.polls.set x
          ⟨none,
            if slot.kind = 0 then none
            else if r.state = .inService then some c
            else if x = .a ∧ (r.polls.get x).due = none then r.attentionMark
            else (r.polls.get x).due⟩ } := by
  simp only [Record.slotRekinded, TableSlot.on, Bool.not_eq_true', bne_eq_false_iff_eq, beq_iff_eq, Bool.and_eq_true,
    Option.isNone_iff_eq_none]
  rfl

/-- Settles O59: the slot is stored as clamped, and the records follow where its kind code changes. -/
theorem reportTableSets : Obligations.ReportTableSets := by
  unfold Obligations.ReportTableSets
  intro s x kind interval multiple flag hs
  refine ⟨fun b hbad => ?_, fun hflag => ?_, fun slot hflag hslot => ?_⟩
  · exact (exec_reportTableSet _ s).trans
      (congrArg _ (State.request_refuse hs rfl (reportTableSetAnswer_of_bad hbad _ _)))
  · exact (exec_reportTableSet _ s).trans
      (congrArg _ (State.request_refuse hs rfl (reportTableSetAnswer_of_bad_flag _ _ _ hflag)))
  have hanswer := reportTableSetAnswer_of_slot x s.clock s.part hflag hslot
  have hkind : slot.kind = kind := by rw [hslot]
  refine ⟨fun hsame => ?_, fun hchanged => ?_⟩
  · have hset : s.part.setTableSlot s.clock x slot = { s.part with reportTable := s.part.reportTable.set x slot } := by
      refine if_neg ?_
      rw [bne_iff_ne, hkind, Classical.not_not]
      exact hsame
    rw [hset] at hanswer
    exact (exec_reportTableSet _ s).trans (congrArg _ (State.request_okay hs rfl hanswer rfl))
  · have hset : s.part.setTableSlot s.clock x slot =
        { s.part with
          reportTable := s.part.reportTable.set x slot
          records := s.part.records.map fun r => r.slotRekinded x slot.on s.clock.cycle } := by
      refine if_pos ?_
      rw [bne_iff_ne, hkind]
      exact hchanged
    rw [hset] at hanswer
    refine (exec_reportTableSet _ s).trans (congrArg _ ((State.request_okay hs rfl hanswer rfl).trans ?_))
    simp only [Record.slotRekinded_eq, hkind]

end Sys2Proof.Machine
end

section
/-!
PROOFS. The reads of records and report slots, their bytes written out (the statement O52).
-/

namespace Sys2Proof.Machine

/-! ### The bytes of a record (12.10) -/

theorem be_one_byte (b : Byte) : be 1 b.toNat = [b] := by
  refine congrArg (· :: []) ?_
  rw [Nat.mul_zero, Nat.shiftRight_zero, BitVec.ofNat_toNat, BitVec.setWidth_eq]

@[simp] theorem optional_length (n : Nat) (v : Option Nat) : (optional n v).length = n + 1 := by
  cases v <;> simp [optional]

@[simp] theorem loadBytes_length (l : Option Load) : (loadBytes l).length = 5 := by cases l <;> rfl

theorem StoredReport.bytes_length {v : StoredReport} (h : v.body.length ≤ 24) : v.bytes.length = 29 := by
  simp only [StoredReport.bytes, padTo, List.length_append, List.length_cons, List.length_nil, List.length_replicate,
    be_length]
  omega

theorem Record.bytes_length {r : Record} (h : ∀ x, (r.reports.get x).body.length ≤ 24) : r.bytes.length = 138 := by
  have ha : r.reports.a.bytes.length = 29 := StoredReport.bytes_length (h .a)
  have hb : r.reports.b.bytes.length = 29 := StoredReport.bytes_length (h .b)
  have hc : r.reports.c.bytes.length = 29 := StoredReport.bytes_length (h .c)
  simp only [Record.bytes, List.length_append, List.length_cons, List.length_nil, tagBytes_length, be_length, beInt,
    optional_length, loadBytes_length, ha, hb, hc]

theorem optional_window (v : Option Byte) :
    optional 1 (v.map (·.toNat)) =
      match v with
      | some n => [1#8, n]
      | none => [0#8, 0#8] := by
  cases v with
  | none => rfl
  | some n => exact congrArg (1#8 :: ·) (be_one_byte n)

theorem optional_cycle (v : Option CycleNo) :
    optional 2 (v.map (·.toNat)) =
      match v with
      | some c => 1#8 :: be 2 c.toNat
      | none => [0#8, 0#8, 0#8] := by cases v <;> rfl

theorem optional_tenth (v : Option Tenth) :
    optional 4 (v.map (·.toNat)) =
      match v with
      | some d => 1#8 :: be 4 d.toNat
      | none => [0#8, 0#8, 0#8, 0#8, 0#8] := by cases v <;> rfl

theorem optional_count (v : Option Nat) :
    optional 1 v =
      match v with
      | some n => [1#8, BitVec.ofNat 8 n]
      | none => [0#8, 0#8] := by cases v <;> rfl

theorem loadBytes_eq (v : Option Load) :
    loadBytes v =
      match v with
      | some l =>
        [1#8, BitVec.ofNat 8 l.profile, BitVec.ofNat 8 l.sub.code, BitVec.ofNat 8 l.used,
          match l.source with
          | none => 0#8
          | some .internal => 1#8
          | some .external => 2#8
          | some .streamed => 3#8
          | some .default => 4#8]
      | none => [0#8, 0#8, 0#8, 0#8, 0#8] := by
  match v with
  | none => rfl
  | some ⟨profile, sub, used, source⟩ => rcases source with _ | _ | _ | _ | _ <;> rfl

theorem StoredReport.bytes_eq (v : StoredReport) :
    v.bytes =
      [if v.valid then 1#8 else 0, v.kind, BitVec.ofNat 8 v.body.length] ++ v.body
        ++ List.replicate (24 - v.body.length) 0#8 ++ be 2 v.age := by
  rw [StoredReport.bytes, padTo, ← List.append_assoc]
  rfl

theorem markByte_eq (a b c : Bool) :
    markByte a b c = (if a then 1#8 else 0) ||| (if b then 2#8 else 0) ||| (if c then 4#8 else 0) := by
  cases a <;> cases b <;> cases c <;> rfl

/-! ### TERMINAL-READ and REPORT-READ (R97, R171) -/

theorem exec_terminalRead (body : List Byte) (s : State) :
    exec (.terminalRead body) s = .next (s.request 0x18#8 (body.length == 2) (terminalReadAnswer body)) := rfl

theorem exec_reportRead (body : List Byte) (s : State) :
    exec (.reportRead body) s = .next (s.request 0x32#8 (body.length == 3) (reportReadAnswer body)) := rfl

theorem terminalReadAnswer_of_bad {b c : Byte} (h : 3 < b.toNat ∨ c = 0 ∨ 64 < c.toNat) (k : Clock) (p : Part) :
    terminalReadAnswer [b, c] k p = refuse p .badField := by
  rw [terminalReadAnswer, recordAt_of_bad h]

/-- A read of a report slot goes by the record that its first two bytes name (R171). -/
theorem recordAt_of_three (b c x : Byte) : recordAt [b, c, x] 0 = recordAt [b, c] 0 := rfl

theorem reportReadAnswer_of_bad {b c x : Byte} (h : 3 < b.toNat ∨ c = 0 ∨ 64 < c.toNat ∨ x = 0 ∨ 3 < x.toNat) (k : Clock)
    (p : Part) : reportReadAnswer [b, c, x] k p = refuse p .badField := by
  have hx : byteAt [b, c, x] 2 = x := rfl
  rw [reportReadAnswer, hx]
  cases hslot : reportSlotOf x.toNat with
  | none => rfl
  | some v =>
    have hbad : 3 < b.toNat ∨ c = 0 ∨ 64 < c.toNat := by
      obtain h | h | h | h := h
      · exact Or.inl h
      · exact Or.inr (Or.inl h)
      · exact Or.inr (Or.inr h)
      · rw [reportSlotOf_of_bad h] at hslot
        cases hslot
    simp only [withRecord, recordAt_of_three, recordAt_of_bad hbad]

section
variable {p : Part} {t : TreeId} {h : Nat} (k : Clock) (h1 : 1 ≤ h) (h2 : h ≤ 64)
include h1 h2

theorem terminalReadAnswer_of_record {r : Record} (hr : p.record? t h = some r) :
    terminalReadAnswer [BitVec.ofNat 8 (treeNo t), BitVec.ofNat 8 h] k p = okay p r.bytes := by
  simp only [terminalReadAnswer, recordAt_of_good t h1 h2, hr]

theorem terminalReadAnswer_of_free (hr : p.record? t h = none) :
    terminalReadAnswer [BitVec.ofNat 8 (treeNo t), BitVec.ofNat 8 h] k p =
      (p, .notFound, [flagByte (p.reserved t h)]) := by
  simp only [terminalReadAnswer, recordAt_of_good t h1 h2, hr]

theorem reportReadAnswer_of_record {r : Record} (hr : p.record? t h = some r) (x : ReportSlot) :
    reportReadAnswer [BitVec.ofNat 8 (treeNo t), BitVec.ofNat 8 h, BitVec.ofNat 8 (slotCode x)] k p =
      okay p (reportReadData r x) := by
  have hx : byteAt [BitVec.ofNat 8 (treeNo t), BitVec.ofNat 8 h, BitVec.ofNat 8 (slotCode x)] 2 =
    BitVec.ofNat 8 (slotCode x) := rfl
  simp only [reportReadAnswer, hx, reportSlotOf_slotCode, withRecord, recordAt_of_three, recordAt_of_good t h1 h2, hr]

theorem reportReadAnswer_of_free (hr : p.record? t h = none) (x : ReportSlot) :
    reportReadAnswer [BitVec.ofNat 8 (treeNo t), BitVec.ofNat 8 h, BitVec.ofNat 8 (slotCode x)] k p =
      refuse p .notFound := by
  have hx : byteAt [BitVec.ofNat 8 (treeNo t), BitVec.ofNat 8 h, BitVec.ofNat 8 (slotCode x)] 2 =
    BitVec.ofNat 8 (slotCode x) := rfl
  simp only [reportReadAnswer, hx, reportSlotOf_slotCode, withRecord, recordAt_of_three, recordAt_of_good t h1 h2, hr]

end

/-- The data of the REPORT-READ reply, its marks and counts written out (R171, 12.10). -/
theorem reportReadData_eq (r : Record) (x : ReportSlot) :
    reportReadData r x =
      [BitVec.ofNat 8 r.state.code,
          (if (r.reports.get x).valid then 1#8 else 0) ||| (if (r.reports.get x).stale then 2#8 else 0),
          (r.reports.get x).kind, BitVec.ofNat 8 (r.reports.get x).body.length]
        ++ (r.reports.get x).body ++ List.replicate (24 - (r.reports.get x).body.length) 0#8
        ++ be 2 (r.reports.get x).age
        ++ [(if (r.polls.get x).lastPoll = none then 0#8 else 1#8)
            ||| (if (r.polls.get x).due = none then 0 else 2#8)
            ||| (if x = .a ∧ r.attentionMark ≠ none then 4#8 else 0)]
        ++ be 4 (((r.polls.get x).lastPoll.getD 0).toNat) ++ be 2 (((r.polls.get x).due.getD 0).toNat) := by
  have hpoll : (((r.polls.get x).lastPoll.map (·.toNat)).getD 0) = ((r.polls.get x).lastPoll.getD 0).toNat := by
    cases (r.polls.get x).lastPoll <;> rfl
  have hdue : (((r.polls.get x).due.map (·.toNat)).getD 0) = ((r.polls.get x).due.getD 0).toNat := by
    cases (r.polls.get x).due <;> rfl
  have hschedule : r.scheduleMarks x =
      (if (r.polls.get x).lastPoll = none then 0#8 else 1#8) ||| (if (r.polls.get x).due = none then 0 else 2#8)
        ||| (if x = .a ∧ r.attentionMark ≠ none then 4#8 else 0) := by
    rw [Record.scheduleMarks, markByte_eq]
    cases (r.polls.get x).lastPoll <;> cases (r.polls.get x).due <;> cases r.attentionMark <;> cases x <;> rfl
  have hmarks : (r.reports.get x).marks =
      (if (r.reports.get x).valid then 1#8 else 0) ||| (if (r.reports.get x).stale then 2#8 else 0) := by
    rw [StoredReport.marks, markByte_eq]
    exact BitVec.or_zero
  rw [reportReadData, hpoll, hdue, hschedule, hmarks, padTo, ← List.append_assoc]
  rfl

/-! ### TERMINAL-LIST (R99) -/

theorem exec_terminalList (body : List Byte) (s : State) :
    exec (.terminalList body) s = .next (s.request 0x1A#8 (body.length == 3) (terminalListAnswer body)) := rfl

section
variable (k : Clock) (p : Part) {states start : Byte}

theorem terminalListAnswer_of_bad_mask {m : Byte} (h : m = 0 ∨ 15 < m.toNat) :
    terminalListAnswer [m, states, start] k p = refuse p .badField := by
  rw [terminalListAnswer, maskAt_of_bad _ h]

variable {m : TreeMask} (hm : m ≠ 0)
include hm

theorem terminalListAnswer_of_bad_states (h : states.getLsbD 0 = true ∨ states &&& 0x7E#8 = 0) :
    terminalListAnswer [m.setWidth 8, states, start] k p = refuse p .badField := by
  simp only [terminalListAnswer, maskAt_of_good _ hm]
  refine if_pos ?_
  rwa [badStateSet, Bool.or_eq_true, beq_iff_eq]

theorem terminalListAnswer_of_states (h0 : states.getLsbD 0 = false) (h : states &&& 0x7E#8 ≠ 0) :
    terminalListAnswer [m.setWidth 8, states, start] k p =
      okay p (listData (p.records.filter (·.inList m states start.toNat))) := by
  simp only [terminalListAnswer, maskAt_of_good _ hm]
  refine if_neg ?_
  rw [badStateSet, Bool.or_eq_true, beq_iff_eq, not_or]
  exact ⟨by rw [Bool.not_eq_true]; exact h0, h⟩

end

/-- The records of a list stand in the order of their keys (R99). -/
theorem Part.TableOk.pairwise_key {p : Part} (hp : p.TableOk) (f : Record → Bool) :
    ((p.records.filter f).map Record.key).Pairwise (· < ·) := by
  obtain ⟨-, -, -, -, -, -, hkeys, -⟩ := hp
  exact hkeys.sublist (List.filter_sublist.map _)

theorem Part.TableOk.key_succ {p : Part} (hp : p.TableOk) {r : Record} (hr : r ∈ p.records) :
    r.key + 1 = treeNo r.tree * 64 + r.handle := by
  obtain ⟨-, -, -, -, -, hhandles, -, -⟩ := hp
  have := (hhandles r hr).1
  rw [Record.key]
  omega

/-- The data of the TERMINAL-LIST reply (R99, 12.10). -/
theorem listData_eq (found : List Record) :
    listData found =
      [BitVec.ofNat 8 (min 32 found.length), if 32 < found.length then 1#8 else 0]
        ++ be 2 (match (found.take 32).getLast? with
          | some r => treeNo r.tree * 64 + r.handle - 1 + 1
          | none => 256)
        ++ ((found.take 32).map fun r =>
          [BitVec.ofNat 8 (treeNo r.tree), BitVec.ofNat 8 r.handle, BitVec.ofNat 8 r.state.code]).flatten := by
  have hmore : flagByte (decide (32 < found.length)) = if 32 < found.length then 1#8 else 0 := by
    by_cases h : 32 < found.length
    · rw [if_pos h, decide_eq_true h]
      rfl
    · rw [if_neg h, decide_eq_false h]
      rfl
  rw [listData, List.length_take, hmore]
  cases (found.take 32).getLast? <;> rfl

/-- Settles O52: each read by what its bytes name; the bytes of a record and of a list written out. -/
theorem recordReads : Obligations.RecordReads := by
  unfold Obligations.RecordReads
  intro s hs
  refine ⟨fun t h h1 h2 => ⟨fun r hr => ⟨fun bytes hbytes => ?_, fun x => ?_⟩, fun hr => ⟨?_, fun x => ?_⟩⟩,
    fun b h hbad => ?_, fun b h x hbad => ?_, fun m states start hbad => ?_,
    fun m states start hm => ⟨fun hbad => ?_, fun found h0 hstates hfound => ⟨fun hp => ⟨?_, ?_⟩, ?_⟩⟩⟩
  · have heq : r.bytes = bytes := by
      rw [hbytes, Record.bytes, optional_window, optional_cycle, optional_cycle, loadBytes_eq, optional_tenth, optional_count,
        Record.marks, markByte_eq]
      simp only [List.map_cons, List.map_nil, List.flatten_cons, List.flatten_nil, List.append_nil,
        StoredReport.bytes_eq, List.append_assoc, List.cons_append, List.nil_append]
      rfl
    exact ⟨(exec_terminalRead _ s).trans (congrArg _ (State.request_read hs rfl
      ((terminalReadAnswer_of_record _ h1 h2 hr).trans (by rw [heq])))), fun hle => heq ▸ Record.bytes_length hle⟩
  · refine (exec_reportRead _ s).trans (congrArg _ ((State.request_read hs rfl
      (reportReadAnswer_of_record _ h1 h2 hr x)).trans ?_))
    rw [reportReadData_eq]
  · exact (exec_terminalRead _ s).trans (congrArg _ ((State.request_of_answer hs rfl
      (terminalReadAnswer_of_free _ h1 h2 hr)).trans (by rw [Part.forget_raised hs.raised_eq, hs.raised_eq]; rfl)))
  · exact (exec_reportRead _ s).trans (congrArg _ (State.request_refuse hs rfl (reportReadAnswer_of_free _ h1 h2 hr x)))
  · exact (exec_terminalRead _ s).trans (congrArg _ (State.request_refuse hs rfl (terminalReadAnswer_of_bad hbad _ _)))
  · exact (exec_reportRead _ s).trans (congrArg _ (State.request_refuse hs rfl (reportReadAnswer_of_bad hbad _ _)))
  · exact (exec_terminalList _ s).trans (congrArg _ (State.request_refuse hs rfl (terminalListAnswer_of_bad_mask _ _ hbad)))
  · exact (exec_terminalList _ s).trans
      (congrArg _ (State.request_refuse hs rfl (terminalListAnswer_of_bad_states _ _ hm hbad)))
  · rw [hfound]
    exact hp.pairwise_key _
  · intro r hr
    rw [hfound] at hr
    exact hp.key_succ (List.mem_filter.mp hr).1
  · refine (exec_terminalList _ s).trans (congrArg _ ((State.request_read hs rfl
      (terminalListAnswer_of_states _ _ hm h0 hstates)).trans ?_))
    have hlist : (s.part.records.filter (·.inList m states start.toNat)) = found := hfound.symm
    rw [hlist]
    exact congrArg (s.answered 0x1A#8 .ok) (listData_eq found)

end Sys2Proof.Machine
end

section
/-!
PROOFS. The request ADMIT (the statement O48).
-/

namespace Sys2Proof.Machine

theorem exec_admitTags (body : List Byte) (s : State) :
    exec (.admitTags body) s = .next (s.request 0x10#8 (admitFits body.length) (admitAnswer body)) := rfl

/-- One to eight entries of 27 bytes make a body that fits (12.10). -/
theorem admitFits_flatten {l : List (List Byte)} (h : ∀ b ∈ l, b.length = 27) (h1 : 1 ≤ l.length) (h8 : l.length ≤ 8) :
    admitFits l.flatten.length = true := by
  rw [length_flatten_of_length h, admitFits, Bool.and_eq_true, Bool.and_eq_true, beq_iff_eq, decide_eq_true_eq,
    decide_eq_true_eq]
  omega

/-- An entry whose profile, mask or label length is out of range is refused (R64, R69). -/
theorem entryOf_of_bad {bs : List Byte} (h : 64 < (byteAt bs 8).toNat ∨ 15 < (byteAt bs 9).toNat ∨ 16 < (byteAt bs 10).toNat) :
    entryOf bs = none := by
  refine if_pos ?_
  rwa [Bool.or_eq_true, Bool.or_eq_true, decide_eq_true_eq, decide_eq_true_eq, decide_eq_true_eq, or_assoc]

section
variable {l : List (List Byte)} (h : ∀ b ∈ l, b.length = 27) (k : Clock) (p : Part)
include h

theorem admitAnswer_of_bad {bad : List Byte} (hbad : bad ∈ l) (hnone : entryOf bad = none) :
    admitAnswer l.flatten k p = refuse p .badField := by
  rw [admitAnswer, chunks27_flatten h]
  refine if_pos ?_
  rw [List.any_eq_true]
  exact ⟨none, List.mem_map.mpr ⟨bad, hbad, hnone⟩, rfl⟩

theorem admitAnswer_of_entries {read : List AdmitEntry} (hread : l.map entryOf = read.map some) :
    admitAnswer l.flatten k p =
      ((p.applyEntries read 0).1, if (p.applyEntries read 0).2 = read.length then .ok else .full,
        [byte (p.applyEntries read 0).2]) := by
  have hall : (read.map some).any Option.isNone = false := by
    rw [List.any_eq_false]
    intro v hv
    obtain ⟨e, -, rfl⟩ := List.mem_map.mp hv
    exact Bool.false_ne_true
  have hsome : (read.map some).filterMap id = read := by simp
  simp only [admitAnswer, chunks27_flatten h, hread, hall, hsome, List.length_map, Bool.false_eq_true, if_false, beq_iff_eq]

end

/-! ### One entry (R69) -/

theorem Part.applyEntries_one (p : Part) (e : AdmitEntry) :
    p.applyEntries [e] 0 =
      match p.applyEntry e with
      | some q => (q, 1)
      | none => (p, 0) := by
  cases h : p.applyEntry e <;> simp [Part.applyEntries, h]

theorem Part.applyEntry_of_known {p : Part} {e : AdmitEntry} (h : (p.entry? e.tag).isSome = true) :
    p.applyEntry e = some (p.modEntry e.tag (·.updated e)) := if_pos h

theorem Part.applyEntry_of_new {p : Part} {e : AdmitEntry} (h : p.entry? e.tag = none) (hroom : p.admission.length < 256) :
    p.applyEntry e =
      some { p with
        admission := p.admission ++ [e]
        unclaimedTags := p.unclaimedTags.filter (·.tag != e.tag) } :=
  (if_neg (by rw [h]; exact Bool.false_ne_true)).trans (if_pos hroom)

theorem Part.applyEntry_of_full {p : Part} {e : AdmitEntry} (h : p.entry? e.tag = none) (hfull : 256 ≤ p.admission.length) :
    p.applyEntry e = none :=
  (if_neg (by rw [h]; exact Bool.false_ne_true)).trans (if_neg (Nat.not_lt.mpr hfull))

@[simp] theorem Part.applyEntries_raised (p : Part) (es : List AdmitEntry) (n : Nat) :
    (p.applyEntries es n).1.raised = p.raised := by
  induction es generalizing p n with
  | nil => rfl
  | cons e es ih =>
    rw [Part.applyEntries]
    cases h : p.applyEntry e with
    | none => rfl
    | some q =>
      refine (ih q (n + 1)).trans ?_
      rw [Part.applyEntry] at h
      split at h
      · exact (congrArg Part.raised (Option.some.inj h)).symm
      · split at h
        · exact (congrArg Part.raised (Option.some.inj h)).symm
        · cases h

/-- A request that raises nothing, whatever its status. -/
theorem State.request_quiet {s : State} (hs : s.Taking) {kind : Byte} {fits : Bool} (hfits : fits = true)
    {act : Clock → Part → Answer} {q : Part} {status : Status} {data : List Byte}
    (hact : act s.clock s.part = (q, status, data)) (hq : q.raised = s.part.raised) :
    s.request kind fits act = s.afterRequest q [] kind status data := by
  have hquiet : q.raised = [] := hq.trans hs.raised_eq
  rw [State.request_of_answer hs hfits hact, Part.forget_raised hquiet, hquiet]

/-- An ADMIT of entries in range (R69): they are applied one at a time, each with its marks clear. -/
theorem exec_admitTags_of_entries {s : State} (hs : s.Taking) {es read : List AdmitEntry} (h1 : 1 ≤ es.length)
    (h8 : es.length ≤ 8) (hes : ∀ e ∈ es, e.profile ≤ 64 ∧ e.label.length ≤ 16)
    (hread : read = es.map fun e =>
      { e with mask := if e.mask = 0 then 15#4 else e.mask, bound := false, conflict := false, sighting := none }) :
    exec (.admitTags (es.map AdmitEntry.stored).flatten) s =
      .next (s.afterRequest (s.part.applyEntries read 0).1 [] 0x10#8
        (if (s.part.applyEntries read 0).2 = es.length then .ok else .full)
        [BitVec.ofNat 8 (s.part.applyEntries read 0).2]) := by
  have hlength : ∀ b ∈ es.map AdmitEntry.stored, b.length = 27 := fun b hb => by
    obtain ⟨e, he, rfl⟩ := List.mem_map.mp hb
    exact AdmitEntry.stored_length (hes e he).2
  have hentries : (es.map AdmitEntry.stored).map entryOf = read.map some := by
    rw [hread, List.map_map, List.map_map]
    exact List.map_congr_left fun e he => entriesReload.1 e (hes e he).1 (hes e he).2
  have hcount : read.length = es.length := by rw [hread, List.length_map]
  refine (exec_admitTags _ s).trans (congrArg _ (State.request_quiet hs
    (admitFits_flatten hlength (by rwa [List.length_map]) (by rwa [List.length_map]))
    ((admitAnswer_of_entries hlength _ _ hentries).trans ?_) (Part.applyEntries_raised _ _ _)))
  rw [hcount]
  rfl

/-- Settles O48: one entry by whether its tag is known and the list has room, several one at a time. -/
theorem admitStores : Obligations.AdmitStores := by
  unfold Obligations.AdmitStores
  intro s hs
  refine ⟨fun e mask hprofile hlabel hmask => ?_, fun es h1 h8 hes read hread => ?_,
    fun before after bad hcount hlength hbad => ?_⟩
  · have hexec := exec_admitTags_of_entries hs (es := [e]) (Nat.le_refl 1) (by simp)
      (fun x hx => List.mem_singleton.mp hx ▸ ⟨hprofile, hlabel⟩) rfl
    rw [List.map_singleton, List.map_singleton, List.flatten_singleton, Part.applyEntries_one, ← hmask] at hexec
    refine ⟨fun hknown => ?_, fun hnew hroom => ?_, fun hnew hfull => ?_⟩
    · rw [Part.applyEntry_of_known (by exact hknown)] at hexec
      rw [hexec]
      simp only [Part.modEntry, AdmitEntry.updated, beq_iff_eq]
      rfl
    · rw [Part.applyEntry_of_new (by exact hnew) hroom] at hexec
      exact hexec
    · rw [Part.applyEntry_of_full (by exact hnew) hfull] at hexec
      exact hexec
  · refine exec_admitTags_of_entries hs h1 h8 (fun e he => ?_) (hread.trans ?_)
    · obtain ⟨hprofile, hlabel, -⟩ := hes e he
      exact ⟨hprofile, hlabel⟩
    · refine List.map_congr_left fun e he => ?_
      obtain ⟨-, -, hbound, hconflict, hsighting⟩ := hes e he
      simp only [hbound, hconflict, hsighting]
  · refine (exec_admitTags _ s).trans (congrArg _ (State.request_refuse hs
      (admitFits_flatten hlength (by simp; omega) (by simp; omega))
      (admitAnswer_of_bad hlength _ _ (by simp) (entryOf_of_bad hbad))))

end Sys2Proof.Machine
end

section
/-!
PROOFS. The requests TREE-ENABLE and TREE-DISABLE (the statement O46).
-/

namespace Sys2Proof.Machine

theorem exec_treeEnable (body : List Byte) (s : State) :
    exec (.treeEnable body) s = .next (s.request 0x08#8 (body.length == 1) (treeEnableAnswer body)) := rfl

theorem exec_treeDisable (body : List Byte) (s : State) :
    exec (.treeDisable body) s = .next (s.request 0x09#8 (body.length == 1) (treeDisableAnswer body)) := rfl

theorem mem_treesOf (m : TreeMask) (t : TreeId) : t ∈ treesOf m ↔ inMask m t = true := by
  rw [treesOf, List.mem_filter]
  exact and_iff_right (by cases t <;> decide)

theorem nodup_treesOf (m : TreeMask) : (treesOf m).Nodup := List.Pairwise.filter _ (by decide)

theorem filter_treesOf (m : TreeMask) (f : TreeId → Bool) :
    (treesOf m).filter f = allTrees.filter fun t => inMask m t && f t := by
  rw [treesOf, List.filter_filter]
  exact congrArg (allTrees.filter ·) (funext fun t => Bool.and_comm _ _)

/-! ### TREE-ENABLE (R4) -/

theorem Part.enableTree_of_enabled {p : Part} {t : TreeId} (auto : Bool) (h : (p.tree t).enabled = true) :
    p.enableTree auto t = p := if_pos h

theorem Part.enableTree_of_disabled {p : Part} {t : TreeId} (auto : Bool) (h : (p.tree t).enabled = false) :
    p.enableTree auto t = (p.modTree t Tree.enable).raise (.tree t true 0 auto) :=
  if_neg (by rw [h]; exact Bool.false_ne_true)

/-- Trees enabled one after the other (R4): each DISABLED one starts, with its notice. -/
theorem Part.foldl_enableTree (auto : Bool) (p : Part) {ts : List TreeId} (hts : ts.Nodup) :
    ts.foldl (fun p t => p.enableTree auto t) p =
        { p with
          trees := (ts.foldl (fun p t => p.enableTree auto t) p).trees
          raised := p.raised ++ (ts.filter fun t => !(p.tree t).enabled).map fun t => .tree t true 0 auto }
      ∧ ∀ u, (ts.foldl (fun p t => p.enableTree auto t) p).tree u =
        if u ∈ ts ∧ (p.tree u).enabled = false then (p.tree u).enable else p.tree u := by
  induction ts generalizing p with
  | nil => simp
  | cons t ts ih =>
    obtain ⟨hnew, hts⟩ := List.nodup_cons.mp hts
    rw [List.foldl_cons]
    cases he : (p.tree t).enabled with
    | true =>
      obtain ⟨hpart, htree⟩ := ih p hts
      rw [Part.enableTree_of_enabled auto he]
      refine ⟨by rw [List.filter_cons_of_neg (by simp [he])]; exact hpart, fun u => ?_⟩
      rw [htree u]
      refine ite_of_iff ?_
      rw [List.mem_cons]
      refine ⟨fun ⟨h1, h2⟩ => ⟨Or.inr h1, h2⟩, fun ⟨h1, h2⟩ => ⟨h1.resolve_left ?_, h2⟩⟩
      rintro rfl
      rw [he] at h2
      cases h2
    | false =>
      obtain ⟨q, hq⟩ : ∃ q, q = p.enableTree auto t := ⟨_, rfl⟩
      have hqeq := hq.trans (Part.enableTree_of_disabled auto he)
      have hqtree : ∀ u, q.tree u = if u = t then (p.tree t).enable else p.tree u := fun u => by
        rw [hqeq, Part.raise_tree, Part.tree_modTree]
      obtain ⟨hpart, htree⟩ := ih q hts
      have hfilter : (ts.filter fun u => !(q.tree u).enabled) = ts.filter fun u => !(p.tree u).enabled :=
        List.filter_congr fun u hu => by
          rw [hqtree u, if_neg (fun h : u = t => hnew (h ▸ hu))]
      rw [← hq]
      refine ⟨?_, fun u => ?_⟩
      · rw [hpart, hfilter, List.filter_cons_of_pos (by simp [he]), hqeq]
        simp [Part.raise]
      · rw [htree u, hqtree u]
        by_cases hu : u = t
        · subst hu
          simp [hnew, he]
        · simp [hu]

/-! ### TREE-DISABLE (R5) -/

theorem mem_allTrees (t : TreeId) : t ∈ allTrees := by cases t <;> decide

theorem Master.discarding_current (m : Master) (t : TreeId) :
    (m.discarding t).current =
      m.current.map fun x => if x.requester == .fetcher t then { x with discard := true } else x := by
  rw [Master.discarding]
  cases hx : m.current with
  | none => exact hx
  | some x =>
    by_cases hr : x.requester == .fetcher t
    · simp only [hr, if_true, Option.map_some]
    · simp only [hr, if_false, Bool.false_eq_true, Option.map_some, hx]

/-- What the disabling of a set of trees makes of a part, its notices apart (R5). -/
structure Part.Disabled (p q : Part) (d : TreeId → Bool) : Prop where
  part : q =
    { p with
      trees := q.trees
      records := p.records.filter fun r => !d r.tree
      admission := p.admission.map fun e =>
        if p.records.any fun r => d r.tree && r.tag == e.tag then { e with bound := false } else e
      master := q.master
      raised := q.raised }
  tree : ∀ t, q.tree t = if d t then (p.tree t).disable else p.tree t
  last : q.master.last = p.master.last
  current : q.master.current = p.master.current.map fun x =>
    if allTrees.any fun t => d t && x.requester == .fetcher t then { x with discard := true } else x

theorem Part.Disabled.congr {p q : Part} {d d' : TreeId → Bool} (h : p.Disabled q d) (hd : ∀ u, d' u = d u) :
    p.Disabled q d' := by
  rw [show d' = d from funext hd]
  exact h

theorem Part.disabled_none (p : Part) : p.Disabled p fun _ => false := by
  have hall : p.records.filter (fun _ => true) = p.records := List.filter_eq_self.mpr fun _ _ => rfl
  refine ⟨?_, fun t => rfl, rfl, ?_⟩
  · simp [hall]
  · simp [allTrees]

theorem Part.disableTree_of_disabled {p : Part} {t : TreeId} (h : (p.tree t).enabled = false) : p.disableTree t = p :=
  if_neg (by rw [h]; exact Bool.false_ne_true)

theorem Part.disableTree_of_enabled {p : Part} {t : TreeId} (h : (p.tree t).enabled = true) :
    p.disableTree t =
      { p.modTree t Tree.disable with
        records := p.records.filter fun r => !(r.tree == t)
        admission := p.admission.map fun e =>
          if ((p.recordsOf t).map (·.tag)).contains e.tag then { e with bound := false } else e
        master := p.master.discarding t
        raised := p.raised ++ [.tree t false (p.recordsOf t).length false] } := by
  rw [Part.disableTree, if_pos h, Part.dropFetch_eq]
  cases t <;> rfl

/-- One more tree is disabled: its records are freed, its fetcher's transfer discarded (R5). -/
theorem Part.Disabled.disableTree {p q : Part} {d : TreeId → Bool} (h : p.Disabled q d) {t : TreeId} (hd : d t = false)
    (he : (p.tree t).enabled = true) :
    p.Disabled (q.disableTree t) (fun u => d u || u == t)
      ∧ (q.disableTree t).raised = q.raised ++ [.tree t false (p.recordsOf t).length false] := by
  obtain ⟨hpart, htree, hlast, hcurrent⟩ := h
  have hqt : q.tree t = p.tree t := by rw [htree, hd, if_neg Bool.false_ne_true]
  have hq := Part.disableTree_of_enabled (p := q) (t := t) (by rw [hqt]; exact he)
  obtain ⟨trees, master, raised, hpart⟩ : ∃ trees master raised, q =
      { p with
        trees := trees
        records := p.records.filter fun r => !d r.tree
        admission := p.admission.map fun e =>
          if p.records.any fun r => d r.tree && r.tag == e.tag then { e with bound := false } else e
        master := master
        raised := raised } := ⟨_, _, _, hpart⟩
  have hrecords : q.recordsOf t = p.recordsOf t := by
    rw [hpart, Part.recordsOf, Part.recordsOf, List.filter_filter]
    refine List.filter_congr fun r _ => ?_
    by_cases hr : r.tree = t
    · simp [hr, hd]
    · simp [hr]
  have htags : ∀ e : AdmitEntry, ((p.recordsOf t).map (·.tag)).contains e.tag =
      p.records.any fun r => r.tree == t && r.tag == e.tag := fun e => by
    rw [Part.recordsOf, Bool.eq_iff_iff]
    simp only [List.contains_iff_mem, List.mem_map, List.mem_filter, List.any_eq_true, Bool.and_eq_true, beq_iff_eq]
    exact exists_congr fun r => and_assoc
  refine ⟨⟨?_, fun u => ?_, ?_, ?_⟩, by rw [hq, hrecords]⟩
  · rw [hq, hrecords]
    have hkept : (p.records.filter fun r => !d r.tree).filter (fun r => !(r.tree == t)) =
        p.records.filter fun r => !(d r.tree || r.tree == t) := by
      rw [List.filter_filter]
      exact List.filter_congr fun r _ => by rw [Bool.not_or, Bool.and_comm]
    have hentries : (q.admission.map fun e =>
          if ((p.recordsOf t).map (·.tag)).contains e.tag then { e with bound := false } else e) =
        p.admission.map fun e =>
          if p.records.any fun r => (d r.tree || r.tree == t) && r.tag == e.tag then { e with bound := false } else e := by
      rw [hpart, List.map_map]
      refine List.map_congr_left fun e _ => ?_
      have hboth : (p.records.any fun r => (d r.tree || r.tree == t) && r.tag == e.tag) =
          ((p.records.any fun r => d r.tree && r.tag == e.tag) || p.records.any fun r => r.tree == t && r.tag == e.tag) := by
        rw [Bool.eq_iff_iff, Bool.or_eq_true, List.any_eq_true, List.any_eq_true, List.any_eq_true, ← exists_or]
        refine exists_congr fun r => ?_
        rw [Bool.and_or_distrib_right, Bool.or_eq_true, and_or_left]
      rw [Function.comp_apply, hboth]
      cases h1 : p.records.any fun r => d r.tree && r.tag == e.tag <;>
        cases h2 : p.records.any fun r => r.tree == t && r.tag == e.tag <;>
        simp only [htags, h2, Bool.or_false, Bool.or_true, Bool.false_eq_true, if_true, if_false]
    rw [hentries, hpart]
    exact congrArg (fun rs => ({ p with
      trees := _, records := rs, admission := _, master := _, raised := _ } : Part)) hkept
  · rw [hq]
    refine (Part.tree_modTree q t u Tree.disable).trans ?_
    by_cases hu : u = t
    · subst hu
      simp [hqt]
    · simp [hu, htree]
  · rw [hq]
    refine Eq.trans ?_ hlast
    simp only [Master.discarding]
    (repeat' split) <;> rfl
  · rw [hq]
    refine (Master.discarding_current q.master t).trans ?_
    rw [hcurrent, Option.map_map]
    refine congrArg (Option.map · p.master.current) (funext fun x => ?_)
    have hany : (allTrees.any fun u => (d u || u == t) && x.requester == .fetcher u) =
        ((allTrees.any fun u => d u && x.requester == .fetcher u) || x.requester == .fetcher t) := by
      rw [Bool.eq_iff_iff, Bool.or_eq_true, List.any_eq_true, List.any_eq_true]
      simp only [Bool.and_eq_true, Bool.or_eq_true, beq_iff_eq]
      constructor
      · rintro ⟨u, hu, hdu | rfl, hx⟩
        · exact Or.inl ⟨u, hu, hdu, hx⟩
        · exact Or.inr hx
      · rintro (⟨u, hu, hdu, hx⟩ | hx)
        · exact ⟨u, hu, Or.inl hdu, hx⟩
        · exact ⟨t, mem_allTrees t, Or.inr rfl, hx⟩
    rw [Function.comp_apply, hany]
    cases h1 : allTrees.any fun u => d u && x.requester == .fetcher u <;>
      cases h2 : x.requester == .fetcher t <;> simp [h2]

/-- Trees disabled one after the other (R5). -/
theorem Part.Disabled.foldl {p q : Part} {d : TreeId → Bool} (h : p.Disabled q d) {ts : List TreeId} (hts : ts.Nodup)
    (hd : ∀ t ∈ ts, d t = false) :
    p.Disabled (ts.foldl Part.disableTree q) (fun u => d u || (ts.contains u && (p.tree u).enabled))
      ∧ (ts.foldl Part.disableTree q).raised =
        q.raised ++ (ts.filter fun t => (p.tree t).enabled).map fun t => .tree t false (p.recordsOf t).length false := by
  induction ts generalizing q d with
  | nil => simpa using h
  | cons t ts ih =>
    obtain ⟨hnew, hts⟩ := List.nodup_cons.mp hts
    have hdt := hd t List.mem_cons_self
    have hqt : q.tree t = p.tree t := by rw [h.tree, hdt, if_neg Bool.false_ne_true]
    rw [List.foldl_cons]
    cases he : (p.tree t).enabled with
    | false =>
      obtain ⟨hdis, hraised⟩ := ih h hts fun u hu => hd u (List.mem_cons_of_mem _ hu)
      rw [Part.disableTree_of_disabled (by rw [hqt]; exact he), List.filter_cons_of_neg (by simp [he])]
      refine ⟨?_, hraised⟩
      refine hdis.congr fun u => ?_
      by_cases hu : u = t
      · subst hu
        simp [he]
      · simp [hu]
    | true =>
      obtain ⟨hone, hraised1⟩ := h.disableTree hdt he
      obtain ⟨hdis, hraised⟩ := ih hone hts fun u hu => by
        rw [hd u (List.mem_cons_of_mem _ hu), Bool.false_or, beq_eq_false_iff_ne]
        rintro rfl
        exact hnew hu
      rw [List.filter_cons_of_pos (by simp [he]), List.map_cons]
      refine ⟨?_, ?_⟩
      · refine hdis.congr fun u => ?_
        by_cases hu : u = t
        · subst hu
          simp [he]
        · rw [beq_eq_false_iff_ne.mpr hu, Bool.or_false]
          simp [hu]
      · rw [hraised, hraised1, List.append_assoc]
        rfl

/-- Settles O46: the trees of the mask one after the other. -/
theorem treeEnableDisable : Obligations.TreeEnableDisable := by
  unfold Obligations.TreeEnableDisable
  intro s hs
  refine ⟨fun m hm => ⟨?_, ?_⟩, fun b hbad => ⟨?_, ?_⟩⟩
  · obtain ⟨hpart, htree⟩ := Part.foldl_enableTree false s.part (nodup_treesOf m)
    obtain ⟨q, hq⟩ : ∃ q, q = (treesOf m).foldl (fun p t => p.enableTree false t) s.part := ⟨_, rfl⟩
    rw [← hq] at hpart htree
    refine ⟨{ s.part with trees := q.trees }, ?_, rfl, fun t => ?_⟩
    · refine (exec_treeEnable _ s).trans (congrArg _ (State.request_raising hs rfl
        (q := { s.part with trees := q.trees }) ?_ rfl))
      rw [treeEnableAnswer, maskAt_of_good _ hm, ← filter_treesOf]
      exact congrArg (okay · []) (hq.symm.trans hpart)
    · refine (htree t).trans ?_
      exact ite_of_iff (and_congr_left' (mem_treesOf m t))
  · obtain ⟨hdis, hraised⟩ := (Part.disabled_none s.part).foldl (nodup_treesOf m) fun _ _ => rfl
    obtain ⟨q, hq⟩ : ∃ q, q = (treesOf m).foldl Part.disableTree s.part := ⟨_, rfl⟩
    have hset : (fun u => false || ((treesOf m).contains u && (s.part.tree u).enabled)) =
        fun u => inMask m u && (s.part.tree u).enabled := by
      funext u
      rw [Bool.false_or, Bool.eq_iff_iff, Bool.and_eq_true, Bool.and_eq_true, List.contains_iff_mem, mem_treesOf]
    rw [← hq, hset] at hdis
    rw [← hq, filter_treesOf] at hraised
    obtain ⟨hpart, htree, hlast, hcurrent⟩ := hdis
    refine ⟨{ q with raised := s.part.raised }, ?_, ?_, fun t => ?_, hlast, ?_⟩
    · refine (exec_treeDisable _ s).trans (congrArg _ (State.request_raising hs rfl
        (q := { q with raised := s.part.raised }) ?_ rfl))
      rw [treeDisableAnswer, maskAt_of_good _ hm, ← hraised]
      exact congrArg (okay · []) hq.symm
    · exact congrArg (fun p : Part => { p with raised := s.part.raised }) hpart
    · refine (htree t).trans (ite_of_iff (Bool.and_eq_true _ _ ▸ Iff.rfl))
    · refine hcurrent.trans ?_
      rfl
  · refine (exec_treeEnable _ s).trans (congrArg _ (State.request_refuse hs rfl ?_))
    rw [treeEnableAnswer, maskAt_of_bad _ hbad]
  · refine (exec_treeDisable _ s).trans (congrArg _ (State.request_refuse hs rfl ?_))
    rw [treeDisableAnswer, maskAt_of_bad _ hbad]

end Sys2Proof.Machine
end

section
/-!
PROOFS. The requests TREE-SET and TREE-GET (the statement O47).
-/

namespace Sys2Proof.Machine

/-! ### What storing a guard_mask ends (R179) -/

/-- A guard as the end of STRAY leaves it: a HUSH left with no factor starts the resume timer (R174, R177). -/
def Guard.calmed (g : Guard) (k : Clock) (delay : Nat) : Guard :=
  { g with
    present := { g.present with stray := false }
    resume :=
      if g.hush = true ∧ g.present.dark = false ∧ g.present.storm = false then some ⟨k.tenth, delay⟩ else g.resume }

theorem Part.endFactor_stray (p : Part) (k : Clock) (t : TreeId) :
    p.endFactor k t .stray =
      p.modTree t fun T => { T with guard := T.guard.calmed k T.settings.resumeDelay } := by
  have hnot : (Factor.stray == Factor.dark) = false := rfl
  simp only [Part.endFactor, Part.startResume, Part.modGuard, Part.tree_modTree_self, hnot, Bool.false_eq_true, if_false]
  have hcond : ((p.tree t).guard.hush && !((p.tree t).guard.present.put .stray false).any) = true ↔
      (p.tree t).guard.hush = true ∧ (p.tree t).guard.present.dark = false ∧ (p.tree t).guard.present.storm = false := by
    simp [Factors.any, Factors.put]
  by_cases hresume :
      (p.tree t).guard.hush = true ∧ (p.tree t).guard.present.dark = false ∧ (p.tree t).guard.present.storm = false
  · rw [if_pos (hcond.mpr hresume), Part.modTree_modTree]
    refine Part.modTree_congr p t ?_
    simp only [Guard.calmed, if_pos hresume]
    rfl
  · rw [if_neg (fun h => hresume (hcond.mp h))]
    refine Part.modTree_congr p t ?_
    simp only [Guard.calmed, if_neg hresume]
    rfl

/-- A guard whose factors that a mask does not hold have ended (R179). -/
def Guard.masked (g : Guard) (mask : Factors) (k : Clock) (delay : Nat) : Guard :=
  { g with
    present := ⟨g.present.stray && mask.stray, g.present.dark && mask.dark, g.present.storm⟩
    resume :=
      if g.hush = true ∧ (⟨g.present.stray && mask.stray, g.present.dark && mask.dark, g.present.storm⟩ : Factors) ≠ g.present
          ∧ (⟨g.present.stray && mask.stray, g.present.dark && mask.dark, g.present.storm⟩ : Factors) = ⟨false, false, false⟩ then
        some ⟨k.tenth, delay⟩
      else g.resume }

/-- The two ends in their order, each where its bit is clear, come to the guard masked. -/
theorem Guard.masked_eq (g : Guard) (mask : Factors) (k : Clock) (delay : Nat) :
    (if g.present.dark && !mask.dark then
        (if g.present.stray && !mask.stray then g.calmed k delay else g).lit k delay
      else if g.present.stray && !mask.stray then g.calmed k delay else g) = g.masked mask k delay := by
  obtain ⟨hush, ⟨stray, dark, storm⟩, seen, count, resume⟩ := g
  obtain ⟨mstray, mdark, mstorm⟩ := mask
  cases stray <;> cases dark <;> cases mstray <;> cases mdark <;> cases storm <;> cases hush <;> rfl

/-- A tree on which a guard_mask has been stored (R179). -/
def Tree.masked (k : Clock) (T : Tree) : Tree :=
  { T with guard := T.guard.masked T.settings.guardMask k T.settings.resumeDelay }

/-- The guard acts on a guard_mask stored; the end of DARK makes the test of R146 (R179). -/
theorem Part.guardMaskStored_eq (p : Part) (k : Clock) (t : TreeId) :
    p.guardMaskStored k t =
      if (p.tree t).guard.present.dark && !(p.tree t).settings.guardMask.dark then
        (p.modTree t (Tree.masked k)).takeTest k t
      else p.modTree t (Tree.masked k) := by
  have hmasked := Guard.masked_eq (p.tree t).guard (p.tree t).settings.guardMask k (p.tree t).settings.resumeDelay
  rw [Part.guardMaskStored]
  by_cases hstray : ((p.tree t).guard.present.stray && !(p.tree t).settings.guardMask.stray) = true <;>
    by_cases hdark : ((p.tree t).guard.present.dark && !(p.tree t).settings.guardMask.dark) = true <;>
    simp only [hstray, hdark, if_true, if_false, Bool.false_eq_true, Part.endFactor_stray, Part.endFactor_dark,
      Part.modTree_modTree] at hmasked ⊢
  · refine congrArg (Part.takeTest · k t) (Part.modTree_congr p t ?_)
    rw [Tree.masked, ← hmasked]
  · refine Part.modTree_congr p t ?_
    rw [Tree.masked, ← hmasked]
  · refine congrArg (Part.takeTest · k t) (Part.modTree_congr p t ?_)
    rw [Tree.masked, ← hmasked]
  · refine (Part.modTree_of_keeps p t _ ?_).symm
    rw [Tree.masked, ← hmasked]

/-! ### TREE-SET on one tree (R17, R179) -/

/-- A tree on which the pairs of a TREE-SET have been stored (R17, R179). -/
def Tree.storing (k : Clock) (pairs : List (Nat × Int)) (T : Tree) : Tree :=
  if pairs.any (·.1 == 23) then Tree.masked k { T with settings := storePairs T.settings pairs }
  else { T with settings := storePairs T.settings pairs }

theorem Tree.storing_push (k : Clock) (pairs : List (Nat × Int)) (T : Tree) :
    (T.storing k pairs).engine = T.engine ∧ (T.storing k pairs).pushQueue = T.pushQueue := by
  rw [Tree.storing]
  split <;> exact ⟨rfl, rfl⟩

/-- The pairs are stored, and where DARK ends with them the test of R146 is made (R17, R179). -/
theorem Part.setTree_eq (p : Part) (k : Clock) (pairs : List (Nat × Int)) (t : TreeId) :
    p.setTree k pairs t =
      if ((p.tree t).storing k pairs).guard.present.dark ≠ (p.tree t).guard.present.dark then
        (p.modTree t (Tree.storing k pairs)).takeTest k t
      else p.modTree t (Tree.storing k pairs) := by
  rw [Part.setTree]
  cases hmask : pairs.any (·.1 == 23) with
  | false =>
    have hstoring : Tree.storing k pairs = fun T => { T with settings := storePairs T.settings pairs } := by
      funext T
      rw [Tree.storing, hmask, if_neg Bool.false_ne_true]
    rw [hstoring]
    exact (if_neg (fun h => h rfl)).symm
  | true =>
    have hstoring : Tree.storing k pairs = fun T => Tree.masked k { T with settings := storePairs T.settings pairs } := by
      funext T
      rw [Tree.storing, hmask, if_pos rfl]
    rw [if_pos rfl, Part.guardMaskStored_eq, Part.modTree_modTree, Part.tree_modTree_self, hstoring]
    refine ite_of_iff ?_
    have hdark : ∀ a b : Bool, (a && !b) = true ↔ (a && b) ≠ a := by decide
    exact hdark _ _

/-- Where no engine has a record to take, the pairs are stored and no more (R146, R179). -/
theorem Part.setTree_of_idle {p : Part} {k : Clock} {pairs : List (Nat × Int)} {t : TreeId}
    (h : ((p.tree t).storing k pairs).guard.present.dark ≠ (p.tree t).guard.present.dark →
      (p.engine t).state ≠ .idle ∨ (p.tree t).pushQueue = []) :
    p.setTree k pairs t = p.modTree t (Tree.storing k pairs) := by
  obtain ⟨hengine, hpush⟩ := Tree.storing_push k pairs (p.tree t)
  rw [Part.setTree_eq]
  split
  case isTrue hdark =>
    obtain hbusy | hempty := h hdark
    · exact Part.takeTest_of_busy k (by rw [Part.engine, Part.tree_modTree_self, hengine]; exact hbusy)
    · exact Part.takeTest_of_empty k (by rw [Part.tree_modTree_self, hpush]; exact hempty)
  case isFalse => rfl

/-! ### Changes of the trees of a mask -/

/-- A change of each tree of a list that goes by that tree alone. -/
theorem Part.foldl_eq_modTree {f : Part → TreeId → Part} {g : TreeId → Tree → Tree} {p : Part} {ts : List TreeId}
    (hts : ts.Nodup) (hf : ∀ q t, t ∈ ts → q.tree t = p.tree t → f q t = q.modTree t (g t)) {q : Part}
    (hq : ∀ t ∈ ts, q.tree t = p.tree t) : ts.foldl f q = ts.foldl (fun q t => q.modTree t (g t)) q := by
  induction ts generalizing q with
  | nil => rfl
  | cons t ts ih =>
    obtain ⟨hnew, hts⟩ := List.nodup_cons.mp hts
    rw [List.foldl_cons, List.foldl_cons, hf q t List.mem_cons_self (hq t List.mem_cons_self)]
    refine ih hts (fun q u hu => hf q u (List.mem_cons_of_mem _ hu)) fun u hu => ?_
    rw [Part.tree_modTree_ne _ (fun h : u = t => hnew (h ▸ hu))]
    exact hq u (List.mem_cons_of_mem _ hu)

theorem Part.foldl_treesOf_modTree (p : Part) (m : TreeMask) (g : TreeId → Tree → Tree) :
    (treesOf m).foldl (fun q t => q.modTree t (g t)) p =
      p.eachTree fun q t => q.modTree t fun T => if inMask m t then g t T else T := by
  rw [Part.foldl_treesOf]
  refine congrArg p.eachTree (funext fun q => funext fun t => ?_)
  cases hm : inMask m t with
  | true => rfl
  | false => exact (Part.modTree_of_keeps q t _ rfl).symm

theorem treesOf_of_one {m : TreeMask} {t : TreeId} (h : ∀ u, inMask m u = true ↔ u = t) : treesOf m = [t] := by
  have hmask : inMask m = fun u => u == t := funext fun u => by rw [Bool.eq_iff_iff, h u, beq_iff_eq]
  rw [treesOf, hmask]
  cases t <;> rfl

theorem highestTree_of_one {m : TreeMask} {t : TreeId} (h : ∀ u, inMask m u = true ↔ u = t) : highestTree m = t := by
  have hmask : ∀ u, inMask m u = (u == t) := fun u => by rw [Bool.eq_iff_iff, h u, beq_iff_eq]
  simp only [highestTree, hmask]
  cases t <;> rfl

/-! ### The request TREE-SET (R17) -/

theorem exec_treeSet (body : List Byte) (s : State) :
    exec (.treeSet body) s = .next (s.request 0x0A#8 (treeSetFits body.length) (treeSetAnswer body)) := rfl

/-- The bytes of the pairs of a TREE-SET (12.10). -/
def pairBytes (pairs : List (Nat × Int)) : List Byte := (pairs.map fun q => BitVec.ofNat 8 q.1 :: beInt 4 q.2).flatten

theorem treeSetBody_fits (b : Byte) {pairs : List (Nat × Int)} (h : pairs.length ≤ 28) :
    treeSetFits (b :: pairBytes pairs).length = true := by
  have hlength : (pairBytes pairs).length = 5 * pairs.length := by
    rw [pairBytes, length_flatten_of_length (n := 5), List.length_map]
    intro bs hbs
    obtain ⟨q, -, rfl⟩ := List.mem_map.mp hbs
    rw [List.length_cons, beInt_length]
  rw [List.length_cons, hlength, treeSetFits, Bool.and_eq_true, Bool.and_eq_true, beq_iff_eq, decide_eq_true_eq,
    decide_eq_true_eq]
  omega

theorem pairsOf_pairBytes {pairs : List (Nat × Int)}
    (h : ∀ q ∈ pairs, q.1 < 256 ∧ -2147483648 ≤ q.2 ∧ q.2 < 2147483648) : pairsOf (pairBytes pairs) = pairs := by
  induction pairs with
  | nil => rfl
  | cons q pairs ih =>
    obtain ⟨hid, hlow, hhigh⟩ := h q List.mem_cons_self
    have hone : pairsOf (pairBytes (q :: pairs)) =
        ((BitVec.ofNat 8 q.1).toNat, fromBeInt32 (beInt 4 q.2)) :: pairsOf (pairBytes pairs) := rfl
    have hn : (BitVec.ofNat 8 q.1).toNat = q.1 := toNat_byte hid
    rw [hone, hn, fromBeInt32_beInt hlow hhigh, ih fun x hx => h x (List.mem_cons_of_mem _ hx)]

theorem treeSetAnswer_of_bad_mask {b : Byte} (h : b = 0 ∨ 15 < b.toNat) (rest : List Byte) (k : Clock) (p : Part) :
    treeSetAnswer (b :: rest) k p = refuse p .badField := by
  rw [treeSetAnswer, maskAt_of_bad _ h]

section
variable {m : TreeMask} (hm : m ≠ 0) {pairs : List (Nat × Int)}
  (hpairs : ∀ q ∈ pairs, q.1 < 256 ∧ -2147483648 ≤ q.2 ∧ q.2 < 2147483648) (k : Clock) (p : Part)
include hm hpairs

theorem treeSetAnswer_of_mask :
    treeSetAnswer (m.setWidth 8 :: pairBytes pairs) k p =
      if pairs.any fun q => badPair q.1 q.2 then refuse p .badField
      else if p.setInUse m pairs then refuse p .inUse
      else
        okay ((treesOf m).foldl (fun p t => p.setTree k pairs t) p)
          (((treesOf m).foldl (fun p t => p.setTree k pairs t) p).tree (highestTree m)).settings.bytes := by
  have hdrop : (m.setWidth 8 :: pairBytes pairs).drop 1 = pairBytes pairs := rfl
  simp only [treeSetAnswer, maskAt_of_good _ hm, hdrop, pairsOf_pairBytes hpairs]

theorem treeSetAnswer_of_bad_pair (h : ∃ q ∈ pairs, badPair q.1 q.2 = true) :
    treeSetAnswer (m.setWidth 8 :: pairBytes pairs) k p = refuse p .badField := by
  rw [treeSetAnswer_of_mask hm hpairs, if_pos (List.any_eq_true.mpr h)]

variable (hgood : ∀ q ∈ pairs, badPair q.1 q.2 = false)
include hgood

theorem treeSetAnswer_of_inUse
    (h : ∃ t q, inMask m t = true ∧ (p.tree t).enabled = true ∧ q ∈ pairs ∧ changesLocked (p.tree t).settings q = true) :
    treeSetAnswer (m.setWidth 8 :: pairBytes pairs) k p = refuse p .inUse := by
  obtain ⟨t, q, ht, he, hq, hlocked⟩ := h
  have huse : p.setInUse m pairs = true := by
    rw [Part.setInUse, List.any_eq_true]
    exact ⟨t, (mem_treesOf m t).mpr ht, by rw [he, Bool.true_and, List.any_eq_true]; exact ⟨q, hq, hlocked⟩⟩
  rw [treeSetAnswer_of_mask hm hpairs, if_neg, if_pos huse]
  simpa using hgood

theorem treeSetAnswer_of_stored
    (h : ∀ t q, inMask m t = true → (p.tree t).enabled = true → q ∈ pairs → changesLocked (p.tree t).settings q = false) :
    treeSetAnswer (m.setWidth 8 :: pairBytes pairs) k p =
      okay ((treesOf m).foldl (fun p t => p.setTree k pairs t) p)
        (((treesOf m).foldl (fun p t => p.setTree k pairs t) p).tree (highestTree m)).settings.bytes := by
  have huse : p.setInUse m pairs = false := by
    rw [Part.setInUse, List.any_eq_false]
    intro t ht huse
    rw [Bool.and_eq_true, List.any_eq_true] at huse
    obtain ⟨he, q, hq, hlocked⟩ := huse
    rw [h t q ((mem_treesOf m t).mp ht) he hq] at hlocked
    cases hlocked
  rw [treeSetAnswer_of_mask hm hpairs, if_neg, huse, if_neg Bool.false_ne_true]
  simpa using hgood

end

/-! ### The request TREE-GET (R19) -/

theorem exec_treeGet (body : List Byte) (s : State) :
    exec (.treeGet body) s = .next (s.request 0x0B#8 (body.length == 2) (treeGetAnswer body)) := rfl

theorem treeGetAnswer_of_bad {b : Byte} (h : b = 0 ∨ 15 < b.toNat) (c : Byte) (k : Clock) (p : Part) :
    treeGetAnswer [b, c] k p = refuse p .badField := by
  rw [treeGetAnswer, maskAt_of_bad _ h]

theorem treeGetAnswer_of_mask {m : TreeMask} (hm : m ≠ 0) (c : Byte) (k : Clock) (p : Part) :
    treeGetAnswer [m.setWidth 8, c] k p =
      okay (p.eachTree fun q t => q.modTree t fun T => if inMask m t = true ∧ c ≠ 0 then { T with counters := .zero } else T)
        (treeGetData (highestTree m) (p.tree (highestTree m))) := by
  have hc : byteAt [m.setWidth 8, c] 1 = c := rfl
  simp only [treeGetAnswer, maskAt_of_good _ hm, hc]
  refine congrArg (okay · _) ?_
  by_cases h : c = 0
  · have hkeep : (p.eachTree fun q t => q.modTree t fun T => if inMask m t = true ∧ c ≠ 0 then { T with counters := .zero } else T) =
        p.eachTree fun q _ => q :=
      congrArg p.eachTree (funext fun q => funext fun t =>
        Part.modTree_of_keeps q t _ (if_neg fun h' => h'.2 h))
    rw [if_pos (beq_iff_eq.mpr h), hkeep]
    rfl
  · rw [if_neg (by rwa [beq_iff_eq])]
    refine (Part.foldl_treesOf_modTree p m fun _ T => { T with counters := .zero }).trans ?_
    refine congrArg p.eachTree (funext fun q => funext fun t => Part.modTree_congr q t ?_)
    exact ite_of_iff (by rw [and_iff_left h])

/-! ### Both requests -/

/-- The trees as a TREE-SET leaves them, in the words of R17 and R179. -/
theorem Tree.storing_eq (k : Clock) (pairs : List (Nat × Int)) (T : Tree) {S : Settings} {present : Factors}
    (hS : S = storePairs T.settings pairs)
    (hpresent : present =
      ⟨T.guard.present.stray && S.guardMask.stray, T.guard.present.dark && S.guardMask.dark, T.guard.present.storm⟩) :
    T.storing k pairs =
      if ∃ q ∈ pairs, q.1 = 23 then
        { T with
          settings := S
          guard := { T.guard with
            present := present
            resume :=
              if T.guard.hush = true ∧ present ≠ T.guard.present ∧ present = ⟨false, false, false⟩ then
                some ⟨k.tenth, S.resumeDelay⟩
              else T.guard.resume } }
      else { T with settings := S } := by
  subst hS hpresent
  refine ite_of_iff ?_
  rw [List.any_eq_true]
  exact exists_congr fun q => and_congr_right' beq_iff_eq

/-- Settles O47: the refusals of TREE-SET, its effect tree by tree, the read TREE-GET, and single values clamped. -/
theorem treeSetGet : Obligations.TreeSetGet := by
  unfold Obligations.TreeSetGet
  refine ⟨fun s m hs hm => ⟨fun pairs hcount hpairs => ⟨fun hbad => ?_, fun hgood hlocked => ?_, fun hgood hfree kept hkept => ?_⟩,
    fun c => ?_⟩, fun s b hs hbad => ⟨fun pairs hcount => ?_, fun c => ?_⟩, fun s v hv => ?_⟩
  · exact (exec_treeSet _ s).trans (congrArg _ (State.request_refuse hs (treeSetBody_fits _ hcount)
      (treeSetAnswer_of_bad_pair hm hpairs _ _ hbad)))
  · exact (exec_treeSet _ s).trans (congrArg _ (State.request_refuse hs (treeSetBody_fits _ hcount)
      (treeSetAnswer_of_inUse hm hpairs _ _ hgood hlocked)))
  · have hanswer := treeSetAnswer_of_stored hm hpairs s.clock s.part hgood hfree
    have htree : ∀ t, kept t = if inMask m t then (s.part.tree t).storing s.clock pairs else s.part.tree t := by
      intro t
      rw [hkept t _ _ rfl rfl, Tree.storing_eq s.clock pairs (s.part.tree t) rfl rfl]
      cases hmt : inMask m t
      · rfl
      · rfl
    refine ⟨fun hidle => ?_, fun t p hone hdark hp => ?_⟩
    · have hfold : (treesOf m).foldl (fun p t => p.setTree s.clock pairs t) s.part =
          s.part.eachTree fun q t => q.modTree t fun T => if inMask m t then T.storing s.clock pairs else T := by
        rw [← Part.foldl_treesOf_modTree]
        refine Part.foldl_eq_modTree (p := s.part) (nodup_treesOf m) (fun q t ht hq => ?_) fun _ _ => rfl
        have hmt := (mem_treesOf m t).mp ht
        refine Part.setTree_of_idle fun hdark => ?_
        rw [Part.engine, hq] at *
        refine hidle t ?_
        rwa [htree t, hmt, if_pos rfl]
      rw [hfold] at hanswer
      have htrees : ∀ t, (s.part.eachTree fun q t => q.modTree t fun T =>
          if inMask m t then T.storing s.clock pairs else T).tree t = kept t := fun t => by
        rw [Part.eachTree_modTree_tree, htree t]
      rw [htrees] at hanswer
      exact ⟨_, (exec_treeSet _ s).trans (congrArg _ (State.request_okay hs (treeSetBody_fits _ hcount) hanswer rfl)),
        rfl, htrees⟩
    · have hmt : inMask m t = true := (hone t).mpr rfl
      have hkt : kept t = (s.part.tree t).storing s.clock pairs := by rw [htree t, hmt, if_pos rfl]
      rw [hkt] at hdark hp ⊢
      have hset : s.part.setTree s.clock pairs t = p := by
        rw [Part.setTree_eq, if_pos hdark, hp]
        exact congrArg (Part.takeTest · s.clock t) (Part.modTree_congr s.part t rfl)
      have hsettings : (p.tree t).settings = ((s.part.tree t).storing s.clock pairs).settings := by
        rw [hp, (Part.kept_trees (Part.takeTest_kept _ _ _) t).2, Part.tree_modTree_self]
      rw [treesOf_of_one hone, highestTree_of_one hone, List.foldl_cons, List.foldl_nil, hset, hsettings] at hanswer
      exact (exec_treeSet _ s).trans (congrArg _ (State.request_of_answer hs (treeSetBody_fits _ hcount) hanswer))
  · refine ⟨_, (exec_treeGet _ s).trans (congrArg _ (State.request_okay hs rfl (treeGetAnswer_of_mask hm c _ _) rfl)), rfl,
      fun t => Part.eachTree_modTree_tree _ _ t⟩
  · exact (exec_treeSet _ s).trans (congrArg _ (State.request_refuse hs (treeSetBody_fits _ hcount)
      (treeSetAnswer_of_bad_mask hbad _ _ _)))
  · exact (exec_treeGet _ s).trans (congrArg _ (State.request_refuse hs rfl (treeGetAnswer_of_bad hbad c _ _)))
  · refine ⟨?_, rfl, rfl, rfl, rfl, rfl, rfl, rfl, fun h0 h7 => ?_⟩
    · have hdown : downTo4 (clampInt 20000 250000 v) = 4 * ((max 20000 (min 250000 v)) / 4) := Int.mul_comm _ _
      exact congrArg (fun n : Int => { s with reachDepth := n.toNat }) hdown
    · have hfactors : factorsOf v = ⟨v % 2 = 1, v / 2 % 2 = 1, v / 4 = 1⟩ := by
        obtain rfl | rfl | rfl | rfl | rfl | rfl | rfl | rfl :
            v = 0 ∨ v = 1 ∨ v = 2 ∨ v = 3 ∨ v = 4 ∨ v = 5 ∨ v = 6 ∨ v = 7 := by omega
        all_goals rfl
      exact congrArg (fun f => { s with guardMask := f }) hfactors

end Sys2Proof.Machine
end

section
/-!
PROOFS. The record that an IDLE engine takes, and how its source is resolved (the first half of the statement O32).
-/

namespace Sys2Proof.Machine

/-! ### Which record is taken (R146) -/

/-- The part as an engine that takes a record leaves it, its source not yet resolved (R146). -/
def Part.taken (p : Part) (t : TreeId) (h profile : Nat) : Part :=
  p.modTree t fun T =>
    { T with
      pushQueue := T.pushQueue.filter (· != h)
      engine := { Engine.idle with state := .resolving, serving := some h, profile := profile } }

section
variable {p : Part} (k : Clock) {t : TreeId}

theorem Part.nextToTake_of_impaired (h : ∀ x ∈ (p.tree t).pushQueue, ∀ r, p.record? t x = some r → r.impaired = true) :
    p.nextToTake t = none := by
  rw [Part.nextToTake, List.findSome?_eq_none_iff]
  intro x hx
  cases hr : p.record? t x with
  | none => rfl
  | some r => exact if_pos (h x hx r hr)

theorem Part.nextToTake_of_first {before after : List Nat} {h : Nat} {r : Record}
    (hqueue : (p.tree t).pushQueue = before ++ h :: after)
    (hbefore : ∀ x ∈ before, ∀ q, p.record? t x = some q → q.impaired = true) (hr : p.record? t h = some r)
    (hhealthy : r.impaired = false) : p.nextToTake t = some r := by
  have hnone : (before.findSome? fun h =>
      match p.record? t h with
      | some r => if r.impaired then none else some r
      | none => none) = none := by
    rw [List.findSome?_eq_none_iff]
    intro x hx
    cases hq : p.record? t x with
    | none => rfl
    | some q => exact if_pos (hbefore x hx q hq)
  rw [Part.nextToTake, hqueue, List.findSome?_append]
  refine (congrArg (Option.or · _) hnone).trans ?_
  simp [hr, hhealthy]

/-- The record taken is one of the push queue (R146). -/
theorem Part.nextToTake_mem {r : Record} (h : p.nextToTake t = some r) : r.handle ∈ (p.tree t).pushQueue := by
  obtain ⟨x, hx, hr⟩ := List.exists_of_findSome?_eq_some h
  cases hq : p.record? t x with
  | none => simp [hq] at hr
  | some q =>
    obtain ⟨-, hname⟩ := Part.record?_name hq
    by_cases hi : q.impaired = true
    · simp [hq, hi] at hr
    · simp only [hq, hi, Bool.false_eq_true, if_false, Option.some.injEq] at hr
      rw [← hr, hname]
      exact hx

theorem Part.takeOne_of_none (h : (p.engine t).state ≠ .idle ∨ (p.tree t).guard.present.dark = true ∨ p.nextToTake t = none) :
    p.takeOne k t = (p, false) := by
  simp only [Part.takeOne]
  split
  case isTrue => rfl
  case isFalse hc =>
    rw [Bool.or_eq_true, bne_iff_ne, not_or] at hc
    obtain h | h | h := h
    · exact absurd h hc.1
    · exact absurd h hc.2
    · rw [h]

theorem Part.takeTest_of_none (h : (p.engine t).state ≠ .idle ∨ (p.tree t).guard.present.dark = true ∨ p.nextToTake t = none) :
    p.takeTest k t = p := by
  rw [Part.takeTest, Part.takeUpTo, Part.takeOne_of_none k h]
  rfl

section
variable (hidle : (p.engine t).state = .idle) (hlit : (p.tree t).guard.present.dark = false) {r : Record} {l : Load}
  (hnext : p.nextToTake t = some r) (hl : r.load = some l)
include hidle hlit hnext hl

theorem Part.takeOne_of_next : p.takeOne k t = (p.taken t r.handle l.profile).resolve k t r l := by
  have hstate : (p.tree t).engine.state = .idle := hidle
  simp only [Part.takeOne, hstate, hlit, hnext, hl]
  rfl

end

/-! ### How often the test is made -/

theorem Part.holdRecord_pushQueue (p : Part) (t : TreeId) (h : Nat) (cause : Cause) :
    ((p.holdRecord t h cause).tree t).pushQueue = (p.tree t).pushQueue := by
  cases hr : p.record? t h with
  | none => simp only [Part.holdRecord, hr]
  | some r =>
    rw [Part.holdRecord_eq hr]
    cases t <;> rfl

/-- The engine is IDLE again only where the profile was unavailable and fallback is HOLD (R147). -/
theorem Part.resolve_again {r : Record} {l : Load} (h : (p.resolve k t r l).2 = true) :
    p.resolve k t r l = ((p.modEngine t fun _ => .idle).holdRecord t r.handle .noProfile, true) := by
  have hunavailable : (p.unavailable k t r.handle).2 = true →
      p.unavailable k t r.handle = ((p.modEngine t fun _ => .idle).holdRecord t r.handle .noProfile, true) := by
    intro hagain
    cases hf : (p.tree t).settings.fallback with
    | useDefault => simp [Part.unavailable, hf] at hagain
    | hold => simp only [Part.unavailable, hf]
  rw [Part.resolve] at h ⊢
  split at h
  · cases h
  · rename_i hstream
    rw [if_neg hstream]
    split at h
    · rename_i hexternal
      rw [if_pos hexternal]
      split at h
      · cases h
      · rename_i hstore
        rw [if_neg hstore]
        exact hunavailable h
    · rename_i hexternal
      rw [if_neg hexternal]
      simp only at h ⊢
      split at h
      · cases h
      · rename_i hready
        rw [if_neg hready]
        exact hunavailable h

/-- A record that falls to HELD has left the push queue (R146, R147). -/
theorem Part.takeOne_again (h : (p.takeOne k t).2 = true) :
    ((p.takeOne k t).1.tree t).pushQueue.length < (p.tree t).pushQueue.length := by
  by_cases hnone : (p.engine t).state ≠ .idle ∨ (p.tree t).guard.present.dark = true ∨ p.nextToTake t = none
  · rw [Part.takeOne_of_none k hnone] at h
    cases h
  · rw [not_or, not_or, Classical.not_not, Bool.not_eq_true] at hnone
    obtain ⟨hidle, hlit, hsome⟩ := hnone
    obtain ⟨r, hnext⟩ := Option.ne_none_iff_exists'.mp hsome
    cases hl : r.load with
    | none =>
      have hstate : (p.tree t).engine.state = .idle := hidle
      simp [Part.takeOne, hstate, hlit, hnext, hl] at h
    | some l =>
      rw [Part.takeOne_of_next k hidle hlit hnext hl] at h ⊢
      rw [Part.resolve_again k h, Part.holdRecord_pushQueue, Part.modEngine, Part.taken, Part.modTree_modTree,
        Part.tree_modTree_self]
      refine List.length_filter_lt_length_iff_exists.mpr ⟨r.handle, Part.nextToTake_mem hnext, ?_⟩
      simp

theorem Part.takeUpTo_succ (n : Nat) :
    p.takeUpTo k t (n + 1) = if (p.takeOne k t).2 then (p.takeOne k t).1.takeUpTo k t n else (p.takeOne k t).1 := rfl

/-- More fuel than the queue is long changes nothing. -/
theorem Part.takeUpTo_of_le {n m : Nat} (hn : (p.tree t).pushQueue.length < n) (hm : (p.tree t).pushQueue.length < m) :
    p.takeUpTo k t n = p.takeUpTo k t m := by
  induction n generalizing p m with
  | zero => exact absurd hn (Nat.not_lt_zero _)
  | succ n ih =>
    obtain ⟨m, rfl⟩ : ∃ m', m = m' + 1 := ⟨m - 1, by omega⟩
    rw [Part.takeUpTo_succ, Part.takeUpTo_succ]
    cases hagain : (p.takeOne k t).2 with
    | false => rfl
    | true =>
      have hless := Part.takeOne_again k hagain
      exact ih (p := (p.takeOne k t).1) (by omega) (by omega)

section
variable (hidle : (p.engine t).state = .idle) (hlit : (p.tree t).guard.present.dark = false) {r : Record} {l : Load}
  (hnext : p.nextToTake t = some r) (hl : r.load = some l)
include hidle hlit hnext hl

/-- The test of R146 where a record is taken: once, or again after one that fell to HELD (R146, R147). -/
theorem Part.takeTest_of_next {again : Bool} {q : Part} (hq : (p.taken t r.handle l.profile).resolve k t r l = (q, again)) :
    p.takeTest k t = if again then q.takeTest k t else q := by
  have hone : p.takeOne k t = (q, again) := (Part.takeOne_of_next k hidle hlit hnext hl).trans hq
  rw [Part.takeTest, Part.takeUpTo, hone]
  cases hagain : again with
  | false => rfl
  | true =>
    have hless := Part.takeOne_again (p := p) k (t := t) (by rw [hone, hagain])
    rw [hone] at hless
    exact Part.takeUpTo_of_le k hless (Nat.lt_succ_self _)

end

/-! ### The source of the record taken (R147, R148) -/

section
variable (r : Record) {l : Load}

theorem Part.resolve_of_stream (h : l.profile = 64) :
    p.resolve k t r l =
      ((p.raise (.pushStart t r.handle r.tag (l.used + 1))).modEngine t fun e =>
        { e with beginTimer := some ⟨k.tenth, (p.tree t).settings.stallLimit⟩ }, false) :=
  if_pos (beq_iff_eq.mpr h)

theorem Part.resolve_of_external (h1 : 17 ≤ l.profile) (h2 : l.profile ≤ 63) (hstore : p.straps.store = true) :
    p.resolve k t r l = (p.requestFetch t .directory (15360 + 4 * (l.profile - 17)) 4, false) := by
  have hstream : ¬(l.profile == 64) = true := by
    rw [beq_iff_eq]
    omega
  rw [Part.resolve, if_neg hstream, if_pos h1, if_pos hstore]
  rfl

theorem Part.resolve_of_ready (h : l.profile ≤ 16) (hready : (p.slot l.profile).state = .ready) :
    p.resolve k t r l =
      (p.startPreparing k t r.handle .internal (p.slot l.profile).bytes.length, false) := by
  have hstream : ¬(l.profile == 64) = true := by
    rw [beq_iff_eq]
    omega
  rw [Part.resolve, if_neg hstream, if_neg (by omega)]
  exact if_pos (beq_iff_eq.mpr hready)

/-- An internal slot not READY, or an external profile with no EEPROM, is unavailable (R147). -/
theorem Part.resolve_of_unavailable
    (h : 1 ≤ l.profile ∧ l.profile ≤ 16 ∧ (p.slot l.profile).state ≠ .ready
      ∨ 17 ≤ l.profile ∧ l.profile ≤ 63 ∧ p.straps.store = false) :
    p.resolve k t r l = p.unavailable k t r.handle := by
  have hstream : ¬(l.profile == 64) = true := by
    rw [beq_iff_eq]
    omega
  rw [Part.resolve, if_neg hstream]
  obtain ⟨-, h16, hready⟩ | ⟨h17, -, hstore⟩ := h
  · rw [if_neg (by omega)]
    exact if_neg (by rwa [beq_iff_eq])
  · rw [if_pos h17, hstore, if_neg Bool.false_ne_true]

end

/-! ### A push that is PREPARING at once (R147, R149, R152) -/

/-- The bytes that enter an empty FIFO at once from a source inside the part (R149). -/
def firstBytes (bytes : List Byte) : List Byte := bytes.take (min 2048 bytes.length)

/-- The engine of a push whose source inside the part holds the whole image (R147, R149). -/
def Engine.filled (h profile : Nat) (source : Source) (bytes : List Byte) : Engine :=
  { Engine.idle with
    state := .preparing
    serving := some h
    profile := profile
    source := some source
    imageLength := bytes.length
    fifo := firstBytes bytes
    crc := crc32Feed 0xFFFFFFFF#32 (firstBytes bytes) }

/-- Bytes from a source inside the part enter the FIFO of an engine that starts PREPARING (R149). -/
theorem Part.refill_first {q : Part} {h profile : Nat} {source : Source} {bytes : List Byte}
    (he : q.engine t =
      Engine.startPreparing { Engine.idle with state := .resolving, serving := some h, profile := profile } source bytes.length)
    (hsource : source = .internal ∧ (q.slot profile).bytes = bytes
      ∨ source = .default ∧ bytes = (List.range 256).map Config.romByte) :
    q.refill k t = q.modEngine t fun _ => Engine.filled h profile source bytes := by
  have hcount : min (q.engine t).freeSpace ((q.engine t).imageLength - 0) = min 2048 bytes.length := by
    rw [he]
    rfl
  have hfill : (q.engine t).fillCount = 0 := by
    rw [he]
    rfl
  have hentered : ∀ bs, bs = firstBytes bytes → q.modEngine t (·.enter bs) =
      q.modEngine t fun _ => Engine.filled h profile source bytes := fun bs hbs => by
    refine Part.modTree_congr q t ?_
    have hengine : (q.tree t).engine = _ := he
    rw [hengine, hbs]
    rfl
  have hnot : ((q.modEngine t fun _ => Engine.filled h profile source bytes).engine t).state ≠ .streaming := by
    rw [Part.engine_modEngine_self]
    exact EngineState.noConfusion
  obtain ⟨rfl, hbytes⟩ | ⟨rfl, hbytes⟩ := hsource
  · have hsrc : (q.engine t).source = some .internal := by rw [he]; rfl
    have hprofile : (q.engine t).profile = profile := by rw [he]; rfl
    simp only [Part.refill, hsrc, hfill, hcount, hprofile, hbytes, List.drop_zero]
    rw [hentered (bytes.take (min 2048 bytes.length)) rfl, Part.pauseUpdate_of_not_streaming hnot]
  · have hsrc : (q.engine t).source = some .default := by rw [he]; rfl
    have hrom : romSlice 0 (min 2048 bytes.length) = firstBytes bytes := by
      have hlength : bytes.length = 256 := by rw [hbytes, List.length_map, List.length_range]
      rw [romSlice, firstBytes, hlength, List.take_of_length_le (by omega), hbytes]
      exact List.map_congr_left fun i _ => congrArg Config.romByte (Nat.zero_add i)
    simp only [Part.refill, hsrc, hfill, hcount]
    rw [hentered _ hrom, Part.pauseUpdate_of_not_streaming hnot]

theorem Part.modEngine_modRecord (p : Part) (t u : TreeId) (h : Nat) (f : Record → Record) (g : Engine → Engine) :
    (p.modRecord u h f).modEngine t g = (p.modEngine t g).modRecord u h f := rfl

theorem Tree.offered_withPush (T : Tree) (o : Order) (hs : List Nat) (e : Engine) :
    Tree.offered o { T with pushQueue := hs, engine := e } = { T.offered o with pushQueue := hs, engine := e } := by
  have haccepts : Tree.accepts { T with pushQueue := hs, engine := e } = T.accepts := rfl
  have hhold : Tree.mayHold { T with pushQueue := hs, engine := e } o = T.mayHold o := rfl
  simp only [Tree.offered, haccepts, hhold]
  (repeat' split) <;> rfl

/-- What a push that is PREPARING at once leaves (R147, R152). -/
theorem Part.taken_startPreparing {h profile : Nat} {source : Source} {bytes : List Byte} {number : Nat}
    (hnumber : number = if source == .default then 0 else profile)
    (hsource : source = .internal ∧ (p.slot profile).bytes = bytes
      ∨ source = .default ∧ bytes = (List.range 256).map Config.romByte) :
    (p.taken t h profile).startPreparing k t h source bytes.length =
      (p.modTree t fun T =>
        { T.offered (.prepare h bytes.length number) with
          pushQueue := T.pushQueue.filter (· != h)
          engine := Engine.filled h profile source bytes }).modRecord t h (·.preparedFrom source) := by
  have hengine : (p.taken t h profile).engine t =
      { Engine.idle with state := .resolving, serving := some h, profile := profile } := by
    rw [Part.engine, Part.taken, Part.tree_modTree_self]
  rw [Part.startPreparing_eq _ k t h source bytes.length (number := number) (by rw [hengine]; exact hnumber),
    Part.refill_first k (h := h) (profile := profile) (source := source) (bytes := bytes) ?_ (by exact hsource)]
  · rw [Part.modEngine_modRecord, Part.taken, Part.modEngine, Part.modTree_modTree, Part.modTree_modTree]
    refine congrArg (fun q : Part => q.modRecord t h (·.preparedFrom source)) (Part.modTree_congr p t ?_)
    exact congrArg (fun T : Tree => { T with engine := Engine.filled h profile source bytes })
      (Tree.offered_withPush (p.tree t) _ _ _)
  · rw [Part.engine, Part.modRecord_tree, Part.tree_modTree_self]
    exact congrArg (Engine.startPreparing · source bytes.length) hengine

/-! ### The test of R146 where it takes a record -/

section
variable (hidle : (p.engine t).state = .idle) (hlit : (p.tree t).guard.present.dark = false) {h : Nat} {r : Record} {l : Load}
  (hnext : p.nextToTake t = some r) (hr : p.record? t h = some r) (hl : r.load = some l)
include hidle hlit hnext hr hl

/-- A record whose image is inside the part, or whose profile is unavailable with a default: PREPARING (R147). -/
theorem Part.takeTest_prepares {source : Source} {bytes : List Byte} {number : Nat}
    (hcase : (1 ≤ l.profile ∧ l.profile ≤ 16 ∧ (p.slot l.profile).state = .ready ∧ source = .internal
          ∧ bytes = (p.slot l.profile).bytes ∧ number = l.profile)
        ∨ ((1 ≤ l.profile ∧ l.profile ≤ 16 ∧ (p.slot l.profile).state ≠ .ready
            ∨ 17 ≤ l.profile ∧ l.profile ≤ 63 ∧ p.straps.store = false)
          ∧ (p.tree t).settings.fallback = .useDefault ∧ source = .default
          ∧ bytes = (List.range 256).map Config.romByte ∧ number = 0)) :
    p.takeTest k t =
      (p.modTree t fun T =>
        { T.offered (.prepare h bytes.length number) with
          pushQueue := T.pushQueue.filter (· != h)
          engine := Engine.filled h l.profile source bytes }).modRecord t h (·.preparedFrom source) := by
  obtain ⟨-, hh⟩ := Part.record?_name hr
  have hstart : ((p.taken t r.handle l.profile).resolve k t r l) =
      ((p.taken t r.handle l.profile).startPreparing k t h source bytes.length, false) := by
    obtain ⟨-, h16, hready, rfl, rfl, -⟩ | ⟨hcase, hfallback, rfl, rfl, -⟩ := hcase
    · rw [Part.resolve_of_ready k r h16 (by exact hready), hh]
      rfl
    · have hsettings : (((p.taken t r.handle l.profile).tree t).settings) = (p.tree t).settings := by
        rw [Part.taken, Part.tree_modTree_self]
      rw [Part.resolve_of_unavailable k r (by exact hcase), Part.unavailable, hsettings, hfallback, hh, List.length_map,
        List.length_range]
      rfl
  rw [Part.takeTest_of_next k hidle hlit hnext hl hstart, if_neg Bool.false_ne_true, hh]
  obtain ⟨-, -, -, rfl, rfl, rfl⟩ | ⟨-, -, rfl, rfl, rfl⟩ := hcase
  · exact Part.taken_startPreparing k rfl (Or.inl ⟨rfl, rfl⟩)
  · exact Part.taken_startPreparing k rfl (Or.inr ⟨rfl, rfl⟩)

/-- A record whose profile is unavailable without a default: HELD, and the next is taken (R147). -/
theorem Part.takeTest_holds
    (hcase : 1 ≤ l.profile ∧ l.profile ≤ 16 ∧ (p.slot l.profile).state ≠ .ready
      ∨ 17 ≤ l.profile ∧ l.profile ≤ 63 ∧ p.straps.store = false) (hfallback : (p.tree t).settings.fallback = .hold) :
    p.takeTest k t =
      ({ ((p.modEngine t fun _ => .idle).heldBack t h).modRecord t h (·.heldFor .noProfile) with
          raised := p.raised ++ [.terminal t h r.tag r.state .held .noProfile] } : Part).takeTest k t := by
  obtain ⟨-, hh⟩ := Part.record?_name hr
  have hsettings : (((p.taken t r.handle l.profile).tree t).settings) = (p.tree t).settings := by
    rw [Part.taken, Part.tree_modTree_self]
  have hresolve : (p.taken t r.handle l.profile).resolve k t r l =
      (((p.taken t h l.profile).modEngine t fun _ => .idle).holdRecord t h .noProfile, true) := by
    rw [Part.resolve_of_unavailable k r (by exact hcase), Part.unavailable, hsettings, hfallback, hh]
  rw [Part.takeTest_of_next k hidle hlit hnext hl hresolve, if_pos rfl]
  refine congrArg (Part.takeTest · k t) ?_
  rw [Part.holdRecord_eq (r := r) (by exact hr), Part.modEngine, Part.taken, Part.modTree_modTree, Part.modExpectations,
    Part.modTree_modTree, Part.heldBack, Part.modEngine, Part.modTree_modTree]
  rfl

/-- A record with an external profile: its directory entry is read (R147). -/
theorem Part.takeTest_reads (h1 : 17 ≤ l.profile) (h2 : l.profile ≤ 63) (hstore : p.straps.store = true) :
    p.takeTest k t =
      (p.modTree t fun T =>
        { T with
          pushQueue := T.pushQueue.filter (· != h)
          engine := { Engine.idle with state := .resolving, serving := some h, profile := l.profile }
          fetchWait := some ⟨.fetcher t, .directory, 15360 + 4 * (l.profile - 17), 4, false⟩ }).serveBus := by
  obtain ⟨-, hh⟩ := Part.record?_name hr
  rw [Part.takeTest_of_next k hidle hlit hnext hl (Part.resolve_of_external k r h1 h2 (by exact hstore)),
    if_neg Bool.false_ne_true, Part.requestFetch, Part.taken, Part.modTree_modTree, hh]

/-- A record whose image the host streams: the host is asked for it (R148). -/
theorem Part.takeTest_streams (hprofile : l.profile = 64) :
    p.takeTest k t =
      { p.modTree t fun T =>
          { T with
            pushQueue := T.pushQueue.filter (· != h)
            engine :=
              { Engine.idle with
                state := .resolving
                serving := some h
                profile := 64
                beginTimer := some ⟨k.tenth, T.settings.stallLimit⟩ } } with
        raised := p.raised ++ [.pushStart t h r.tag (l.used + 1)] } := by
  obtain ⟨-, hh⟩ := Part.record?_name hr
  rw [Part.takeTest_of_next k hidle hlit hnext hl (Part.resolve_of_stream k r hprofile), if_neg Bool.false_ne_true,
    Part.taken, Part.tree_modTree_self, hprofile, hh]
  cases t <;> rfl

end

end

end Sys2Proof.Machine
end

section
/-!
PROOFS. How an engine takes the outcome of its ask for status (the second half of the statement O32).
-/

namespace Sys2Proof.Machine

/-! ### Asks (R111, R155) -/

/-- An engine that awaits nothing, asks nothing and whose record has no LOAD-STATUS entry raises its ask at once (R111). -/
theorem Part.raiseAsk_of_free {p : Part} {t : TreeId} {h : Nat} (k : Clock) (hserving : (p.engine t).serving = some h)
    (hawaiting : (p.engine t).awaiting = false) (hask : (p.engine t).ask = none)
    (hentries : ∀ y ∈ (p.tree t).expectations, y.handle = h → y.purpose ≠ .loadStatus) :
    p.raiseAsk k t = p.modEngine t fun e => { e with ask := some k.nextStart, askDeferred := false } := by
  have hnone : ((p.tree t).expectations.any fun x => x.handle == h && x.purpose == .loadStatus) = false := by
    rw [List.any_eq_false]
    intro y hy hboth
    rw [Bool.and_eq_true, beq_iff_eq, beq_iff_eq] at hboth
    exact hentries y hy hboth.1 hboth.2
  simp only [Part.raiseAsk, hserving, hawaiting, hask, hnone, Option.isSome_none, Bool.or_self, Bool.false_eq_true, if_false]

/-! ### Which outcomes an engine judges (R151) -/

section
variable {p : Part} {k : Clock} {t : TreeId} {x : Expectation} (hpurpose : x.purpose = .loadStatus)
include hpurpose

theorem Part.ownerOutcome_of_loadStatus (o : MatchOutcome) :
    p.ownerOutcome k t x o = p.pushOutcome k t x.handle (statusOutcome x o) := by
  simp only [Part.ownerOutcome, hpurpose]

theorem Part.ownerOutcome_of_unawaited (h : (p.engine t).serving ≠ some x.handle ∨ (p.engine t).awaiting = false)
    (o : MatchOutcome) : p.ownerOutcome k t x o = p := by
  rw [Part.ownerOutcome_of_loadStatus hpurpose]
  refine if_pos ?_
  rw [Bool.or_eq_true, bne_iff_ne, Bool.not_eq_true']
  exact h

end

/-- The part as its engine takes an outcome that it awaits (R151). -/
def Part.answeredBy (p : Part) (t : TreeId) : Part := p.modEngine t fun e => { e with awaiting := false }

theorem Part.answeredBy_engine (p : Part) (t : TreeId) :
    (p.answeredBy t).engine t = { p.engine t with awaiting := false } := Part.engine_modEngine_self _ _ _

theorem Part.answeredBy_eq (p : Part) (t : TreeId) :
    p.answeredBy t = p.modEngine t fun _ => { p.engine t with awaiting := false } :=
  Part.modEngine_congr p t rfl

theorem Part.answeredBy_hasOrder (p : Part) (t : TreeId) (f : Order → Bool) :
    (p.answeredBy t).hasOrder t f = p.hasOrder t f := by
  cases t <;> rfl

section
variable {p : Part} {k : Clock} {t : TreeId} {h : Nat} (hserving : (p.engine t).serving = some h)
  (hawaiting : (p.engine t).awaiting = true) (o : StatusOutcome)
include hserving hawaiting

theorem Part.pushOutcome_of_awaited :
    p.pushOutcome k t h o =
      match (p.engine t).state with
      | .preparing => (p.answeredBy t).preparingOutcome k t o
      | .streaming => (p.answeredBy t).streamingOutcome k t o
      | .committing => (p.answeredBy t).committingOutcome k t h o
      | .idle | .resolving | .settling => p.answeredBy t := by
  simp only [Part.pushOutcome, hserving, hawaiting, bne_self_eq_false, Bool.not_true, Bool.or_self, Bool.false_eq_true,
    if_false]
  rfl

theorem Part.pushOutcome_of_preparing (hstate : (p.engine t).state = .preparing) :
    p.pushOutcome k t h o = (p.answeredBy t).preparingOutcome k t o := by
  rw [Part.pushOutcome_of_awaited hserving hawaiting, hstate]

theorem Part.pushOutcome_of_streaming (hstate : (p.engine t).state = .streaming) :
    p.pushOutcome k t h o = (p.answeredBy t).streamingOutcome k t o := by
  rw [Part.pushOutcome_of_awaited hserving hawaiting, hstate]

theorem Part.pushOutcome_of_committing (hstate : (p.engine t).state = .committing) :
    p.pushOutcome k t h o = (p.answeredBy t).committingOutcome k t h o := by
  rw [Part.pushOutcome_of_awaited hserving hawaiting, hstate]

end

/-! ### No answer, or one that asks again (R152, R155, R158) -/

section
variable {p : Part} (k : Clock) {t : TreeId} {h : Nat} (hserving : (p.engine t).serving = some h)
  (hawaiting : (p.engine t).awaiting = true) (hask : (p.engine t).ask = none)
  (hentries : ∀ y ∈ (p.tree t).expectations, y.handle = h → y.purpose ≠ .loadStatus)
include hserving hask hentries

theorem Part.answeredBy_raiseAsk :
    (p.answeredBy t).raiseAsk k t =
      p.modEngine t fun e => { e with awaiting := false, ask := some k.nextStart, askDeferred := false } := by
  have hengine := p.answeredBy_engine t
  have htree : ((p.answeredBy t).tree t).expectations = (p.tree t).expectations := by
    rw [Part.answeredBy, Part.modEngine, Part.tree_modTree_self]
  rw [Part.raiseAsk_of_free (h := h) k (by rw [hengine]; exact hserving) (by rw [hengine]) (by rw [hengine]; exact hask)
    (by rw [htree]; exact hentries), Part.answeredBy, Part.modEngine, Part.modEngine, Part.modTree_modTree]
  rfl

theorem Part.answeredBy_streamingBad (hstate : (p.engine t).state = .streaming) :
    (p.answeredBy t).streamingOutcome k t .bad =
      p.modEngine t fun e =>
        { e with awaiting := false, lastBad := true, ask := some k.nextStart, askDeferred := false } := by
  obtain ⟨q, hq⟩ : ∃ q, q = (p.answeredBy t).modEngine t fun e => { e with lastBad := true } := ⟨_, rfl⟩
  have hengine : q.engine t = { p.engine t with awaiting := false, lastBad := true } := by
    rw [hq, Part.engine_modEngine_self, Part.answeredBy_engine]
  have htree : (q.tree t).expectations = (p.tree t).expectations := by
    rw [hq, Part.answeredBy, Part.modEngine, Part.modEngine, Part.modTree_modTree, Part.tree_modTree_self]
  have hcalls : (q.engine t).callsForAsk = true := by
    rw [hengine]
    simp [Engine.callsForAsk, hstate]
  have houtcome : (p.answeredBy t).streamingOutcome k t .bad = q.raiseAsk k t := by
    rw [Part.streamingOutcome, ← hq, Part.streamAsk, if_pos hcalls]
  rw [houtcome, Part.raiseAsk_of_free (h := h) k (by rw [hengine]; exact hserving) (by rw [hengine])
    (by rw [hengine]; exact hask) (by rw [htree]; exact hentries), hq, Part.answeredBy, Part.modEngine, Part.modEngine,
    Part.modEngine, Part.modTree_modTree, Part.modTree_modTree]
  rfl

end

/-! ### READY in PREPARING (R152, R153) -/

theorem Part.enterSettling_eq (p : Part) (k : Clock) (t : TreeId) {h : Nat} (hserving : (p.engine t).serving = some h) :
    p.enterSettling k t =
      (let q := (p.modEngine t fun e =>
          { e with state := .settling, prepareTimer := none, settleLeft := (p.tree t).settings.settleCycles }).modRecord t h
          (Record.withSub .settling)
       if (p.tree t).settings.settleCycles == 0 then q.enterStreaming k t else q) := by
  rw [Part.enterSettling, hserving]
  rfl

/-- A push whose terminal is READY enters SETTLING (R153). -/
theorem Part.preparingReady_settles {p : Part} (k : Clock) {t : TreeId} {h : Nat} (hserving : (p.engine t).serving = some h)
    {mark : Nat} (hcycles : (p.tree t).settings.settleCycles ≠ 0) :
    (p.answeredBy t).preparingOutcome k t (.answered .ready mark) =
      (p.modEngine t fun _ =>
        { p.engine t with
          awaiting := false
          state := .settling
          prepareTimer := none
          settleLeft := (p.tree t).settings.settleCycles }).modRecord t h (Record.withSub .settling) := by
  have hsettings : ((p.answeredBy t).tree t).settings = (p.tree t).settings := by
    rw [Part.answeredBy, Part.modEngine, Part.tree_modTree_self]
  rw [Part.preparingOutcome, Part.enterSettling_eq _ k t (h := h) (by rw [Part.answeredBy_engine]; exact hserving), hsettings]
  refine (if_neg (by rwa [beq_iff_eq])).trans ?_
  refine congrArg (fun q : Part => q.modRecord t h (Record.withSub .settling)) ?_
  rw [Part.answeredBy, Part.modEngine, Part.modEngine, Part.modTree_modTree]
  exact Part.modTree_congr p t rfl

/-- With no settling cycles a push whose terminal is READY is STREAMING at once (R153, R157). -/
theorem Part.preparingReady_streams {p : Part} (k : Clock) {t : TreeId} {h : Nat} (hserving : (p.engine t).serving = some h)
    {mark : Nat} (hcycles : (p.tree t).settings.settleCycles = 0) {after : Engine}
    (hafter : after =
      { p.engine t with
        awaiting := false
        state := .streaming
        prepareTimer := none
        cellCount := 0
        lastBad := false
        settleLeft := 0 })
    (hpaused : after.paused = false) :
    (p.answeredBy t).preparingOutcome k t (.answered .ready mark) =
      (((p.modEngine t fun _ => { after with stallTimer := none }).modRecord t h (Record.withSub .settling)).modRecord t h
        (Record.withSub .streaming)) := by
  have hsettings : ((p.answeredBy t).tree t).settings = (p.tree t).settings := by
    rw [Part.answeredBy, Part.modEngine, Part.tree_modTree_self]
  obtain ⟨q, hq⟩ : ∃ q, q = ((p.answeredBy t).modEngine t fun e =>
      { e with state := .settling, prepareTimer := none, settleLeft := 0 }).modRecord t h (Record.withSub .settling) := ⟨_, rfl⟩
  have hqengine : q.engine t =
      { p.engine t with awaiting := false, state := .settling, prepareTimer := none, settleLeft := 0 } := by
    rw [hq]
    exact (Part.engine_modEngine_self (p.answeredBy t) t fun e =>
      { e with state := .settling, prepareTimer := none, settleLeft := 0 }).trans (by rw [Part.answeredBy_engine])
  have houtcome : (p.answeredBy t).preparingOutcome k t (.answered .ready mark) = q.enterStreaming k t := by
    rw [Part.preparingOutcome, Part.enterSettling_eq _ k t (h := h) (by rw [Part.answeredBy_engine]; exact hserving),
      hsettings, hcycles, hq]
    rfl
  have hrun : ((q.modEngine t Engine.startStreaming).modRecord t h (Record.withSub .streaming)).engine t = after := by
    rw [hafter]
    exact (Part.engine_modEngine_self q t Engine.startStreaming).trans (by rw [hqengine]; rfl)
  rw [houtcome, Part.enterStreaming_eq, hqengine, hserving, Option.getD_some,
    Part.pauseUpdate_of_running (by rw [hrun, hafter]) (by rw [hrun]; exact hpaused), hq]
  simp only [Part.modEngine_modRecord]
  refine congrArg (fun q : Part => (q.modRecord t h (Record.withSub .settling)).modRecord t h (Record.withSub .streaming)) ?_
  simp only [Part.answeredBy, Part.modEngine, Part.modTree_modTree]
  refine Part.modTree_congr p t ?_
  rw [hafter]
  rfl

/-! ### Bytes acknowledged (R156) -/

section
variable {p : Part} (k : Clock) {t : TreeId} {n mark : Nat}

theorem Part.acknowledge_of_bad (h : n < (p.engine t).ackPoint ∨ mark < n ∨ (n % 40 ≠ 0 ∧ n ≠ (p.engine t).imageLength)) :
    p.acknowledge k t n mark = p.failAttempt k t .protocol 0 false := by
  refine if_pos ?_
  rw [Bool.or_eq_true, Bool.or_eq_true, Bool.and_eq_true, decide_eq_true_eq, decide_eq_true_eq, bne_iff_ne, bne_iff_ne,
    or_assoc]
  exact h

variable (h1 : (p.engine t).ackPoint ≤ n) (h2 : n ≤ mark) (h3 : n % 40 = 0 ∨ n = (p.engine t).imageLength)
include h1 h2 h3

theorem Part.acknowledge_of_good :
    p.acknowledge k t n mark =
      (let q := p.modEngine t fun e =>
          { e with
            fifo := e.fifo.drop (n - e.ackPoint)
            ackPoint := n
            sendPointer := if n < mark then n else e.sendPointer }
       if n == (p.engine t).imageLength then q.enterCommitting t else (q.refill k t).streamAsk k t) := by
  refine if_neg ?_
  rw [Bool.or_eq_true, Bool.or_eq_true, Bool.and_eq_true, decide_eq_true_eq, decide_eq_true_eq, bne_iff_ne, bne_iff_ne]
  have hcell : Config.cellBytes = 40 := rfl
  rw [hcell]
  omega

end

/-- Every byte acknowledged: the COMMIT is offered (R156). -/
theorem Part.enterCommitting_eq (p : Part) (t : TreeId) {h : Nat} (hserving : (p.engine t).serving = some h) :
    p.enterCommitting t =
      ((p.modEngine t fun e => { e with state := .committing, stallTimer := none }).offer t
        (.commit h (~~~(p.engine t).crc))).modRecord t h (Record.withSub .committing) := by
  rw [Part.enterCommitting, hserving, Option.getD_some, Part.offer_of_not_lagByTag _ t fun _ _ _ => Order.noConfusion,
    Part.offer_of_not_lagByTag _ t fun _ _ _ => Order.noConfusion]
  rfl

/-! ### DONE in COMMITTING (R158) -/

theorem PollSchedule.enterService_eq (v : PollSchedule) (slot : TableSlot) (c : CycleNo) :
    v.enterService slot c = if slot.kind = 0 then v else { v with due := some c } :=
  ite_of_iff beq_iff_eq

theorem Part.enterInService_eq {p : Part} {t : TreeId} {h : Nat} {r : Record} (k : Clock) (hr : p.record? t h = some r)
    (cause : Cause) :
    p.enterInService k t h cause =
      { p.modRecord t h fun q =>
          { q with
            state := .inService
            cause := cause
            load := none
            check := .none
            polls :=
              ⟨if p.reportTable.a.kind = 0 then q.polls.a else { q.polls.a with due := some k.cycle },
               if p.reportTable.b.kind = 0 then q.polls.b else { q.polls.b with due := some k.cycle },
               if p.reportTable.c.kind = 0 then q.polls.c else { q.polls.c with due := some k.cycle }⟩ } with
        raised := p.raised ++ [.terminal t h r.tag r.state .inService cause] } := by
  obtain ⟨ht, hh⟩ := Part.record?_name hr
  simp only [Part.enterInService, hr, Part.raiseTerminal, ht, hh, PollSchedule.enterService_eq]
  rfl

/-! ### The outcomes judged, state by state -/

section
variable {p : Part} (k : Clock) {t : TreeId} {x : Expectation} {e : Engine} {mark : Nat} (he : e = p.engine t)
  (hpurpose : x.purpose = .loadStatus) (hmark : x.sentMark = some mark) (hserving : e.serving = some x.handle)
  (hawaiting : e.awaiting = true)
include he hpurpose hmark hserving hawaiting

/-- An answer that fails the attempt (R151, R152, R156, R158). -/
theorem Part.ownerOutcome_of_failing {err : Int} {flag : Bool} {st : LoadStatus} {reason : FailReason} {code : Nat}
    (h : (∃ c, st = .fail c ∧ reason = .terminal ∧ code = c
          ∧ (e.state = .preparing ∨ e.state = .streaming ∨ e.state = .committing))
        ∨ (st = .done ∧ reason = .protocol ∧ code = 0 ∧ (e.state = .preparing ∨ e.state = .streaming))
        ∨ ((∃ n, st = .receiving n) ∧ reason = .protocol ∧ code = 0 ∧ e.state = .preparing)
        ∨ (st = .notReady ∧ reason = .lost ∧ code = 0 ∧ (e.state = .streaming ∨ e.state = .committing))
        ∨ (st = .ready ∧ reason = .protocol ∧ code = 0 ∧ e.state = .committing)
        ∨ (∃ n, st = .receiving n ∧ n ≠ e.imageLength ∧ reason = .protocol ∧ code = 0 ∧ e.state = .committing)) :
    p.ownerOutcome k t x (.answered err flag (.loadStatus st)) = (p.answeredBy t).failAttempt k t reason code false := by
  subst he
  have hprep := Part.pushOutcome_of_preparing (k := k) hserving hawaiting (.answered st mark)
  have hstream := Part.pushOutcome_of_streaming (k := k) hserving hawaiting (.answered st mark)
  have hcommit := Part.pushOutcome_of_committing (k := k) hserving hawaiting (.answered st mark)
  rw [Part.ownerOutcome_of_loadStatus hpurpose, statusOutcome, hmark, Option.getD_some]
  obtain ⟨c, rfl, rfl, rfl, hs | hs | hs⟩ | ⟨rfl, rfl, rfl, hs | hs⟩ | ⟨⟨n, rfl⟩, rfl, rfl, hs⟩ | ⟨rfl, rfl, rfl, hs | hs⟩ |
    ⟨rfl, rfl, rfl, hs⟩ | ⟨n, rfl, hn, rfl, rfl, hs⟩ := h
  · exact (hprep hs).trans rfl
  · exact (hstream hs).trans rfl
  · exact (hcommit hs).trans rfl
  · exact (hprep hs).trans rfl
  · exact (hstream hs).trans rfl
  · exact (hprep hs).trans rfl
  · exact (hstream hs).trans rfl
  · exact (hcommit hs).trans rfl
  · exact (hcommit hs).trans rfl
  · refine (hcommit hs).trans (if_neg ?_)
    rw [Part.answeredBy_engine, beq_iff_eq]
    exact hn

/-- READY or RECEIVING in STREAMING goes to the acknowledgement of bytes (R155, R156). -/
theorem Part.ownerOutcome_of_streaming {err : Int} {flag : Bool} {st : LoadStatus} {n : Nat}
    (hst : st = .receiving n ∨ st = .ready ∧ n = 0) (hstate : e.state = .streaming) :
    p.ownerOutcome k t x (.answered err flag (.loadStatus st)) =
      (p.modEngine t fun _ => { e with awaiting := false, lastBad := false }).acknowledge k t n mark := by
  subst he
  have hbad : (p.answeredBy t).modEngine t (fun e => { e with lastBad := false }) =
      p.modEngine t fun _ => { p.engine t with awaiting := false, lastBad := false } := by
    rw [Part.answeredBy, Part.modEngine, Part.modEngine, Part.modTree_modTree]
    exact Part.modTree_congr p t rfl
  rw [Part.ownerOutcome_of_loadStatus hpurpose, statusOutcome, hmark, Option.getD_some,
    Part.pushOutcome_of_streaming hserving hawaiting _ hstate, ← hbad]
  obtain rfl | ⟨rfl, rfl⟩ := hst <;> rfl

end

/-- Settles O32: the record taken and its source, then the outcomes by the engine's state. -/
theorem engineTakes : Obligations.EngineTakes := by
  unfold Obligations.EngineTakes
  refine ⟨fun p k t => ⟨fun h => ?_, fun before after h r l hidle hlit hqueue hbefore hr hhealthy hl => ?_⟩,
    fun p k t x e mark he hpurpose hmark => ⟨fun hnot o => ?_, fun hserving hawaiting => ?_⟩⟩
  · exact Part.takeTest_of_none k (h.imp_right (Or.imp_right Part.nextToTake_of_impaired))
  · have hnext := Part.nextToTake_of_first hqueue hbefore hr hhealthy
    refine ⟨fun source bytes number hcase => ?_, fun hcase hfallback => ?_, fun h1 h2 hstore => ?_, fun hprofile => ?_⟩
    · rw [Part.takeTest_prepares k hidle hlit hnext hr hl hcase]
      refine ⟨?_, ?_, ?_, rfl, fun henabled haccepts => ?_⟩
      · rw [Part.engine, Part.modRecord_tree, Part.tree_modTree_self]
        rfl
      · refine (Part.record?_modRecord_some (r := r) (f := (·.preparedFrom source)) (by exact hr) fun _ => ⟨rfl, rfl⟩).trans ?_
        rw [Record.preparedFrom, hl]
        rfl
      · rw [Part.modRecord_tree, Part.tree_modTree_self]
      · rw [Part.modRecord_tree, Part.tree_modTree_self]
        simp [Tree.offered, henabled, haccepts]
    · exact Part.takeTest_holds k hidle hlit hnext hr hl hcase hfallback
    · exact Part.takeTest_reads k hidle hlit hnext hr hl h1 h2 hstore
    · exact Part.takeTest_streams k hidle hlit hnext hr hl hprofile
  · rw [he] at hnot
    exact Part.ownerOutcome_of_unawaited hpurpose hnot o
  have hanswered : (p.modEngine t fun _ => { e with awaiting := false }) = p.answeredBy t := by
    rw [Part.answeredBy_eq, he]
  refine ⟨fun o hask hentries hcase => ?_, fun err flag hstate hcycles r l hr hl => ?_,
    fun err flag hstate hcycles r l hr hl after hafter hpaused => ?_, fun err flag st reason code hcase => ?_,
    fun err flag st n after hst hstate hafter => ⟨fun hbad => ?_, fun h1 h2 h3 => ⟨fun hmore => ?_, fun hlast r l hr hl => ?_⟩⟩,
    fun err flag hstate => ?_, fun err flag r hstate hr => ?_⟩
  · have hbad : ∀ o', (o' = .bad ∧ (e.state = .preparing ∨ e.state = .streaming ∨ e.state = .committing)
          ∨ o' = .answered .notReady mark ∧ e.state = .preparing) →
        p.pushOutcome k t x.handle o' =
          p.modEngine t fun _ =>
            { e with
              awaiting := false
              lastBad := e.lastBad || e.state == .streaming
              ask := some k.nextStart
              askDeferred := false } := by
      subst he
      rintro o' (⟨rfl, hs | hs | hs⟩ | ⟨rfl, hs⟩)
      · rw [Part.pushOutcome_of_preparing hserving hawaiting _ hs]
        refine (Part.answeredBy_raiseAsk k hserving hask hentries).trans (Part.modEngine_congr p t ?_)
        simp [hs]
      · rw [Part.pushOutcome_of_streaming hserving hawaiting _ hs]
        refine (Part.answeredBy_streamingBad k hserving hask hentries hs).trans (Part.modEngine_congr p t ?_)
        simp [hs]
      · rw [Part.pushOutcome_of_committing hserving hawaiting _ hs]
        refine (Part.answeredBy_raiseAsk k hserving hask hentries).trans (Part.modEngine_congr p t ?_)
        simp [hs]
      · rw [Part.pushOutcome_of_preparing hserving hawaiting _ hs]
        refine (Part.answeredBy_raiseAsk k hserving hask hentries).trans (Part.modEngine_congr p t ?_)
        simp [hs]
    rw [Part.ownerOutcome_of_loadStatus hpurpose]
    refine hbad _ ?_
    obtain ⟨rfl | rfl | ⟨flag, rfl⟩, hs⟩ | ⟨⟨err, flag, rfl⟩, hs⟩ := hcase
    · exact Or.inl ⟨rfl, hs⟩
    · exact Or.inl ⟨rfl, hs⟩
    · exact Or.inl ⟨rfl, hs⟩
    · exact Or.inr ⟨by rw [statusOutcome, hmark, Option.getD_some], hs⟩
  · subst he
    rw [Part.ownerOutcome_of_loadStatus hpurpose, statusOutcome, Part.pushOutcome_of_preparing hserving hawaiting _ hstate,
      Part.preparingReady_settles k hserving hcycles]
    refine ⟨Part.modRecord_onlyRecord _ _ _ (Record.withSub_name _), ?_⟩
    rw [Part.record?_modRecord_some (r := r) (by exact hr) (Record.withSub_name _), Record.withSub, hl]
    rfl
  · rw [he] at hafter hstate hserving hawaiting
    rw [Part.ownerOutcome_of_loadStatus hpurpose, statusOutcome, Part.pushOutcome_of_preparing hserving hawaiting _ hstate,
      Part.preparingReady_streams k hserving hcycles hafter hpaused]
    refine ⟨(Part.modRecord_onlyRecord _ _ _ (Record.withSub_name _)).trans
      (Part.modRecord_onlyRecord _ _ _ (Record.withSub_name _)), ?_⟩
    have hfirst := Part.record?_modRecord_some (p := p.modEngine t fun _ => { after with stallTimer := none }) (r := r)
      (by exact hr) (Record.withSub_name .settling)
    rw [Part.record?_modRecord_some hfirst (Record.withSub_name _), Record.withSub, Record.withSub, hl]
    rfl
  · rw [hanswered]
    exact Part.ownerOutcome_of_failing k he hpurpose hmark hserving hawaiting hcase
  · rw [Part.ownerOutcome_of_streaming k he hpurpose hmark hserving hawaiting hst hstate]
    refine Part.acknowledge_of_bad k ?_
    rw [Part.engine_modEngine_self]
    exact hbad
  · have hgood := Part.ownerOutcome_of_streaming k he hpurpose hmark hserving hawaiting (err := err) (flag := flag) hst hstate
    rw [hgood, Part.acknowledge_of_good k (by rw [Part.engine_modEngine_self]; exact h1) h2
      (by rw [Part.engine_modEngine_self]; exact h3)]
    refine (if_neg (by rw [Part.engine_modEngine_self, beq_iff_eq]; exact hmore)).trans ?_
    refine congrArg (fun q : Part => (q.refill k t).streamAsk k t) ?_
    rw [Part.modEngine, Part.modEngine, Part.modTree_modTree, hafter]
    rfl
  · have hgood := Part.ownerOutcome_of_streaming k he hpurpose hmark hserving hawaiting (err := err) (flag := flag) hst hstate
    obtain ⟨q, hq⟩ : ∃ q, q = p.modEngine t fun _ => after := ⟨_, rfl⟩
    have hqengine : q.engine t = after := by rw [hq, Part.engine_modEngine_self]
    have houtcome : p.ownerOutcome k t x (.answered err flag (.loadStatus st)) = q.enterCommitting t := by
      rw [hgood, Part.acknowledge_of_good k (by rw [Part.engine_modEngine_self]; exact h1) h2
        (by rw [Part.engine_modEngine_self]; exact h3)]
      refine (if_pos (by rw [Part.engine_modEngine_self, beq_iff_eq]; exact hlast)).trans ?_
      refine congrArg (fun q : Part => q.enterCommitting t) ?_
      rw [Part.modEngine, Part.modEngine, Part.modTree_modTree, hq, hafter]
      rfl
    have hcrc : after.crc = e.crc := by rw [hafter]
    have hcommits : (q.modEngine t fun e => { e with state := .committing, stallTimer := none }) =
        p.modEngine t fun _ => { after with state := .committing, stallTimer := none } := by
      rw [hq, Part.modEngine, Part.modEngine, Part.modTree_modTree]
      rfl
    have henter := Part.enterCommitting_eq q t (h := x.handle) (by rw [hqengine, hafter]; exact hserving)
    rw [hqengine, hcrc, hcommits] at henter
    rw [houtcome, henter]
    refine ⟨Part.modRecord_onlyRecord _ _ _ (Record.withSub_name _), ?_⟩
    have hoffered : ((p.modEngine t fun _ => { after with state := .committing, stallTimer := none }).offer t
        (.commit x.handle (~~~e.crc))).record? t x.handle = some r := by
      rw [Part.offer_of_not_lagByTag _ t fun _ _ _ => Order.noConfusion]
      exact hr
    rw [Part.record?_modRecord_some hoffered (Record.withSub_name _), Record.withSub, hl]
    rfl
  · rw [hanswered]
    subst he
    rw [Part.ownerOutcome_of_loadStatus hpurpose, statusOutcome, Part.pushOutcome_of_committing hserving hawaiting _ hstate]
    refine (if_pos (by rw [Part.answeredBy_engine, beq_self_eq_true])).trans ?_
    rw [Part.answeredBy_engine, Part.answeredBy_hasOrder]
    rfl
  · have hidle : (p.answeredBy t).modEngine t (fun _ => .idle) = p.modEngine t fun _ => .idle := by
      rw [Part.answeredBy, Part.modEngine, Part.modEngine, Part.modTree_modTree]
      rfl
    subst he
    rw [Part.ownerOutcome_of_loadStatus hpurpose, statusOutcome, Part.pushOutcome_of_committing hserving hawaiting _ hstate,
      Part.committingOutcome, Part.pushDone, hidle, Part.enterInService_eq (r := r) k (by exact hr)]
    rfl

end Sys2Proof.Machine
end

section
/-!
PROOFS. What the upkeep unit makes of a record (the statement O13). The cases are carried by `Part.Changes`: a part that differs
from another in one record alone, and what that record has become.
-/

namespace Sys2Proof.Machine

/-! ### A part changed in one record -/

/-- The part `v` is `p` but for the record of a name, which is `r` there. -/
def Part.Changes (p v : Part) (t : TreeId) (h : Nat) (r : Record) : Prop := p.onlyRecord v t h ∧ v.record? t h = some r

section
variable {p v : Part} {t : TreeId} {h : Nat} {r : Record}

theorem Part.Changes.refl (hr : p.record? t h = some r) : p.Changes p t h r := ⟨Part.onlyRecord_refl p t h, hr⟩

variable (hc : p.Changes v t h r)
include hc

theorem Part.Changes.modRecord {f : Record → Record} (hf : ∀ r, (f r).tree = r.tree ∧ (f r).handle = r.handle) :
    p.Changes (v.modRecord t h f) t h (f r) :=
  ⟨hc.1.trans (Part.modRecord_onlyRecord v t h hf), Part.record?_modRecord_some hc.2 hf⟩

theorem Part.Changes.tree (u : TreeId) : v.tree u = p.tree u := by rw [hc.1.1]; rfl
theorem Part.Changes.engine (u : TreeId) : v.engine u = p.engine u := by rw [hc.1.1]; rfl
theorem Part.Changes.raised : v.raised = p.raised := by rw [hc.1.1]
theorem Part.Changes.admission : v.admission = p.admission := by rw [hc.1.1]
theorem Part.Changes.reportTable : v.reportTable = p.reportTable := by rw [hc.1.1]
theorem Part.Changes.entry? (g : Tag) : v.entry? g = p.entry? g := by rw [Part.entry?, hc.admission]; rfl

theorem Part.Changes.hasOrder (u : TreeId) (f : Order → Bool) : v.hasOrder u f = p.hasOrder u f := by
  rw [Part.hasOrder, hc.tree]
  rfl

/-- The same change of one tree on both sides. -/
theorem Part.Changes.modTree (u : TreeId) (g : Tree → Tree) : (p.modTree u g).Changes (v.modTree u g) t h r := by
  obtain ⟨⟨hv, hothers⟩, hr⟩ := hc
  refine ⟨⟨?_, hothers⟩, hr⟩
  rw [hv]
  rfl

/-- The same order offered on both sides. -/
theorem Part.Changes.offer (u : TreeId) {o : Order} (ho : ∀ g n l, o ≠ .lagByTag g n l) :
    (p.offer u o).Changes (v.offer u o) t h r := by
  rw [Part.offer_of_not_lagByTag p u ho, Part.offer_of_not_lagByTag v u ho]
  exact hc.modTree u _

theorem Part.Changes.relistened (u : TreeId) (n : Nat) : (p.relistened u n).Changes (v.relistened u n) t h r :=
  (hc.offer u (o := .relisten n) fun _ _ _ => Order.noConfusion).modTree u _

/-- An entry to REFIND of a record changed before (R93). -/
theorem Part.Changes.enterRefind (k : Clock) (hserving : (p.engine t).serving ≠ some h) (cause : Cause) :
    ∃ w, v.enterRefind k t h cause =
        { w with raised := p.raised ++ [.terminal t h r.tag r.state .refind cause] }
      ∧ (p.relistened t h).Changes w t h
        (r.refound cause (k.tenth + BitVec.ofNat 32 (10 * (p.tree t).settings.refindTime))) := by
  refine ⟨_, (Part.enterRefind_of_not_served k hc.2 (by rw [hc.engine]; exact hserving) cause).trans ?_,
    (hc.relistened t h).modRecord (f := fun r =>
      r.refound cause (k.tenth + BitVec.ofNat 32 (10 * (p.tree t).settings.refindTime))) fun _ => ⟨rfl, rfl⟩⟩
  rw [hc.raised, hc.tree]

end

/-- An order other than a LAG by tag leaves the engine as it is. -/
theorem Part.offer_engine (p : Part) (t : TreeId) {o : Order} (ho : ∀ g n l, o ≠ .lagByTag g n l) :
    (p.offer t o).engine t = p.engine t ∧ ((p.offer t o).tree t).settings = (p.tree t).settings
      ∧ (p.offer t o).raised = p.raised := by
  rw [Part.offer_of_not_lagByTag p t ho, Part.engine, Part.tree_modTree_self, Tree.offered]
  (repeat' split) <;> exact ⟨rfl, rfl, rfl⟩

/-! ### Corrections and the ladder (R110, R130, R132) -/

theorem correctionOf_bounds (e : Int) :
    correctionOf e % 4 = 0 ∧ (e - correctionOf e).natAbs ≤ 2
      ∧ ((e - correctionOf e).natAbs = 2 → (correctionOf e).natAbs < e.natAbs) := by
  rw [correctionOf]
  split <;> omega

theorem correctedLag_bounds {lag depth : Nat} (c : Int) (hc : c % 4 = 0) (hlag : lag % 4 = 0) (hdepth : depth % 4 = 0) :
    correctedLag lag c depth % 4 = 0 ∧ correctedLag lag c depth ≤ depth
      ∧ (0 ≤ (lag : Int) - c → (lag : Int) - c ≤ depth → (correctedLag lag c depth : Int) = lag - c)
      ∧ ((lag : Int) - c < 0 → correctedLag lag c depth = 0)
      ∧ ((depth : Int) < lag - c → correctedLag lag c depth = depth) := by
  rw [correctedLag, clampInt]
  omega

theorem ladderAfter_cases (s : Settings) (r : Record) (e : Int) (h : s.lowerThreshold ≤ s.raiseThreshold) :
    (r.impaired = true → ladderAfter s r e = 3)
      ∧ (r.impaired = false → s.raiseThreshold < e.natAbs → ladderAfter s r e = min 3 (r.level + 1))
      ∧ (r.impaired = false → e.natAbs < s.lowerThreshold → ladderAfter s r e = r.level - 1)
      ∧ (r.impaired = false → s.lowerThreshold ≤ e.natAbs → e.natAbs ≤ s.raiseThreshold → ladderAfter s r e = r.level) := by
  refine ⟨fun hi => ?_, fun hi h1 => ?_, fun hi h1 => ?_, fun hi h1 h2 => ?_⟩
  · rw [ladderAfter, if_pos hi]
  · rw [ladderAfter, if_neg (by rw [hi]; exact Bool.false_ne_true), if_pos h1]
  · rw [ladderAfter, if_neg (by rw [hi]; exact Bool.false_ne_true), if_neg (by omega), if_pos h1]
  · rw [ladderAfter, if_neg (by rw [hi]; exact Bool.false_ne_true), if_neg (by omega), if_neg (by omega)]

/-! ### A lag moved (R130, R134) -/

/-- The part in which a record has been given a lag: its LAG by handle is offered where the lag is another one. -/
def Part.lagMoved (p : Part) (t : TreeId) (h lag old : Nat) : Part :=
  if lag = old then p else p.offer t (.lagByHandle h (lag / 4))

theorem Part.Changes.moveLag {p v : Part} {t : TreeId} {h : Nat} {r q : Record} (hc : p.Changes v t h r) (hq : q.handle = h)
    (hlag : q.lag = r.lag) (lag : Nat) : (p.lagMoved t h lag r.lag).Changes (v.moveLag t q lag) t h { r with lag := lag } := by
  rw [Part.lagMoved, Part.moveLag, hlag, hq]
  by_cases h : lag = r.lag
  · rw [if_pos h, if_pos (beq_iff_eq.mpr h), h]
    exact hc
  · rw [if_neg h, if_neg (by rwa [beq_iff_eq])]
    exact (hc.modRecord (f := fun r => { r with lag := lag }) fun _ => ⟨rfl, rfl⟩).offer t fun _ _ _ => Order.noConfusion

theorem Part.lagMoved_keeps (p : Part) (t : TreeId) (h lag old : Nat) :
    (p.lagMoved t h lag old).engine t = p.engine t ∧ ((p.lagMoved t h lag old).tree t).settings = (p.tree t).settings
      ∧ (p.lagMoved t h lag old).raised = p.raised := by
  rw [Part.lagMoved]
  split
  · exact ⟨rfl, rfl, rfl⟩
  · exact Part.offer_engine p t fun _ _ _ => Order.noConfusion

/-! ### CHECK (R129 to R131) -/

section
variable {p v : Part} {k : Clock} {t : TreeId} {h : Nat} {r : Record} (hc : p.Changes v t h r)
include hc

theorem Part.Changes.checkFailed_more (hmore : r.checkAttempts + 1 < 4) :
    p.Changes (v.checkFailed k t h) t h { r with checkAttempts := r.checkAttempts + 1 } := by
  have hone := hc.modRecord (f := fun r => { r with checkAttempts := r.checkAttempts + 1 }) fun _ => ⟨rfl, rfl⟩
  have hfailed : v.checkFailed k t h = v.modRecord t h fun r => { r with checkAttempts := r.checkAttempts + 1 } := by
    simp only [Part.checkFailed, hc.2]
    exact if_neg (by omega)
  rwa [hfailed]

theorem Part.Changes.checkFailed_last (hlast : 3 ≤ r.checkAttempts) (hserving : (p.engine t).serving ≠ some h) :
    ∃ w, v.checkFailed k t h =
        { w with raised := p.raised ++ [.terminal t h r.tag r.state .refind .checkFail] }
      ∧ (p.relistened t h).Changes w t h
        ({ r with checkAttempts := r.checkAttempts + 1 }.refound .checkFail
          (k.tenth + BitVec.ofNat 32 (10 * (p.tree t).settings.refindTime))) := by
  have hone := hc.modRecord (f := fun r => { r with checkAttempts := r.checkAttempts + 1 }) fun _ => ⟨rfl, rfl⟩
  have hfailed : v.checkFailed k t h =
      (v.modRecord t h fun r => { r with checkAttempts := r.checkAttempts + 1 }).enterRefind k t h .checkFail := by
    simp only [Part.checkFailed, hc.2]
    exact if_pos (by omega)
  rw [hfailed]
  exact hone.enterRefind k hserving .checkFail

end

theorem Record.checkJudged_eq (r : Record) :
    r.checkJudged = { r with check := if r.check = .granted then .afterReply else r.check } := by
  rw [Record.checkJudged]
  by_cases h : r.check = .granted
  · rw [if_pos (beq_iff_eq.mpr h), if_pos h]
  · rw [if_neg (by rwa [beq_iff_eq]), if_neg h]

theorem Record.checkJudged_name (r : Record) : r.checkJudged.tree = r.tree ∧ r.checkJudged.handle = r.handle := by
  rw [Record.checkJudged_eq]
  exact ⟨rfl, rfl⟩

/-- Two changes of one record are one. -/
theorem Part.modRecord_modRecord (p : Part) (t : TreeId) (h : Nat) {f : Record → Record}
    (hf : ∀ r, (f r).tree = r.tree ∧ (f r).handle = r.handle) (g : Record → Record) :
    (p.modRecord t h f).modRecord t h g = p.modRecord t h fun r => g (f r) := by
  refine congrArg (fun rs => { p with records := rs }) ?_
  rw [Part.modRecord, List.map_map]
  refine List.map_congr_left fun r _ => ?_
  have hname : (f r).named t h = r.named t h := by simp [Record.named, hf r]
  cases hr : r.named t h with
  | false => simp [hr]
  | true => simp [hr, hname]

/-- A record enters LOADING and joins the push queue (R92, R145). -/
theorem Part.enterLoading_eq {p : Part} {t : TreeId} {h : Nat} {r : Record} (k : Clock) (hr : p.record? t h = some r)
    (profile : Nat) (cause : Cause) :
    p.enterLoading k t h profile cause =
      ({ (p.modTree t fun T => { T with pushQueue := T.pushQueue ++ [h] }).modRecord t h (·.loadingAs profile cause) with
          raised := p.raised ++ [.terminal t h r.tag r.state .loading cause] } : Part).takeTest k t := by
  obtain ⟨ht, hh⟩ := Part.record?_name hr
  simp only [Part.enterLoading, hr, Part.joinQueue, Part.raiseTerminal, ht, hh]
  rfl

section
variable {p v : Part} {k : Clock} {t : TreeId} {h : Nat} {r : Record} (hc : p.Changes v t h r) {en : AdmitEntry}
  (hen : p.entry? r.tag = some en)
include hc hen

theorem Part.Changes.confirm_of_none (hprofile : en.profile = 0) : v.confirm k t h = v.enterInService k t h .confirmed := by
  simp only [Part.confirm, hc.2, hc.entry?, hen, Option.map_some, Option.getD_some, hprofile]
  rfl

theorem Part.Changes.confirm_of_profile (hprofile : en.profile ≠ 0) :
    v.confirm k t h = v.enterLoading k t h en.profile .confirmed := by
  simp only [Part.confirm, hc.2, hc.entry?, hen, Option.map_some, Option.getD_some]
  exact if_neg (by rwa [beq_iff_eq])

end

/-- An entry to IN_SERVICE of a record changed before (R92, R167). -/
theorem Part.Changes.enterInService {p v : Part} {t : TreeId} {h : Nat} {r : Record} (hc : p.Changes v t h r) (k : Clock)
    (cause : Cause) :
    ∃ w, v.enterInService k t h cause = { w with raised := p.raised ++ [.terminal t h r.tag r.state .inService cause] }
      ∧ p.Changes w t h { r with
        state := .inService
        cause := cause
        load := none
        check := .none
        polls :=
          ⟨if p.reportTable.a.kind = 0 then r.polls.a else { r.polls.a with due := some k.cycle },
           if p.reportTable.b.kind = 0 then r.polls.b else { r.polls.b with due := some k.cycle },
           if p.reportTable.c.kind = 0 then r.polls.c else { r.polls.c with due := some k.cycle }⟩ } := by
  refine ⟨_, (Part.enterInService_eq k hc.2 cause).trans ?_, hc.modRecord (f := fun q =>
    { q with
      state := .inService
      cause := cause
      load := none
      check := .none
      polls :=
        ⟨if p.reportTable.a.kind = 0 then q.polls.a else { q.polls.a with due := some k.cycle },
         if p.reportTable.b.kind = 0 then q.polls.b else { q.polls.b with due := some k.cycle },
         if p.reportTable.c.kind = 0 then q.polls.c else { q.polls.c with due := some k.cycle }⟩ }) fun _ => ⟨rfl, rfl⟩⟩
  rw [hc.raised, hc.reportTable]

/-- A record as a CHECK that confirms it leaves its ladder (R129). -/
def Record.leveled (grant : CycleNo) (r : Record) : Record :=
  { r with level := if r.impaired then 3 else 2, lastUpkeepGrant := grant }

theorem Part.Changes.leveled {p v : Part} {t : TreeId} {h : Nat} {r : Record} (hc : p.Changes v t h r) (grant : CycleNo) :
    p.Changes (v.modRecord t h (Record.leveled grant)) t h (r.leveled grant) :=
  hc.modRecord fun _ => ⟨rfl, rfl⟩

/-- The changes that confirm a record with a profile, in one (R92, R129). -/
theorem Part.modRecord_confirmed (p : Part) (t : TreeId) (h : Nat) (grant : CycleNo) (profile : Nat) :
    (((p.modRecord t h Record.checkJudged).modRecord t h (Record.leveled grant)).modRecord t h
        (·.loadingAs profile .confirmed)) =
      p.modRecord t h fun q =>
        { q with
          state := .loading
          cause := .confirmed
          level := if q.impaired then 3 else 2
          lastUpkeepGrant := grant
          load := some ⟨profile, .queued, 0, none⟩
          check := .none } := by
  rw [Part.modRecord_modRecord p t h Record.checkJudged_name,
    Part.modRecord_modRecord p t h (f := fun r => r.checkJudged.leveled grant) fun r => Record.checkJudged_name r]
  refine congrArg (p.modRecord t h) (funext fun r => ?_)
  rw [Record.checkJudged_eq]
  rfl

/-! ### The owner of a CHECK (R129 to R131, R126) -/

theorem Part.ownerOutcome_of_check {p : Part} {k : Clock} {t : TreeId} {x : Expectation} (hpurpose : x.purpose = .check)
    (o : MatchOutcome) : p.ownerOutcome k t x o = p.checkOutcome k t x.handle x.grantCycle o := by
  simp only [Part.ownerOutcome, hpurpose]

section
variable {p v : Part} {k : Clock} {t : TreeId} {h : Nat} {r : Record} {grant : CycleNo} {e : Int} (hc : p.Changes v t h r)
include hc

theorem Part.Changes.judgeCheck_confirms (he : e.natAbs ≤ (p.tree t).settings.alignTolerance) :
    v.judgeCheck k t h grant e =
      (v.modRecord t h (Record.leveled grant)).confirm k t h := by
  simp only [Part.judgeCheck, hc.2, hc.tree]
  exact if_pos he

theorem Part.Changes.judgeCheck_corrects (h1 : (p.tree t).settings.alignTolerance < e.natAbs)
    (h2 : e.natAbs ≤ (p.tree t).settings.driftLimit) :
    v.judgeCheck k t h grant e =
      (v.moveLag t r (correctedLag r.lag (correctionOf e) (p.tree t).settings.reachDepth)).checkFailed k t h := by
  simp only [Part.judgeCheck, hc.2, hc.tree]
  exact (if_neg (Nat.not_le.mpr h1)).trans (if_pos h2)

theorem Part.Changes.judgeCheck_drifts (h1 : (p.tree t).settings.alignTolerance < e.natAbs)
    (h2 : (p.tree t).settings.driftLimit < e.natAbs) : v.judgeCheck k t h grant e = v.enterRefind k t h .drift := by
  simp only [Part.judgeCheck, hc.2, hc.tree]
  exact (if_neg (Nat.not_le.mpr h1)).trans (if_neg (Nat.not_le.mpr h2))

end

/-! ### The owner of an UPKEEP (R132 to R136, R126) -/

theorem Part.ownerOutcome_of_upkeep {p : Part} {k : Clock} {t : TreeId} {x : Expectation} (hpurpose : x.purpose = .upkeep)
    (o : MatchOutcome) : p.ownerOutcome k t x o = p.upkeepOutcome k t x.handle x.grantCycle o := by
  simp only [Part.ownerOutcome, hpurpose]

/-- The nudge-pending mark lets an outcome of a grant settle it (R135). -/
def Record.nudgeSettled (r : Record) (grant : CycleNo) : Bool := r.nudgePending.all (laterThanMark grant)

theorem Record.nudgeSettled_iff (r : Record) (grant : CycleNo) :
    r.nudgeSettled grant = true ↔
      ∀ m, r.nudgePending = some m → 2 ≤ cyclesSince grant m ∧ cyclesSince grant m ≤ 32767 := by
  rw [Record.nudgeSettled]
  cases r.nudgePending with
  | none => simp
  | some m => simp [laterThanMark]

section
variable {p : Part} {k : Clock} {t : TreeId} {h : Nat} {r : Record} {grant : CycleNo} {e : Int} (hr : p.record? t h = some r)
include hr

theorem Part.judgeUpkeep_drifts (hdrift : (p.tree t).settings.driftLimit < e.natAbs) :
    p.judgeUpkeep k t h grant e =
      (p.modRecord t h fun r => { r with level := ladderAfter (p.tree t).settings r e }).enterRefind k t h .drift := by
  simp only [Part.judgeUpkeep, hr]
  exact if_pos hdrift

/-- An UPKEEP answered without drift: the lag is nudged where it may be, and the mark settled (R134, R135). -/
theorem Part.judgeUpkeep_nudges (hdrift : e.natAbs ≤ (p.tree t).settings.driftLimit) {settled : Bool} {lag : Nat}
    (hsettled : settled = r.nudgeSettled grant)
    (hlag : lag =
      if settled = true ∧ p.hasOrder t (Order.isLag h) = false ∧ (p.tree t).settings.deadband < e.natAbs then
        correctedLag r.lag
          (correctionOf (max (-((p.tree t).settings.slew : Int)) (min ((p.tree t).settings.slew : Int) e)))
          (p.tree t).settings.reachDepth
      else r.lag) :
    (p.lagMoved t h lag r.lag).Changes (p.judgeUpkeep k t h grant e) t h
      { r with
        level := ladderAfter (p.tree t).settings r e
        lag := lag
        nudgePending := if settled then none else r.nudgePending } := by
  obtain ⟨-, hh⟩ := Part.record?_name hr
  obtain ⟨v, hv⟩ : ∃ v, v = p.modRecord t h fun r => { r with level := ladderAfter (p.tree t).settings r e } := ⟨_, rfl⟩
  have hc : p.Changes v t h { r with level := ladderAfter (p.tree t).settings r e } := by
    rw [hv]
    exact (Part.Changes.refl hr).modRecord fun _ => ⟨rfl, rfl⟩
  obtain ⟨q, hq⟩ : ∃ q, q =
      if !v.hasOrder t (Order.isLag h) && settled && (p.tree t).settings.deadband < e.natAbs then
        v.moveLag t r (correctedLag r.lag (correctionOf (clampInt (-((p.tree t).settings.slew : Int)) (p.tree t).settings.slew e))
          (p.tree t).settings.reachDepth)
      else v := ⟨_, rfl⟩
  have hmoved : (p.lagMoved t h lag r.lag).Changes q t h
      { r with level := ladderAfter (p.tree t).settings r e, lag := lag } := by
    rw [hq, hlag, hc.hasOrder]
    by_cases hmay : settled = true ∧ p.hasOrder t (Order.isLag h) = false ∧ (p.tree t).settings.deadband < e.natAbs
    · rw [if_pos hmay, if_pos (by simp [hmay])]
      exact hc.moveLag hh rfl _
    · rw [if_neg hmay, if_neg (by simp only [Bool.and_eq_true, Bool.not_eq_true', decide_eq_true_eq]; rwa [and_assoc, and_left_comm]), Part.lagMoved,
        if_pos rfl]
      exact hc
  have hjudge : p.judgeUpkeep k t h grant e =
      if settled then q.modRecord t h fun r => { r with nudgePending := none } else q := by
    simp only [Part.judgeUpkeep, hr]
    rw [if_neg (Nat.not_lt.mpr hdrift), hq, hv, hsettled]
    rfl
  rw [hjudge]
  cases settled with
  | true => exact hmoved.modRecord (f := fun r => { r with nudgePending := none }) fun _ => ⟨rfl, rfl⟩
  | false => exact hmoved

end

/-- Settles O13: the arithmetic, then the owners of a CHECK and of an UPKEEP outcome by outcome. -/
theorem upkeepArithmetic : Obligations.UpkeepArithmetic := by
  unfold Obligations.UpkeepArithmetic
  refine ⟨⟨correctionOf_bounds, fun lag depth e hlag hdepth _ => correctedLag_bounds _ (correctionOf_bounds e).1 hlag hdepth⟩,
    fun s r e hs hlevel => ?_, fun p k t x r judged S deadline hpurpose hr hS hdeadline hjudged => ?_,
    fun p k t x r S hpurpose hr hS => ⟨fun e flag body hdrift hserving => ?_,
      fun e flag body settled lag hdrift hsettled hlag => ?_, fun o ho => ?_, ?_⟩⟩
  · obtain ⟨-, -, -, -, -, -, -, -, hthresholds, -⟩ := hs
    obtain ⟨h1, h2, h3, h4⟩ := ladderAfter_cases s r e hthresholds
    exact ⟨h1, h2, h3, h4, rfl, rfl, rfl, rfl⟩
  · subst hS
    obtain ⟨v, hv⟩ : ∃ v, v = p.modRecord t x.handle Record.checkJudged := ⟨_, rfl⟩
    have hc : p.Changes v t x.handle judged := by
      rw [hv, hjudged, ← Record.checkJudged_eq]
      exact (Part.Changes.refl hr).modRecord Record.checkJudged_name
    have hanswer : ∀ e flag body, p.ownerOutcome k t x (.answered e flag body) = v.judgeCheck k t x.handle x.grantCycle e :=
      fun e flag body => by rw [Part.ownerOutcome_of_check hpurpose, Part.checkOutcome, ← hv]
    have hmiss : ∀ o, (o = .missed ∨ ∃ flag, o = .errored flag) → p.ownerOutcome k t x o = v.checkFailed k t x.handle := by
      rintro o (rfl | ⟨flag, rfl⟩) <;> rw [Part.ownerOutcome_of_check hpurpose, Part.checkOutcome, ← hv]
    have hlapsed : p.ownerOutcome k t x .lapsed = v := by
      rw [Part.ownerOutcome_of_check hpurpose, Part.checkOutcome, ← hv]
    refine ⟨fun e flag body en he hen => ⟨fun hprofile => ?_, fun hprofile => ?_⟩,
      fun o lag hcase q hq => ?_, fun e flag body h1 h2 hserving => ?_, ?_, ?_⟩
    · subst hjudged
      rw [hanswer, hc.judgeCheck_confirms he, (hc.leveled x.grantCycle).confirm_of_none hen hprofile]
      exact (hc.leveled x.grantCycle).enterInService k .confirmed
    · subst hjudged
      rw [hanswer, hc.judgeCheck_confirms he, (hc.leveled x.grantCycle).confirm_of_profile hen hprofile,
        Part.enterLoading_eq k (hc.leveled x.grantCycle).2, (hc.leveled x.grantCycle).raised, hv]
      refine congrArg (fun q : Part => ({ q.modTree t fun T => { T with pushQueue := T.pushQueue ++ [x.handle] } with
        raised := p.raised ++ [.terminal t x.handle r.tag r.state .loading .confirmed] } : Part).takeTest k t)
        (Part.modRecord_confirmed p t x.handle x.grantCycle en.profile)
    · obtain ⟨w, houtcome, hmoved⟩ : ∃ w, p.ownerOutcome k t x o = w.checkFailed k t x.handle
          ∧ q.Changes w t x.handle { judged with lag := lag } := by
        have hlag : judged.lag = r.lag := by rw [hjudged]
        have hhandle : judged.handle = x.handle := by
          rw [hjudged]
          exact (Part.record?_name hr).2
        obtain ⟨e, flag, body, rfl, h1, h2, rfl⟩ | ⟨ho, rfl⟩ := hcase
        · refine ⟨_, (hanswer e flag body).trans (hc.judgeCheck_corrects h1 h2), ?_⟩
          have hmoved := hc.moveLag hhandle rfl (correctedLag judged.lag (correctionOf e) (p.tree t).settings.reachDepth)
          rw [hlag] at hmoved ⊢
          rw [hq]
          exact hmoved
        · rw [if_pos rfl] at hq
          refine ⟨v, hmiss o ho.symm, ?_⟩
          rw [hq, ← hlag]
          exact hc
      have hkeeps : q.engine t = p.engine t ∧ (q.tree t).settings = (p.tree t).settings ∧ q.raised = p.raised := by
        rw [hq]
        exact Part.lagMoved_keeps p t x.handle lag r.lag
      obtain ⟨hengine, hsettings, hraised⟩ := hkeeps
      have hattempts : judged.checkAttempts = r.checkAttempts := by rw [hjudged]
      rw [houtcome]
      refine ⟨fun hmore => ?_, fun hlast hserving => ?_⟩
      · rw [← hattempts]
        exact hmoved.checkFailed_more (by rw [← hattempts] at hmore; exact hmore)
      · have hfails := hmoved.checkFailed_last (k := k) (by rw [← hattempts] at hlast; exact hlast)
          (by rw [hengine]; exact hserving)
        rw [hraised, hsettings, ← hdeadline] at hfails
        subst hjudged
        exact hfails
    · subst hjudged
      rw [hanswer, hc.judgeCheck_drifts h1 h2, hdeadline]
      exact hc.enterRefind k hserving .drift
    · rw [hlapsed]
      exact hc.1
    · rw [hlapsed]
      exact hc.2
  · subst hS
    rw [Part.ownerOutcome_of_upkeep hpurpose, Part.upkeepOutcome, Part.judgeUpkeep_drifts hr hdrift]
    exact ((Part.Changes.refl hr).modRecord (f := fun r => { r with level := ladderAfter (p.tree t).settings r e })
      fun _ => ⟨rfl, rfl⟩).enterRefind k hserving .drift
  · subst hS
    rw [Part.ownerOutcome_of_upkeep hpurpose, Part.upkeepOutcome]
    exact Part.judgeUpkeep_nudges hr hdrift (Bool.eq_iff_iff.mpr (hsettled.trans (r.nudgeSettled_iff x.grantCycle).symm)) hlag
  · have hraise : p.ownerOutcome k t x o = p.raiseLadder t x.handle := by
      obtain rfl | ⟨flag, rfl⟩ := ho <;> rw [Part.ownerOutcome_of_upkeep hpurpose, Part.upkeepOutcome]
    rw [hraise]
    exact (Part.Changes.refl hr).modRecord fun _ => ⟨rfl, rfl⟩
  · rw [Part.ownerOutcome_of_upkeep hpurpose, Part.upkeepOutcome]

end Sys2Proof.Machine
end

section
/-!
PROOFS. What the outcome of an entry does, from the counting to the owner, and the expectations that expire (the statement O37).
-/

namespace Sys2Proof.Machine

/-! ### The counting of a miss (R124) -/

section
variable {p : Part} {k : Clock} {t : TreeId} {h n limit : Nat} {r : Record} (hr : p.record? t h = some r)
  (hlimit : limit = (p.tree t).settings.missLimit)
  (hn : n = (if limit ≤ r.missCount then r.missCount else r.missCount + 1))
include hr hlimit hn

theorem Part.countMiss_of_more (hmore : (r.state ≠ .loading ∧ r.state ≠ .inService) ∨ n < limit) :
    p.Changes (p.countMiss k t h) t h { r with missCount := n } := by
  have hcount : p.countMiss k t h = p.modRecord t h fun r => { r with missCount := n } := by
    simp only [Part.countMiss, hr, ← hlimit, ← hn]
    refine if_neg ?_
    rw [Bool.and_eq_true, Bool.or_eq_true, beq_iff_eq, beq_iff_eq, decide_eq_true_eq, not_and, Nat.not_le]
    exact fun hstate => hmore.resolve_left fun hnot => not_or.mpr hnot hstate
  rw [hcount]
  exact (Part.Changes.refl hr).modRecord fun _ => ⟨rfl, rfl⟩

theorem Part.countMiss_of_limit (hstate : r.state = .loading ∨ r.state = .inService) (hmiss : limit ≤ n) :
    p.countMiss k t h = (p.modRecord t h fun r => { r with missCount := n }).enterRefind k t h .misses := by
  simp only [Part.countMiss, hr, ← hlimit, ← hn]
  refine if_pos ?_
  rw [Bool.and_eq_true, Bool.or_eq_true, beq_iff_eq, beq_iff_eq, decide_eq_true_eq]
  exact ⟨hstate, hmiss⟩

end

/-! ### From the counting to the owner (R117, R122) -/

theorem Part.inRefind_of_record {p : Part} {t : TreeId} {h : Nat} {r : Record} (hr : p.record? t h = some r) :
    p.inRefind t h = (r.state == .refind) := by rw [Part.inRefind, hr, Option.any_some]

theorem Part.isImpaired_of_record {p : Part} {t : TreeId} {h : Nat} {r : Record} (hr : p.record? t h = some r) :
    p.isImpaired t h = r.impaired := by rw [Part.isImpaired, hr, Option.any_some]

theorem Part.settleAsk_of_none {p : Part} {t : TreeId} (k : Clock) (h : (p.engine t).askDeferred = false) :
    p.settleAsk k t = p := by simp only [Part.settleAsk, h, Bool.not_false, if_true]

theorem Part.takeOutcome_of_orphan {p : Part} {k : Clock} {t : TreeId} {x : Expectation} (h : x.orphan = true)
    (o : MatchOutcome) : p.takeOutcome k t x o = p.settleAsk k t := by simp only [Part.takeOutcome, h, if_true]

section
variable {p q : Part} {k : Clock} {t : TreeId} {x : Expectation} {o : MatchOutcome} {r u : Record}
  (hq : q = p.countOutcome k t x.handle o) (hlive : x.orphan = false) (hr : p.record? t x.handle = some r)
  (hu : q.record? t x.handle = some u)
include hq hlive hr hu

theorem Part.takeOutcome_of_counted :
    p.takeOutcome k t x o =
      (let v := if u.state = .refind then q else q.ownerOutcome k t x o
       if r.impaired = true ∧ u.impaired = false then v.takeTest k t else v).settleAsk k t := by
  have hrefind : q.inRefind t x.handle = decide (u.state = .refind) := by
    rw [Part.inRefind_of_record hu]
    rfl
  simp only [Part.takeOutcome, Part.countAndJudge, hlive, ← hq, hrefind, Part.isImpaired_of_record hr,
    Part.isImpaired_of_record hu, Bool.false_eq_true, if_false, decide_eq_true_eq, Bool.and_eq_true, Bool.not_eq_true']

theorem Part.takeOutcome_of_refound (hstate : u.state = .refind) (himpaired : r.impaired = false ∨ u.impaired = true) :
    p.takeOutcome k t x o = q.settleAsk k t := by
  rw [Part.takeOutcome_of_counted hq hlive hr hu, if_pos hstate]
  simp only [if_neg (show ¬(r.impaired = true ∧ u.impaired = false) by grind)]

theorem Part.takeOutcome_of_judged (hstate : u.state ≠ .refind) (himpaired : r.impaired = false ∨ u.impaired = true) :
    p.takeOutcome k t x o = (q.ownerOutcome k t x o).settleAsk k t := by
  rw [Part.takeOutcome_of_counted hq hlive hr hu, if_neg hstate]
  simp only [if_neg (show ¬(r.impaired = true ∧ u.impaired = false) by grind)]

theorem Part.takeOutcome_of_recovered (hstate : u.state ≠ .refind) (h1 : r.impaired = true) (h2 : u.impaired = false) :
    p.takeOutcome k t x o = ((q.ownerOutcome k t x o).takeTest k t).settleAsk k t := by
  rw [Part.takeOutcome_of_counted hq hlive hr hu, if_neg hstate]
  simp only [if_pos (And.intro h1 h2)]

end

/-! ### The owners of an outcome without a reply (R126, R131, R136, R168) -/

section
variable {p v : Part} {k : Clock} {t : TreeId} {x : Expectation} {r : Record} (hc : p.Changes v t x.handle r)
include hc

theorem Part.Changes.ownerOutcome_upkeep_missed (hpurpose : x.purpose = .upkeep) :
    p.Changes (v.ownerOutcome k t x .missed) t x.handle { r with level := if r.impaired then 3 else min 3 (r.level + 1) } := by
  rw [Part.ownerOutcome_of_upkeep hpurpose]
  exact hc.modRecord fun _ => ⟨rfl, rfl⟩

theorem Part.Changes.checkJudged :
    p.Changes (v.modRecord t x.handle Record.checkJudged) t x.handle
      { r with check := if r.check = .granted then .afterReply else r.check } := by
  have hjudged := hc.modRecord Record.checkJudged_name
  rwa [Record.checkJudged_eq] at hjudged

/-- A POLL that brought no report makes its slot due (R168). -/
theorem Part.Changes.ownerOutcome_poll_bad {slot : ReportSlot} {kind : Byte} {o : MatchOutcome} (hpurpose : x.purpose = .poll)
    (hreport : x.report = some (slot, kind)) (ho : o = .missed ∨ o = .lapsed ∨ ∃ flag, o = .errored flag) :
    p.Changes (v.ownerOutcome k t x o) t x.handle
      (if r.state = .inService then
        { r with polls := r.polls.set slot { r.polls.get slot with due := some k.cycle } }
      else r) := by
  have hbad : pollOutcomeOf o = .bad := by
    obtain rfl | rfl | ⟨flag, rfl⟩ := ho <;> rfl
  have howner : v.ownerOutcome k t x o =
      v.modRecord t x.handle fun r =>
        if r.state = .inService then { r with polls := r.polls.set slot { r.polls.get slot with due := some k.cycle } }
        else r := by
    simp only [Part.ownerOutcome, hpurpose, hreport, hbad, Record.pollOutcome, beq_iff_eq]
  rw [howner]
  exact hc.modRecord fun r => by split <;> exact ⟨rfl, rfl⟩

end

/-- An engine that awaits its record's LOAD-STATUS asks again when none comes (R152, R155, R158). -/
theorem Part.ownerOutcome_status_bad {p : Part} {k : Clock} {t : TreeId} {x : Expectation} {e : Engine} {o : MatchOutcome}
    (he : e = p.engine t) (hpurpose : x.purpose = .loadStatus) (hserving : e.serving = some x.handle)
    (hawaiting : e.awaiting = true) (hask : e.ask = none)
    (hstate : e.state = .preparing ∨ e.state = .streaming ∨ e.state = .committing)
    (hentries : ∀ y ∈ (p.tree t).expectations, y.handle = x.handle → y.purpose ≠ .loadStatus)
    (ho : o = .missed ∨ o = .lapsed) :
    p.ownerOutcome k t x o =
      p.modEngine t fun _ =>
        { e with
          awaiting := false
          lastBad := e.lastBad || e.state == .streaming
          ask := some k.nextStart
          askDeferred := false } := by
  have htake := ((engineTakes.2 p k t { x with sentMark := some 0 } e 0 he hpurpose rfl).2 hserving hawaiting).1 o hask
    hentries (Or.inl ⟨ho.imp_right Or.inl, hstate⟩)
  rw [← htake, Part.ownerOutcome_of_loadStatus hpurpose, Part.ownerOutcome_of_loadStatus (by exact hpurpose)]
  obtain rfl | rfl := ho <;> rfl

/-! ### A record that enters REFIND while its push is served (R93, R161) -/

theorem orphanedWhile_orphaned (b : Bool) (h : Nat) (xs : List Expectation) :
    ((orphaned h xs).map fun e => if b && e.handle == h && e.purpose == .loadStatus then { e with orphan := true } else e) =
      orphaned h xs := by
  rw [orphaned, List.map_map]
  refine List.map_congr_left fun e _ => ?_
  by_cases he : e.handle = h <;> by_cases hp : e.purpose = .loadStatus <;> cases b <;> simp [he, hp]

section
variable {p : Part} {t : TreeId} {h : Nat} {r : Record}

/-- The tree of a record whose place in the push queue is given up and whose push is then let go. -/
def Tree.heldBackThenCleared (h : Nat) (T : Tree) : Tree :=
  { Tree.pushCleared h { T with expectations := orphaned h T.expectations, pushQueue := T.pushQueue.filter (· != h) } with
    expectations :=
      (orphaned h T.expectations).map fun e =>
        if T.engine.awaiting && e.handle == h && e.purpose == .loadStatus then { e with orphan := true } else e }

theorem Tree.heldBackThenCleared_eq (h : Nat) {T : Tree} (hqueue : T.pushQueue = []) :
    T.heldBackThenCleared h = T.pushAborted h := by
  simp only [Tree.heldBackThenCleared, Tree.pushAborted, Tree.pushCleared, Tree.withdrawn, orphanedWhile_orphaned, hqueue]
  rfl

theorem Part.heldBack_letGo_eq (hqueue : (p.tree t).pushQueue = []) :
    (p.heldBack t h).letGo t h = (p.letGo t h).orphan t h := by
  have hcleared : (p.heldBack t h).letGo t h =
      { p.modTree t (Tree.heldBackThenCleared h) with master := p.master.discarding t } := by
    rw [Part.letGo_eq]
    cases t <;> rfl
  rw [hcleared, Part.letGo_orphan_eq, Part.modTree_congr p t (Tree.heldBackThenCleared_eq h hqueue)]

theorem Part.letGo_engine (p : Part) (t : TreeId) (h : Nat) : (p.letGo t h).engine t = .idle := by
  rw [Part.letGo_eq]
  cases t <;> rfl

/-- An entry to REFIND of a record whose push is served, no other record waiting (R93, R161). -/
theorem Part.enterRefind_of_served (k : Clock) (hr : p.record? t h = some r) (hserving : (p.engine t).serving = some h)
    (hqueue : (p.tree t).pushQueue = []) (cause : Cause) :
    p.enterRefind k t h cause =
      { ((p.relistened t h).letGo t h).modRecord t h
          (·.refound cause (k.tenth + BitVec.ofNat 32 (10 * (p.tree t).settings.refindTime))) with
        raised := p.raised ++ [.terminal t h r.tag r.state .refind cause] } := by
  obtain ⟨ht, hh⟩ := Part.record?_name hr
  obtain ⟨hengine, hqueues, hrecords, hraised⟩ := Part.offer_relisten_keeps p t h
  obtain ⟨q, hq⟩ : ∃ q, q = p.offer t (.relisten h) := ⟨_, rfl⟩
  rw [← hq] at hengine hqueues hrecords hraised
  have hempty : (((q.letGo t h).orphan t h).tree t).pushQueue = [] := by
    rw [Part.letGo_orphan_eq]
    exact (congrArg Tree.pushQueue (Part.tree_modTree_self q t (Tree.pushAborted h))).trans (hqueues.trans hqueue)
  have hleft : (q.letGo t h).orphan t h = (p.relistened t h).letGo t h := by
    rw [← Part.heldBack_letGo_eq (hqueues.trans hqueue), hq]
    rfl
  have hkept : ((q.letGo t h).orphan t h).raised = p.raised := by
    rw [Part.letGo_orphan_eq]
    exact hraised
  simp only [Part.enterRefind, hr, ← hq, Part.orphan_leavePush_of_served k (hengine ▸ hserving), Part.takeTest_of_empty k hempty,
    Part.raiseTerminal, ht, hh]
  rw [← hleft]
  exact congrArg (fun ns => ({ ((q.letGo t h).orphan t h).modRecord t h
    (·.refound cause (k.tenth + BitVec.ofNat 32 (10 * (p.tree t).settings.refindTime))) with
      raised := ns ++ [.terminal t h r.tag r.state .refind cause] } : Part)) hkept

end

theorem Part.Changes.letGo {p v : Part} {t : TreeId} {h : Nat} {r : Record} (hc : p.Changes v t h r) (u : TreeId) (n : Nat) :
    (p.letGo u n).Changes (v.letGo u n) t h r := by
  obtain ⟨⟨hv, hothers⟩, hr⟩ := hc
  rw [Part.letGo_eq, Part.letGo_eq]
  refine ⟨⟨?_, hothers⟩, hr⟩
  rw [hv]
  rfl

/-- The part that a record's entry to REFIND leaves but for the record: with its push served, that push let go (R93, R161). -/
def Part.LeftByRefind (p left : Part) (t : TreeId) (h : Nat) : Prop :=
  (p.engine t).serving ≠ some h ∧ left = p.relistened t h
    ∨ (p.engine t).serving = some h ∧ (p.tree t).pushQueue = [] ∧ left = (p.relistened t h).letGo t h

theorem Part.LeftByRefind.askDeferred {p left : Part} {t : TreeId} {h : Nat} (hleft : p.LeftByRefind left t h)
    (hask : (p.engine t).askDeferred = false) : (left.engine t).askDeferred = false := by
  obtain ⟨-, rfl⟩ | ⟨-, -, rfl⟩ := hleft
  · have hengine : (p.relistened t h).engine t = (p.offer t (.relisten h)).engine t := by
      rw [Part.relistened, Part.engine, Part.tree_modTree_self]
      rfl
    rw [hengine, (Part.offer_relisten_keeps p t h).1]
    exact hask
  · rw [Part.letGo_engine]
    rfl

theorem Part.LeftByRefind.raised {p left : Part} {t : TreeId} {h : Nat} (hleft : p.LeftByRefind left t h) :
    left.raised = p.raised := by
  obtain ⟨-, rfl⟩ | ⟨-, -, rfl⟩ := hleft
  · exact (Part.offer_relisten_keeps p t h).2.2.2
  · rw [Part.letGo_eq]
    exact (Part.offer_relisten_keeps p t h).2.2.2

theorem Part.Changes.enterRefind_left {p v left : Part} {t : TreeId} {h : Nat} {r : Record} (hc : p.Changes v t h r) (k : Clock)
    (hleft : p.LeftByRefind left t h) (cause : Cause) :
    ∃ w, v.enterRefind k t h cause =
        { w with raised := p.raised ++ [.terminal t h r.tag r.state .refind cause] }
      ∧ left.Changes w t h
        (r.refound cause (k.tenth + BitVec.ofNat 32 (10 * (p.tree t).settings.refindTime))) := by
  obtain ⟨hserving, rfl⟩ | ⟨hserving, hqueue, rfl⟩ := hleft
  · exact hc.enterRefind k hserving cause
  · refine ⟨_, (Part.enterRefind_of_served k hc.2 (by rw [hc.engine]; exact hserving) (by rw [hc.tree]; exact hqueue)
      cause).trans ?_, ((hc.relistened t h).letGo t h).modRecord (f := fun r =>
        r.refound cause (k.tenth + BitVec.ofNat 32 (10 * (p.tree t).settings.refindTime))) fun _ => ⟨rfl, rfl⟩⟩
    rw [hc.raised, hc.tree]

/-! ### Expiry (R116) -/

section
variable {s : State} {t : TreeId} {pos : Nat} {x : Expectation} {rest : List Expectation} (hs : s.Settled)
  (h1 : s.clock.pos ≤ pos) (h2 : pos < 131072) (hx : (s.part.tree t).expectations = x :: rest)
include hx

theorem Part.removeEntry_head :
    s.part.removeEntry t x = s.part.modTree t fun T => { T with expectations := rest } := by
  refine Part.modTree_congr s.part t (f := fun T => { T with expectations := T.expectations.erase x }) ?_
  simp only [hx, List.erase_cons_head]

include hs h1 h2

theorem exec_expectationExpiry_of_passed
    (hpassed : (s.part.tree t).passed (s.atPos pos).clock.treeTime (x.expected + 2048#33) = true) :
    exec (.expectationExpiry t pos) s =
      .next ((s.atPos pos).withPart
        ((s.part.modTree t fun T => { T with expectations := rest }).takeOutcome (s.atPos pos).clock t x
          (if (s.part.tree t).guard.present.dark then .lapsed else .missed))) := by
  have hexpired : ((s.atPos pos).part.tree t).expired (s.atPos pos).clock.treeTime = some x := by
    rw [Tree.expired, show ((s.atPos pos).part.tree t).expectations = x :: rest from hx]
    exact if_pos hpassed
  refine congrArg Host.Outcome.next ((hs.eventAt h1 h2 _).trans ?_)
  rw [State.expectationExpiry, hexpired, ← Part.removeEntry_head hx]
  rfl

end

/-- A live entry whose counting leaves IMPAIRED alone, the record then not in REFIND, and whose owner leaves no deferred ask. -/
theorem Part.takeOutcome_of_owner {p v : Part} {k : Clock} {t : TreeId} {x : Expectation} {o : MatchOutcome} {r u : Record}
    (hlive : x.orphan = false) (hr : p.record? t x.handle = some r)
    (hcount : p.Changes (p.countOutcome k t x.handle o) t x.handle u) (hstate : u.state ≠ .refind)
    (himpaired : u.impaired = r.impaired) (hv : (p.countOutcome k t x.handle o).ownerOutcome k t x o = v)
    (hask : (v.engine t).askDeferred = false) : p.takeOutcome k t x o = v := by
  rw [Part.takeOutcome_of_judged rfl hlive hr hcount.2 hstate (by rw [himpaired]; exact (Bool.eq_false_or_eq_true _).symm), hv,
    Part.settleAsk_of_none k hask]

/-- The same where the owner changes the record alone. -/
theorem Part.takeOutcome_of_changes {p : Part} {k : Clock} {t : TreeId} {x : Expectation} {o : MatchOutcome} {r u w : Record}
    (hlive : x.orphan = false) (hr : p.record? t x.handle = some r) (hask : (p.engine t).askDeferred = false)
    (hcount : p.Changes (p.countOutcome k t x.handle o) t x.handle u) (hstate : u.state ≠ .refind)
    (himpaired : u.impaired = r.impaired)
    (hv : p.Changes ((p.countOutcome k t x.handle o).ownerOutcome k t x o) t x.handle w) :
    p.Changes (p.takeOutcome k t x o) t x.handle w := by
  rw [Part.takeOutcome_of_owner hlive hr hcount hstate himpaired rfl (by rw [hv.engine]; exact hask)]
  exact hv

theorem Part.takeOutcome_lapsed {p : Part} {t : TreeId} {x : Expectation} (k : Clock) (hlive : x.orphan = false) :
    p.takeOutcome k t x .lapsed =
      (if p.inRefind t x.handle then p else p.ownerOutcome k t x .lapsed).settleAsk k t := by
  cases hin : p.inRefind t x.handle <;> simp [Part.takeOutcome, Part.countAndJudge, Part.countOutcome, hlive, hin]

/-- Settles O37: the entry leaves the list, a miss is counted where DARK is not present, and the purpose's owner takes the
outcome. -/
theorem expectationExpires : Obligations.ExpectationExpires := by
  unfold Obligations.ExpectationExpires
  intro s t pos x rest now q hs h1 h2 hx hpassed hnow hq
  have hexec := exec_expectationExpiry_of_passed hs h1 h2 hx hpassed
  rw [← hnow, ← hq] at hexec
  have hraised : q.raised = [] := by rw [hq]; exact hs.2
  have htree : q.tree t = { s.part.tree t with expectations := rest } := by rw [hq, Part.tree_modTree_self]
  have hengine : q.engine t = s.part.engine t := by rw [Part.engine, htree]; rfl
  have hrecord : ∀ n, q.record? t n = s.part.record? t n := fun n => by rw [hq, Part.record?_modTree]
  have hcycle : now.cycle = s.clock.cycle := by rw [hnow]; rfl
  have htenth : now.tenth = s.clock.tenth := by rw [hnow]; rfl
  have hnext : now.nextStart = s.clock.cycle + 1 := by
    rw [hnow]
    exact if_pos hs.1
  have hquiet : ∀ {o : MatchOutcome} {u : Record},
      (if (s.part.tree t).guard.present.dark then .lapsed else .missed) = o →
      q.Changes (q.takeOutcome now t x o) t x.handle u →
      ∃ v, exec (.expectationExpiry t pos) s = .next ((s.atPos pos).afterEvent v [])
        ∧ q.onlyRecord v t x.handle ∧ v.record? t x.handle = some u := by
    rintro o u rfl hchange
    exact ⟨_, hexec.trans (congrArg _ (State.withPart_quiet _ (hchange.raised.trans hraised))), hchange.1, hchange.2⟩
  refine ⟨fun hlive => hexec, fun hask => ⟨fun horphan => ?_, fun r hlive hdark hr => ?_, ?_, ?_⟩⟩
  · rw [hexec, Part.takeOutcome_of_orphan horphan, Part.settleAsk_of_none _ (hengine ▸ hask), State.withPart_quiet _ hraised]
  · have hr' : q.record? t x.handle = some r := (hrecord _).trans hr
    have hlapsed : (if (s.part.tree t).guard.present.dark then MatchOutcome.lapsed else .missed) = .lapsed := if_pos hdark
    rw [hlapsed] at hexec
    have hkept : q.Changes (q.countOutcome now t x.handle .lapsed) t x.handle r := Part.Changes.refl hr'
    refine ⟨fun hpurpose => ?_, fun hpurpose hstate => ?_, fun slot kind hpurpose hreport hstate => ?_⟩
    · rw [hexec, Part.takeOutcome_lapsed now hlive, Part.ownerOutcome_of_upkeep hpurpose, Part.upkeepOutcome, ite_self,
        Part.settleAsk_of_none _ (hengine ▸ hask), State.withPart_quiet _ hraised]
    · refine hquiet hlapsed (Part.takeOutcome_of_changes hlive hr' (hengine ▸ hask) hkept hstate rfl ?_)
      rw [Part.ownerOutcome_of_check hpurpose]
      exact hkept.checkJudged
    · have hpoll := hkept.ownerOutcome_poll_bad (k := now) hpurpose hreport (o := .lapsed) (Or.inr (Or.inl rfl))
      rw [if_pos hstate, hcycle] at hpoll
      exact hquiet hlapsed (Part.takeOutcome_of_changes hlive hr' (hengine ▸ hask) hkept (by rw [hstate]; exact nofun) rfl hpoll)
  · rintro e hlive hpurpose he hserving hawaiting hnoask hstate hentries asked hasked
    have hbad : ∀ {v : Part} {o : MatchOutcome}, v.tree t = q.tree t → (o = .missed ∨ o = .lapsed) →
        v.ownerOutcome now t x o = v.modEngine t fun _ =>
          { e with
            awaiting := false
            lastBad := e.lastBad || e.state == .streaming
            ask := some (s.clock.cycle + 1) } := by
      intro v o hv ho
      have hve : e = v.engine t := by rw [Part.engine, hv, htree, he]; rfl
      rw [Part.ownerOutcome_status_bad hve hpurpose hserving hawaiting hnoask hstate (by rw [hv, htree]; exact hentries) ho,
        hnext]
      exact Part.modEngine_congr v t (by rw [← hask, ← he])
    have hafter : ∀ v : Part, ((v.modEngine t fun _ =>
          { e with
            awaiting := false
            lastBad := e.lastBad || e.state == .streaming
            ask := some (s.clock.cycle + 1) }).engine t).askDeferred = false := by
      intro v
      rw [Part.engine_modEngine_self, he]
      exact hask
    refine ⟨fun hdark hnot => ?_, fun r hdark hr hstate hmore => ?_⟩
    · have hin : q.inRefind t x.handle = false := by
        rw [Part.inRefind, hrecord]
        cases hr : s.part.record? t x.handle with
        | none => rfl
        | some r => exact beq_eq_false_iff_ne.mpr (hnot r hr)
      rw [hexec, if_pos hdark, Part.takeOutcome_lapsed now hlive, hin, if_neg Bool.false_ne_true, hbad rfl (Or.inr rfl),
        Part.settleAsk_of_none _ (hafter q), ← hasked, State.withPart_quiet _ (by rw [hasked]; exact hraised)]
    · have hr' : q.record? t x.handle = some r := (hrecord _).trans hr
      have hcount := Part.countMiss_of_more (k := now) (n := r.missCount + 1) (limit := (s.part.tree t).settings.missLimit) hr'
        (by rw [htree]) (if_neg (by omega)).symm (Or.inr hmore)
      have howner := hbad (hcount.tree t) (o := .missed) (Or.inl rfl)
      have htake := Part.takeOutcome_of_owner (o := .missed) hlive hr' hcount (by rw [hstate]; exact nofun) rfl howner (hafter _)
      have hchange : asked.Changes (q.takeOutcome now t x .missed) t x.handle { r with missCount := r.missCount + 1 } := by
        rw [htake, hasked]
        exact hcount.modTree t _
      refine ⟨_, ?_, hchange⟩
      rw [hexec, hdark]
      exact congrArg _ (State.withPart_quiet _ (hchange.raised.trans (by rw [hasked]; exact hraised)))
  · intro r n limit hlive hdark hr hlimit hn
    have hr' : q.record? t x.handle = some r := (hrecord _).trans hr
    have hmissed : (if (s.part.tree t).guard.present.dark then MatchOutcome.lapsed else .missed) = .missed := by
      rw [hdark]
      rfl
    rw [hmissed] at hexec
    have hlimit' : limit = (q.tree t).settings.missLimit := by rw [htree]; exact hlimit
    have hmore := fun h => Part.countMiss_of_more (k := now) hr' hlimit' hn h
    have hask' : (q.engine t).askDeferred = false := hengine ▸ hask
    have hdeadline : now.tenth + BitVec.ofNat 32 (10 * (q.tree t).settings.refindTime) =
        s.clock.tenth + BitVec.ofNat 32 (10 * (s.part.tree t).settings.refindTime) := by rw [htenth, htree]
    have hqueue : (q.tree t).pushQueue = (s.part.tree t).pushQueue := by rw [htree]
    have hraising : ∀ {w left : Part} {u : Record} {m : Notice}, q.LeftByRefind left t x.handle →
        left.Changes w t x.handle u →
        ((w.engine t).askDeferred = false → q.takeOutcome now t x .missed = { w with raised := q.raised ++ [m] }) →
        ∃ v, exec (.expectationExpiry t pos) s = .next ((s.atPos pos).afterEvent v [m])
          ∧ left.onlyRecord v t x.handle ∧ v.record? t x.handle = some u := by
      intro w left u m hleft hchange htake
      refine ⟨w, ?_, hchange⟩
      rw [hexec, htake (by rw [hchange.engine]; exact hleft.askDeferred hask'), hraised]
      exact congrArg _ (State.withPart_raising _ (hchange.raised.trans (hleft.raised.trans hraised)) [m])
    refine ⟨fun hpurpose hstate hfew => ?_, fun slot kind hpurpose hreport hstate hfew => ?_,
      fun hpurpose hstate hfew => ?_, fun hpurpose hstate hlast hserving => ?_, fun hstate hlast left hleft => ?_⟩
    · have hcount := hmore (Or.inr hfew)
      exact hquiet hmissed (Part.takeOutcome_of_changes hlive hr' hask' hcount (by grind) rfl
        (hcount.ownerOutcome_upkeep_missed hpurpose))
    · have hcount := hmore (Or.inr hfew)
      have hpoll := hcount.ownerOutcome_poll_bad (k := now) hpurpose hreport (o := .missed) (Or.inl rfl)
      rw [if_pos (by exact hstate), hcycle] at hpoll
      exact hquiet hmissed (Part.takeOutcome_of_changes hlive hr' hask' hcount (by grind) rfl hpoll)
    · have hcount := hmore (Or.inl (by grind))
      refine hquiet hmissed (Part.takeOutcome_of_changes hlive hr' hask' hcount (by grind) rfl ?_)
      rw [Part.ownerOutcome_of_check hpurpose]
      exact hcount.checkJudged.checkFailed_more hfew
    · have hcount := hmore (Or.inl (by grind))
      obtain ⟨w, howner, hchange⟩ := hcount.checkJudged.checkFailed_last (k := now) (by exact Nat.le_of_succ_le_succ hlast)
        (by rw [hengine]; exact hserving)
      rw [← hdeadline]
      refine hraising (Or.inl ⟨by rw [hengine]; exact hserving, rfl⟩) hchange fun hwask => ?_
      refine Part.takeOutcome_of_owner (o := .missed) hlive hr' hcount (by grind) rfl ?_ hwask
      rw [Part.ownerOutcome_of_check hpurpose]
      exact howner.trans (congrArg (fun y => { w with
        raised := q.raised ++ [Notice.terminal t x.handle r.tag y .refind .checkFail] }) hstate)
    · have hleft' : q.LeftByRefind left t x.handle := by rwa [Part.LeftByRefind, hengine, hqueue]
      obtain ⟨w, hcount, hchange⟩ := ((Part.Changes.refl hr').modRecord (f := fun r => { r with missCount := n })
        fun _ => ⟨rfl, rfl⟩).enterRefind_left now hleft' .misses
      rw [← Part.countMiss_of_limit hr' hlimit' hn hstate.symm hlast] at hcount
      rw [← hdeadline]
      refine hraising hleft' hchange fun hwask => ?_
      have hu : (q.countOutcome now t x.handle .missed).record? t x.handle = _ :=
        (congrArg (Part.record? · t x.handle) hcount).trans hchange.2
      rw [Part.takeOutcome_of_refound rfl hlive hr' hu rfl (Bool.eq_false_or_eq_true _).symm]
      refine (Part.settleAsk_of_none _ ?_).trans hcount
      exact (congrArg (fun v : Part => (v.engine t).askDeferred) hcount).trans hwask

end Sys2Proof.Machine
end

section
/-!
PROOFS. To whom the dispatcher gives an arrival and what follows from a live entry's outcome (the statement O36).
-/

namespace Sys2Proof.Machine

/-! ### A part changed in one record, with the notices raised -/

/-- The part `q` is `p` but for one record, which is `r`, and for the notices `ns` raised after. -/
def Part.Raises (p q : Part) (t : TreeId) (h : Nat) (r : Record) (ns : List Notice) : Prop :=
  ∃ v, q = { v with raised := p.raised ++ ns } ∧ p.Changes v t h r

section
variable {p q : Part} {t : TreeId} {h : Nat} {r : Record} {ns : List Notice}

theorem Part.Raises.refl (hr : p.record? t h = some r) : p.Raises p t h r [] :=
  ⟨p, by rw [List.append_nil], Part.Changes.refl hr⟩

variable (hc : p.Raises q t h r ns)
include hc

theorem Part.Raises.record? : q.record? t h = some r := by
  obtain ⟨v, rfl, hv⟩ := hc
  exact hv.2

theorem Part.Raises.reportTable : q.reportTable = p.reportTable := by
  obtain ⟨v, rfl, hv⟩ := hc
  exact hv.reportTable

theorem Part.Raises.modRecord {f : Record → Record} (hf : ∀ r, (f r).tree = r.tree ∧ (f r).handle = r.handle) :
    p.Raises (q.modRecord t h f) t h (f r) ns := by
  obtain ⟨v, rfl, hv⟩ := hc
  exact ⟨v.modRecord t h f, rfl, hv.modRecord hf⟩

/-- A HEALTH notice of the record (R128). -/
theorem Part.Raises.raiseHealth (k : Clock) (event : HealthEvent) (errors : Nat) :
    p.Raises (q.raiseHealth k t h event errors) t h r
      (ns ++ [.health t h r.tag event r.state r.level r.missCount errors r.attention k.tenth]) := by
  have hr := hc.record?
  obtain ⟨v, rfl, hv⟩ := hc
  refine ⟨v, ?_, hv⟩
  simp only [Part.raiseHealth, hr, Part.raise, List.append_assoc]

end

/-! ### The counting of a reply (R123, R125, R127, R128) -/

section
variable {p : Part} {k : Clock} {t : TreeId} {h : Nat} {r : Record} (hr : p.record? t h = some r)
include hr

theorem Part.countClean_of_recovered (himpaired : r.impaired = true)
    (hcount : (p.tree t).settings.errorLimit ≤ r.errorCount) :
    p.Raises (p.countClean k t h) t h { r with missCount := 0, impaired := false, errorCount := 0 }
      [.health t h r.tag .recovered r.state r.level 0 r.errorCount r.attention k.tenth] := by
  have hclean : p.countClean k t h =
      ((p.modRecord t h fun r => { r with missCount := 0 }).modRecord t h fun r =>
        { r with impaired := false, errorCount := 0 }).raiseHealth k t h .recovered r.errorCount := by
    simp only [Part.countClean, hr]
    exact if_pos (by simp [himpaired, hcount])
  rw [hclean]
  exact (((Part.Raises.refl hr).modRecord (f := fun r => { r with missCount := 0 }) fun _ => ⟨rfl, rfl⟩).modRecord
    (f := fun r => { r with impaired := false, errorCount := 0 }) fun _ => ⟨rfl, rfl⟩).raiseHealth k .recovered r.errorCount

theorem Part.countClean_of_other (hnot : r.impaired = false ∨ r.errorCount < (p.tree t).settings.errorLimit) :
    p.Raises (p.countClean k t h) t h { r with missCount := 0 } [] := by
  have hclean : p.countClean k t h = p.modRecord t h fun r => { r with missCount := 0 } := by
    simp only [Part.countClean, hr]
    refine if_neg ?_
    rw [Bool.and_eq_true, decide_eq_true_eq, not_and, Nat.not_le]
    exact fun himpaired => hnot.resolve_left (by rw [himpaired]; exact Bool.noConfusion)
  rw [hclean]
  exact (Part.Raises.refl hr).modRecord fun _ => ⟨rfl, rfl⟩

variable {n limit : Nat} (hlimit : limit = (p.tree t).settings.errorLimit)
  (hn : n = if limit ≤ r.errorCount then r.errorCount else r.errorCount + 1)
include hlimit hn

theorem Part.countErrored_of_limit (h0 : limit ≠ 0) (hcount : limit ≤ n) (himpaired : r.impaired = false) :
    p.Raises (p.countErrored k t h) t h { r with errorCount := n, impaired := true, level := 3 }
      [.health t h r.tag .impaired r.state 3 r.missCount n r.attention k.tenth] := by
  have herrored : p.countErrored k t h =
      ((p.modRecord t h fun r => { r with errorCount := n }).modRecord t h fun r =>
        { r with impaired := true, level := 3 }).raiseHealth k t h .impaired n := by
    simp only [Part.countErrored, hr, ← hlimit, ← hn]
    exact if_pos (by simp [himpaired, h0, hcount])
  rw [herrored]
  exact (((Part.Raises.refl hr).modRecord (f := fun r => { r with errorCount := n }) fun _ => ⟨rfl, rfl⟩).modRecord
    (f := fun r => { r with impaired := true, level := 3 }) fun _ => ⟨rfl, rfl⟩).raiseHealth k .impaired n

theorem Part.countErrored_of_other (hnot : limit = 0 ∨ n < limit ∨ r.impaired = true) :
    p.Raises (p.countErrored k t h) t h { r with errorCount := n } [] := by
  have herrored : p.countErrored k t h = p.modRecord t h fun r => { r with errorCount := n } := by
    simp only [Part.countErrored, hr, ← hlimit, ← hn]
    refine if_neg ?_
    simp only [Bool.and_eq_true, bne_iff_ne, decide_eq_true_eq, Bool.not_eq_true']
    rintro ⟨⟨h0, hcount⟩, himpaired⟩
    obtain h | h | h := hnot
    · exact h0 h
    · exact Nat.not_le.mpr h hcount
    · exact Bool.false_ne_true (himpaired.symm.trans h)
  rw [herrored]
  exact (Part.Raises.refl hr).modRecord fun _ => ⟨rfl, rfl⟩

end

/-- A record as a rise of its attention flag leaves it (R127, R168). -/
def Record.attentionRisen (r : Record) (on : Bool) (c : CycleNo) : Record :=
  { r with
    attention := true
    attentionMark := some (r.attentionMark.getD c)
    polls :=
      if on = true ∧ r.polls.a.due = none then { r.polls with a := { r.polls.a with due := some c } } else r.polls }

section
variable {p q : Part} {k : Clock} {t : TreeId} {h : Nat} {r : Record} {ns : List Notice} (hc : p.Raises q t h r ns)
include hc

theorem Part.Raises.takeAttention_rise (hattention : r.attention = false) :
    p.Raises (q.takeAttention k t h true) t h (r.attentionRisen p.reportTable.a.on k.cycle)
      (ns ++ [.health t h r.tag .attention r.state r.level r.missCount r.errorCount true k.tenth]) := by
  have htake : q.takeAttention k t h true =
      ((q.modRecord t h fun r => { r with attention := true }).raiseHealth k t h .attention r.errorCount).modRecord t h fun r =>
        r.attentionRise p.reportTable k.cycle := by
    simp only [Part.takeAttention, hc.record?, hattention, hc.reportTable]
    rfl
  rw [htake]
  have hrise := ((hc.modRecord (f := fun r => { r with attention := true }) fun _ => ⟨rfl, rfl⟩).raiseHealth k .attention
    r.errorCount).modRecord (f := fun r => r.attentionRise p.reportTable k.cycle) fun _ => ⟨rfl, rfl⟩
  have hrisen : ({ r with attention := true } : Record).attentionRise p.reportTable k.cycle =
      r.attentionRisen p.reportTable.a.on k.cycle := by
    simp only [Record.attentionRise, Record.attentionRisen, Bool.and_eq_true, Option.isNone_iff_eq_none]
  rwa [hrisen] at hrise

theorem Part.Raises.takeAttention_same {flag : Bool} (hnot : ¬(flag = true ∧ r.attention = false)) :
    p.Raises (q.takeAttention k t h flag) t h { r with attention := flag } ns := by
  have htake : q.takeAttention k t h flag = q.modRecord t h fun r => { r with attention := flag } := by
    simp only [Part.takeAttention, hc.record?]
    exact if_neg (by rwa [Bool.and_eq_true, Bool.not_eq_true'])
  rw [htake]
  exact hc.modRecord fun _ => ⟨rfl, rfl⟩

end

/-- The attention flag that a reply carries, where it carries one (R127). -/
theorem Part.Raises.takeFlag {p q : Part} {t : TreeId} {h : Nat} {r : Record} {ns : List Notice} (hc : p.Raises q t h r ns)
    (k : Clock) {flag : Option Bool} {rise : Bool} (hrise : rise = true ↔ flag = some true ∧ r.attention = false) :
    p.Raises (flag.elim q (q.takeAttention k t h)) t h
      (if rise then r.attentionRisen p.reportTable.a.on k.cycle else { r with attention := flag.getD r.attention })
      (ns ++ if rise then
          [.health t h r.tag .attention r.state r.level r.missCount r.errorCount true k.tenth]
        else []) := by
  cases rise with
  | true =>
    obtain ⟨rfl, hattention⟩ := hrise.mp rfl
    exact hc.takeAttention_rise hattention
  | false =>
    have hnot : ¬(flag = some true ∧ r.attention = false) := fun h => Bool.false_ne_true (hrise.mpr h)
    rw [if_neg Bool.false_ne_true, if_neg Bool.false_ne_true, List.append_nil]
    cases flag with
    | none => exact hc
    | some f => exact hc.takeAttention_same fun ⟨hf, hattention⟩ => hnot ⟨congrArg some hf, hattention⟩

/-- The part in which a record has taken a flag, its notices written out. -/
theorem Part.Raises.exists_flagged {p q : Part} {t : TreeId} {h : Nat} {r mid : Record} {ns : List Notice}
    (hc : p.Raises q t h mid ns) (k : Clock) {flag : Option Bool} {rise : Bool}
    (hrise : rise = true ↔ flag = some true ∧ r.attention = false) (htag : mid.tag = r.tag)
    (hattention : mid.attention = r.attention) (hmark : mid.attentionMark = r.attentionMark) (hpolls : mid.polls = r.polls) :
    ∃ v, flag.elim q (q.takeAttention k t h) =
        { v with raised := p.raised ++ ns ++
            if rise then
              [.health t h r.tag .attention mid.state mid.level mid.missCount mid.errorCount true k.tenth]
            else [] }
      ∧ p.onlyRecord v t h
      ∧ v.record? t h =
        some (if rise then
          { mid with
            attention := true
            attentionMark := some (r.attentionMark.getD k.cycle)
            polls :=
              if p.reportTable.a.kind ≠ 0 ∧ r.polls.a.due = none then
                { r.polls with a := { r.polls.a with due := some k.cycle } }
              else r.polls }
        else { mid with attention := flag.getD r.attention }) := by
  obtain ⟨v, hv, hchange, hrecord⟩ := hc.takeFlag k (flag := flag) (rise := rise) (by rw [hattention]; exact hrise)
  refine ⟨v, ?_, hchange, hrecord.trans (congrArg some ?_)⟩
  · rw [hv, htag, ← List.append_assoc]
  · have hon : p.reportTable.a.on = true ↔ p.reportTable.a.kind ≠ 0 := bne_iff_ne
    simp only [Record.attentionRisen, hattention, hmark, hpolls, hon]

/-! ### The owner of a POLL (R168) -/

theorem Part.ownerOutcome_poll_report {p : Part} {k : Clock} {t : TreeId} {x : Expectation} {r : Record} {slot : ReportSlot}
    {polled : Byte} (hpurpose : x.purpose = .poll) (hreport : x.report = some (slot, polled))
    (hr : p.record? t x.handle = some r) (e : Int) (flag : Bool) (kind : Byte) (data : List Byte) :
    p.Changes (p.ownerOutcome k t x (.answered e flag (.report kind data))) t x.handle
      (if (p.reportTable.get slot).kind = polled ∧ kind = polled ∧ (r.state = .inService ∨ r.state = .loading) then
        { r with reports := r.reports.set slot ⟨true, kind, data, 0, false⟩ }
      else r) := by
  have howner : p.ownerOutcome k t x (.answered e flag (.report kind data)) =
      p.modRecord t x.handle fun r =>
        if (p.reportTable.get slot).kind = polled ∧ kind = polled ∧ (r.state = .inService ∨ r.state = .loading) then
          { r with reports := r.reports.set slot ⟨true, kind, data, 0, false⟩ }
        else r := by
    simp only [Part.ownerOutcome, hpurpose, hreport, pollOutcomeOf, Record.pollOutcome, Bool.and_eq_true, Bool.or_eq_true,
      beq_iff_eq, and_assoc]
  rw [howner]
  exact (Part.Changes.refl hr).modRecord fun r => by split <;> exact ⟨rfl, rfl⟩

/-! ### A deferred ask (R111) -/

theorem Part.settleAsk_of_deferred {p : Part} {k : Clock} {t : TreeId} {e : Engine} {h : Nat} (he : e = p.engine t)
    (hdeferred : e.askDeferred = true) (hserving : e.serving = some h) (hawaiting : e.awaiting = false)
    (hask : e.ask = none) (hentries : ∀ y ∈ (p.tree t).expectations, y.handle = h → y.purpose ≠ .loadStatus) :
    p.settleAsk k t =
      p.modEngine t fun _ =>
        { e with
          askDeferred := false
          ask :=
            if e.state = .preparing ∨ e.state = .committing ∨ (e.state = .streaming ∧
                (16 ≤ e.cellCount ∨ (e.sendPointer = e.imageLength ∧ e.ackPoint ≠ e.imageLength) ∨ e.lastBad = true)) then
              some k.nextStart
            else none } := by
  obtain ⟨q, hq⟩ : ∃ q, q = p.modEngine t fun e => { e with askDeferred := false } := ⟨_, rfl⟩
  have hqe : q.engine t = { e with askDeferred := false } := by rw [hq, Part.engine_modEngine_self, he]
  have hqx : (q.tree t).expectations = (p.tree t).expectations := by
    rw [hq, Part.modEngine, Part.tree_modTree_self]
  have hraise : q.raiseAsk k t = p.modEngine t fun _ => { e with askDeferred := false, ask := some k.nextStart } := by
    rw [Part.raiseAsk_of_free k (by rw [hqe]; exact hserving) (by rw [hqe]; exact hawaiting) (by rw [hqe]; exact hask)
      (by rw [hqx]; exact hentries), hq, Part.modEngine, Part.modEngine, Part.modTree_modTree]
    exact Part.modTree_congr p t (by rw [he]; rfl)
  have hkeep : q = p.modEngine t fun _ => { e with askDeferred := false, ask := none } := by
    rw [hq]
    exact Part.modEngine_congr p t (by rw [← he, ← hask])
  have hsettle : p.settleAsk k t =
      match e.state with
      | .preparing | .committing => q.raiseAsk k t
      | .streaming => q.streamAsk k t
      | _ => q := by
    rw [Part.settleAsk, ← he, hdeferred, hq]
    rfl
  have hcalls : (q.engine t).callsForAsk = true ↔ e.state = .streaming ∧
      (16 ≤ e.cellCount ∨ (e.sendPointer = e.imageLength ∧ e.ackPoint ≠ e.imageLength) ∨ e.lastBad = true) := by
    rw [hqe]
    simp [Engine.callsForAsk, or_assoc]
  rw [hsettle]
  by_cases hcase : e.state = .preparing ∨ e.state = .committing ∨ (e.state = .streaming ∧
      (16 ≤ e.cellCount ∨ (e.sendPointer = e.imageLength ∧ e.ackPoint ≠ e.imageLength) ∨ e.lastBad = true))
  · rw [if_pos hcase, ← hraise]
    obtain hs | hs | hs := hcase
    · rw [hs]
    · rw [hs]
    · rw [hs.1]
      exact if_pos (hcalls.mpr hs)
  · rw [if_neg hcase]
    refine Eq.trans ?_ hkeep
    cases hs : e.state
    case preparing => exact absurd (Or.inl hs) hcase
    case committing => exact absurd (Or.inr (Or.inl hs)) hcase
    case streaming => exact if_neg fun h => hcase (Or.inr (Or.inr (hcalls.mp h)))
    all_goals rfl

/-! ### To whom an arrival goes (R14, R41, R115) -/

/-- A tree from whose waiting arrivals one has been taken. -/
def Tree.taking (a : Arrival) (T : Tree) : Tree := { T with arrivals := T.arrivals.erase a }

section
variable {p : Part} {k : Clock} {t : TreeId} {a : Arrival}

theorem Part.dispatch_of_span {win : Window} (hphase : (p.tree t).scheduler.phase = .listening win)
    (hin : win.contains a.time = true) :
    p.dispatch k t a = p.modTree t fun T => (T.taking a).judgeInSpan win a.time a.content := by
  have hwindow : ((p.modTree t (Tree.taking a)).tree t).window?.filter (·.contains a.time) = some win := by
    rw [Part.tree_modTree_self, Tree.window?, show ((p.tree t).taking a).scheduler.phase = .listening win from hphase,
      Option.filter_some, if_pos hin]
  have hdispatch : p.dispatch k t a = (p.modTree t (Tree.taking a)).modTree t (·.judgeInSpan win a.time a.content) := by
    rw [Part.dispatch, show (p.modTree t fun T => { T with arrivals := T.arrivals.erase a }) = p.modTree t (Tree.taking a)
      from rfl]
    simp only [hwindow]
  rw [hdispatch, Part.modTree_modTree]

section
variable (hout : ∀ win, (p.tree t).scheduler.phase = .listening win → win.contains a.time = false)
include hout

theorem Part.window_filter_taking : ((p.modTree t (Tree.taking a)).tree t).window?.filter (·.contains a.time) = none := by
  rw [Part.tree_modTree_self, Tree.window?]
  cases hphase : (p.tree t).scheduler.phase with
  | listening win =>
    rw [show ((p.tree t).taking a).scheduler.phase = .listening win from hphase, Option.filter_some, hout win hphase]
    rfl
  | idle =>
    rw [show ((p.tree t).taking a).scheduler.phase = .idle from hphase]
    rfl
  | leadIn w =>
    rw [show ((p.tree t).taking a).scheduler.phase = .leadIn w from hphase]
    rfl

theorem Part.dispatch_of_entry {x : Expectation} (hx : (p.tree t).expectations.find? (·.inRange a.time) = some x) :
    p.dispatch k t a = (p.modTree t (Tree.taking a)).matchArrival k t x a.time a.content := by
  have hentry : (p.modTree t (Tree.taking a)).entryFor t a.time = some x := by
    rw [Part.entryFor, Part.tree_modTree_self]
    exact hx
  rw [Part.dispatch, show (p.modTree t fun T => { T with arrivals := T.arrivals.erase a }) = p.modTree t (Tree.taking a) from rfl]
  simp only [Part.window_filter_taking hout, hentry]

theorem Part.dispatch_of_stray (hx : (p.tree t).expectations.find? (·.inRange a.time) = none) :
    p.dispatch k t a = (p.modTree t (Tree.taking a)).strayEvent k t := by
  have hentry : (p.modTree t (Tree.taking a)).entryFor t a.time = none := by
    rw [Part.entryFor, Part.tree_modTree_self]
    exact hx
  rw [Part.dispatch, show (p.modTree t fun T => { T with arrivals := T.arrivals.erase a }) = p.modTree t (Tree.taking a) from rfl]
  simp only [Part.window_filter_taking hout, hentry]

end

end

theorem Expectation.inRange_iff (x : Expectation) (time : TreeTime) :
    x.inRange time = true ↔ (timeDiff time x.expected).natAbs ≤ 2048 := decide_eq_true_iff

/-- The first entry in range is the one an arrival goes to (R115). -/
theorem find?_inRange_of_split {before after : List Expectation} {x : Expectation} {time : TreeTime}
    (hbefore : ∀ y ∈ before, 2048 < (timeDiff time y.expected).natAbs) (hx : (timeDiff time x.expected).natAbs ≤ 2048) :
    (before ++ x :: after).find? (·.inRange time) = some x ∧ (before ++ x :: after).erase x = before ++ after := by
  have hnot : ∀ y ∈ before, ¬y.inRange time = true := fun y hy h =>
    Nat.not_le.mpr (hbefore y hy) ((y.inRange_iff time).mp h)
  refine ⟨?_, ?_⟩
  · rw [List.find?_append, List.find?_eq_none.mpr hnot, Option.none_or,
      List.find?_cons_of_pos (p := fun y : Expectation => y.inRange time) ((x.inRange_iff time).mpr hx)]
  · rw [List.erase_append_right _ fun hmem => hnot x hmem ((x.inRange_iff time).mpr hx), List.erase_cons_head]

/-! ### Inside the hello span (R42, R43) -/

theorem Tree.modWindow_of_listening {T : Tree} {win : Window} (h : T.scheduler.phase = .listening win) (f : Window → Window) :
    T.modWindow f = { T with scheduler := { T.scheduler with phase := .listening (f win) } } := by
  simp only [Tree.modWindow, h]

theorem Tree.judgeInSpan_of_other {T : Tree} {win : Window} {time : TreeTime} {c : Content}
    (h : ∀ f q n at' number slice tag maker, c ≠ .valid f q ⟨n, at', .hello number slice tag maker⟩) :
    T.judgeInSpan win time c = T.collide := by
  cases c with
  | valid f q reply =>
    obtain ⟨n, at', body⟩ := reply
    cases body with
    | hello number slice tag maker => exact absurd rfl (h f q n at' number slice tag maker)
    | echo => rfl
    | loadStatus st => rfl
    | report kind data => rfl
  | errored => rfl
  | lightOnly => rfl

theorem Tree.judgeInSpan_of_hello {T : Tree} {win : Window} (hphase : T.scheduler.phase = .listening win) (time : TreeTime)
    (f : Nat) (q : QuarterNo) (n : Nat) (at' : Bool) (number : BitVec 8) (slice : Nat) (tag : Tag) (maker : Maker) :
    T.judgeInSpan win time (.valid f q ⟨n, at', .hello number slice tag maker⟩) =
      if number = T.scheduler.number then
        { T with
          counters := { T.counters with hellos := T.counters.hellos + 1 }
          scheduler := { T.scheduler with phase := .listening { win with h := min 65535 (win.h + 1) } }
          hellos := T.hellos ++ [⟨f, q, time, slice, tag, maker, number, win.w⟩] }
      else
        { T with
          counters := { T.counters with
            hellos := T.counters.hellos + 1
            implausible := T.counters.implausible + 1 } } := by
  by_cases hnumber : number = T.scheduler.number
  · rw [if_pos hnumber]
    refine (if_neg (by rw [hnumber, bne_self_eq_false]; exact Bool.false_ne_true)).trans ?_
    rw [Tree.modWindow_of_listening (by exact hphase)]
  · rw [if_neg hnumber]
    exact if_pos (by rwa [bne_iff_ne])

/-! ### At an entry (R115) -/

/-- A tree whose dispatcher has taken an arrival for an entry. -/
def Tree.matched (a : Arrival) (xs : List Expectation) (foreign : BitVec 32) (T : Tree) : Tree :=
  { T with
    arrivals := T.arrivals.erase a
    expectations := xs
    counters := { T.counters with foreign := T.counters.foreign + foreign } }

theorem Part.matchArrival_taking {p : Part} {k : Clock} {t : TreeId} {a : Arrival} {x : Expectation} {xs : List Expectation}
    (hxs : (p.tree t).expectations.erase x = xs) :
    (p.modTree t (Tree.taking a)).matchArrival k t x a.time a.content =
      (p.modTree t (Tree.matched a xs (if (judgeArrival x a.time a.content).2 then 1 else 0))).takeOutcome k t x
        (judgeArrival x a.time a.content).1 := by
  subst hxs
  rcases hjudge : judgeArrival x a.time a.content with ⟨o, foreign⟩
  rw [Part.matchArrival, hjudge]
  cases foreign with
  | true =>
    simp only [if_true, Part.removeEntry, Part.modExpectations, Part.modCounters, Part.modTree_modTree]
    exact congrArg (Part.takeOutcome · k t x _) (Part.modTree_congr p t rfl)
  | false =>
    simp only [Bool.false_eq_true, if_false, Part.removeEntry, Part.modExpectations, Part.modTree_modTree]
    refine congrArg (Part.takeOutcome · k t x _) (Part.modTree_congr p t ?_)
    simp only [Tree.taking, Tree.matched, BitVec.ofNat_eq_ofNat, BitVec.add_zero]

theorem Purpose.callsFor_iff (u : Purpose) (body : ReplyBody) :
    u.callsFor body = true ↔
      body = .echo ∧ (u = .check ∨ u = .upkeep) ∨ (∃ st, body = .loadStatus st) ∧ u = .loadStatus
        ∨ (∃ kind data, body = .report kind data) ∧ u = .poll := by
  cases u <;> cases body <;> simp [Purpose.callsFor]

section
variable {x : Expectation} {time : TreeTime} {f : Nat} {q : QuarterNo} {reply : TreeReply}

theorem judgeArrival_of_foreign (h : reply.handle ≠ x.handle) :
    judgeArrival x time (.valid f q reply) = (.missed, true) := if_pos (by rwa [bne_iff_ne])

theorem judgeArrival_of_own (h : reply.handle = x.handle) :
    judgeArrival x time (.valid f q reply) =
      (if x.purpose.callsFor reply.body then .answered (timeDiff time x.expected) reply.attention reply.body
       else .errored (some reply.attention), false) := by
  rw [judgeArrival, if_neg (by rw [h, bne_self_eq_false]; exact Bool.false_ne_true)]
  split <;> rfl

end

/-- The foreign count after an arrival taken for an entry (R115). -/
theorem judgeArrival_foreign (x : Expectation) (time : TreeTime) (c : Content) (n : BitVec 32) :
    n + (if (judgeArrival x time c).2 then 1 else 0) =
      match c with
      | .valid _ _ reply => if reply.handle = x.handle then n else n + 1
      | _ => n := by
  have hzero : n + 0 = n := BitVec.add_zero n
  cases c with
  | valid f q reply =>
    by_cases h : reply.handle = x.handle
    · rw [judgeArrival_of_own h]
      exact hzero.trans (if_pos h).symm
    · rw [judgeArrival_of_foreign h]
      exact (if_neg h).symm
  | errored => exact hzero
  | lightOnly => exact hzero

/-! ### A stray (R174) -/

/-- A tree whose dispatcher has counted a stray. -/
def Tree.strayed (a : Arrival) (T : Tree) : Tree :=
  { T with
    arrivals := T.arrivals.erase a
    counters := { T.counters with stray := T.counters.stray + 1 }
    guard := { T.guard with strayCount := min 255 (T.guard.strayCount + 1) } }

theorem Part.strayEvent_taking (p : Part) (k : Clock) (t : TreeId) (a : Arrival) :
    (p.modTree t (Tree.taking a)).strayEvent k t =
      (if (p.tree t).settings.guardMask.stray = true ∧ (p.tree t).guard.present.stray = false
          ∧ (p.tree t).settings.strayThreshold ≤ min 255 ((p.tree t).guard.strayCount + 1) then
        (p.modTree t (Tree.strayed a)).arise k t .stray (min 255 ((p.tree t).guard.strayCount + 1))
       else p.modTree t (Tree.strayed a)) := by
  have hcounted : (((p.modTree t (Tree.taking a)).modCounters t fun c => { c with stray := c.stray + 1 }).modGuard t fun g =>
      { g with strayCount := min 255 (g.strayCount + 1) }) = p.modTree t (Tree.strayed a) := by
    rw [Part.modCounters, Part.modGuard, Part.modTree_modTree, Part.modTree_modTree]
    exact Part.modTree_congr p t rfl
  rw [Part.strayEvent, hcounted]
  simp only [Part.tree_modTree_self, Bool.and_eq_true, Bool.not_eq_true', decide_eq_true_eq, and_assoc]
  rfl

section
variable {p : Part} {k : Clock} {t : TreeId} {measure : Nat}

theorem Part.arise_stray_of_hush (h : (p.tree t).guard.hush = true) :
    p.arise k t .stray measure =
      p.modTree t fun T => { T with guard :=
        ⟨true, { T.guard.present with stray := true }, { T.guard.seen with stray := true }, T.guard.strayCount, none⟩ } := by
  simp only [Part.arise, h, if_true]
  exact Part.modTree_congr p t (by simp [Factors.put, h])

theorem Part.arise_stray_of_clear (h : (p.tree t).guard.hush = false) :
    p.arise k t .stray measure =
      { p.modTree t fun T => ({ T with guard :=
          ⟨true, { T.guard.present with stray := true }, ⟨true, false, false⟩, T.guard.strayCount, none⟩ } : Tree).cancelLeadIn with
        raised := p.raised ++
          [.hush t true ⟨true, false, false⟩ ⟨true, false, false⟩ measure k.cycle k.tenth] } := by
  simp only [Part.arise, h, Bool.false_eq_true, if_false, Part.raise_modTree, Part.modGuard, Part.modTree_modTree]
  exact congrArg (Part.raise · _) (Part.modTree_congr p t rfl)

end

theorem exec_arrivalDispatch_of_next {s : State} {t : TreeId} {a : Arrival} (hs : s.Settled)
    (ha : (s.part.tree t).nextArrival s.clock.treeTime = some a) :
    exec (.arrivalDispatch t) s = .next (s.withPart (s.part.dispatch s.clock t a)) := by
  refine congrArg Host.Outcome.next ?_
  rw [hs.ready, State.arrivalDispatch, ha]
  rfl

/-- Settles O36: the window, an entry or the stray counter takes the arrival; then the outcome of a live entry, its counting,
the deferred ask and the owner of a POLL. -/
theorem dispatchGivesOwner : Obligations.DispatchGivesOwner := by
  unfold Obligations.DispatchGivesOwner
  refine ⟨fun s t a hs ha => ?_, fun p q k t x o r u hq hlive hr hu =>
      ⟨Part.takeOutcome_of_refound hq hlive hr hu, Part.takeOutcome_of_judged hq hlive hr hu,
        Part.takeOutcome_of_recovered hq hlive hr hu⟩,
    fun p k t e he => ⟨fun h => Part.settleAsk_of_none k (he ▸ h), fun h hdeferred hserving hawaiting hask hentries =>
      Part.settleAsk_of_deferred he hdeferred hserving hawaiting hask hentries⟩,
    fun p k t h n r S hr hS => ⟨fun o flag mid ns rise hcase hrise => ?_, fun hn => ⟨fun hmore => ?_,
      fun hstate hlimit hserving => ?_⟩, rfl⟩,
    fun p k t x r slot polled hpurpose hreport hr => ⟨fun e flag kind data v hv => ?_, fun o ho v hv => ?_⟩⟩
  · rw [exec_arrivalDispatch_of_next hs ha]
    refine ⟨fun win hphase hin => ⟨fun hother => ?_, fun f q h at' number slice tag maker hcontent => ⟨fun hnumber => ?_,
        fun hnumber => ?_⟩⟩,
      fun hout => ⟨fun before x after hx hbefore hrange => ⟨fun horphan hask => ?_, fun o foreign hlive hcase => ?_⟩,
        fun hfar => ?_⟩⟩
    · rw [Part.dispatch_of_span hphase hin]
      refine congrArg Host.Outcome.next ((hs.withPart_modTree t _).trans
        (congrArg (State.afterEvent s · []) (Part.modTree_congr s.part t ?_)))
      rw [Tree.judgeInSpan_of_other hother, Tree.collide, Tree.modWindow_of_listening (by exact hphase)]
      rfl
    · rw [Part.dispatch_of_span hphase hin]
      refine congrArg Host.Outcome.next ((hs.withPart_modTree t _).trans
        (congrArg (State.afterEvent s · []) (Part.modTree_congr s.part t ?_)))
      rw [hcontent, Tree.judgeInSpan_of_hello (by exact hphase)]
      exact if_pos hnumber
    · rw [Part.dispatch_of_span hphase hin]
      refine congrArg Host.Outcome.next ((hs.withPart_modTree t _).trans
        (congrArg (State.afterEvent s · []) (Part.modTree_congr s.part t ?_)))
      rw [hcontent, Tree.judgeInSpan_of_hello (by exact hphase)]
      exact if_neg hnumber
    · obtain ⟨hfind, herase⟩ := find?_inRange_of_split (after := after) hbefore hrange
      rw [← hx] at hfind herase
      rw [Part.dispatch_of_entry hout hfind, Part.matchArrival_taking herase, Part.takeOutcome_of_orphan horphan,
        Part.settleAsk_of_none _ (by rw [Part.engine, Part.tree_modTree_self]; exact hask)]
      refine congrArg Host.Outcome.next ((hs.withPart_modTree t _).trans
        (congrArg (State.afterEvent s · []) (Part.modTree_congr s.part t ?_)))
      exact congrArg (fun n => ({ s.part.tree t with
        arrivals := (s.part.tree t).arrivals.erase a
        expectations := before ++ after
        counters := { (s.part.tree t).counters with foreign := n } } : Tree)) (judgeArrival_foreign x a.time a.content _)
    · obtain ⟨hfind, herase⟩ := find?_inRange_of_split (after := after) hbefore hrange
      rw [← hx] at hfind herase
      obtain ⟨ho, hforeign⟩ : (judgeArrival x a.time a.content).1 = o
          ∧ (if (judgeArrival x a.time a.content).2 then 1 else 0) = foreign := by
        obtain ⟨f, q, reply, hcontent, hhandle, rfl, rfl⟩ | ⟨f, q, reply, hcontent, hhandle, rfl, hbody, rfl⟩
          | ⟨f, q, reply, hcontent, hhandle, rfl, hecho, hload, hreport, rfl⟩ | ⟨hcontent, rfl, rfl⟩ := hcase
        · rw [hcontent, judgeArrival_of_foreign hhandle]
          exact ⟨rfl, rfl⟩
        · rw [hcontent, judgeArrival_of_own hhandle, if_pos ((x.purpose.callsFor_iff _).mpr hbody)]
          exact ⟨rfl, rfl⟩
        · rw [hcontent, judgeArrival_of_own hhandle, if_neg fun hcalls => ?_]
          · exact ⟨rfl, rfl⟩
          · obtain ⟨hbody, hpurpose | hpurpose⟩ | ⟨⟨st, hbody⟩, hpurpose⟩ | ⟨⟨kind, data, hbody⟩, hpurpose⟩ :=
              (x.purpose.callsFor_iff _).mp hcalls
            · exact (hecho hbody).1 hpurpose
            · exact (hecho hbody).2 hpurpose
            · exact hload st hbody hpurpose
            · exact hreport kind data hbody hpurpose
        · obtain hcontent | hcontent := hcontent <;> rw [hcontent] <;> exact ⟨rfl, rfl⟩
      rw [Part.dispatch_of_entry hout hfind, Part.matchArrival_taking herase, ho, hforeign]
      rfl
    · have hfind : (s.part.tree t).expectations.find? (·.inRange a.time) = none :=
        List.find?_eq_none.mpr fun y hy h => Nat.not_le.mpr (hfar y hy) ((y.inRange_iff _).mp h)
      rw [Part.dispatch_of_stray hout hfind, Part.strayEvent_taking]
      refine ⟨fun hquiet => ?_, fun hmask hpresent hcount hhush => ?_, fun hmask hpresent hcount hhush => ?_⟩
      · rw [if_neg (by grind)]
        exact congrArg Host.Outcome.next (hs.withPart_modTree t _)
      · rw [if_pos ⟨hmask, hpresent, hcount⟩, Part.arise_stray_of_clear (by rw [Part.tree_modTree_self]; exact hhush),
          Part.modTree_modTree, show (s.part.modTree t (Tree.strayed a)).raised = [] from hs.2]
        exact congrArg Host.Outcome.next (State.withPart_raising s (by exact hs.2) _)
      · rw [if_pos ⟨hmask, hpresent, hcount⟩, Part.arise_stray_of_hush (by rw [Part.tree_modTree_self]; exact hhush),
          Part.modTree_modTree]
        exact congrArg Host.Outcome.next (hs.withPart_modTree t _)
  · subst hS
    obtain ⟨e, value, body, rfl, rfl, hclean⟩ | ⟨rfl, hn, herrored⟩ := hcase
    · obtain ⟨himpaired, hcount, rfl, rfl⟩ | ⟨hnot, rfl, rfl⟩ := hclean
      · exact (Part.countClean_of_recovered hr himpaired hcount).exists_flagged k hrise rfl rfl rfl rfl
      · exact (Part.countClean_of_other hr hnot).exists_flagged k hrise rfl rfl rfl rfl
    · have hcounted : p.countOutcome k t h (.errored flag) =
          flag.elim (p.countErrored k t h) ((p.countErrored k t h).takeAttention k t h) := by
        cases flag <;> rfl
      rw [hcounted]
      obtain ⟨h0, hcount, himpaired, rfl, rfl⟩ | ⟨hnot, rfl, rfl⟩ := herrored
      · exact (Part.countErrored_of_limit hr rfl hn h0 hcount himpaired).exists_flagged k hrise rfl rfl rfl rfl
      · exact (Part.countErrored_of_other hr rfl hn hnot).exists_flagged k hrise rfl rfl rfl rfl
  · exact Part.countMiss_of_more hr (congrArg Settings.missLimit hS) hn (by rwa [ne_eq, ne_eq] at hmore)
  · have henter := ((Part.Changes.refl hr).modRecord (f := fun r => { r with missCount := n }) fun _ =>
      ⟨rfl, rfl⟩).enterRefind k hserving .misses
    rw [← Part.countMiss_of_limit hr (congrArg Settings.missLimit hS) hn hstate hlimit, ← hS] at henter
    exact henter
  · rw [hv]
    exact Part.ownerOutcome_poll_report hpurpose hreport hr e flag kind data
  · rw [hv]
    exact (Part.Changes.refl hr).ownerOutcome_poll_bad hpurpose hreport ho

end Sys2Proof.Machine
end

section
/-!
PROOFS. What the activation controller makes of a measured hello (the statement O40).
-/

namespace Sys2Proof.Machine

/-! ### One record changed, through the changes of tags, orders and entries -/

/-- A change of every record that keeps the names. -/
theorem Part.record?_map (p : Part) {f : Record → Record} (hf : ∀ r, (f r).tree = r.tree ∧ (f r).handle = r.handle)
    (t : TreeId) (h : Nat) : ({ p with records := p.records.map f } : Part).record? t h = (p.record? t h).map f := by
  have hname : (fun r : Record => r.named t h) ∘ f = fun r => r.named t h := funext fun r => by
    simp [Record.named, hf r]
  rw [Part.record?, List.find?_map, hname]
  rfl

section
variable {p v : Part} {t : TreeId} {h : Nat} {r : Record} (hc : p.Changes v t h r)
include hc

theorem Part.Changes.map {f : Record → Record} (hf : ∀ r, (f r).tree = r.tree ∧ (f r).handle = r.handle) :
    ({ p with records := p.records.map f } : Part).Changes { v with records := v.records.map f } t h (f r) := by
  obtain ⟨⟨hv, hothers⟩, hr⟩ := hc
  refine ⟨⟨?_, fun t' h' hne => ?_⟩, ?_⟩
  · rw [hv]
  · rw [Part.record?_map v hf, Part.record?_map p hf, hothers t' h' hne]
  · rw [Part.record?_map v hf, hr]
    rfl

theorem Part.Changes.modEntry (g : Tag) (f : AdmitEntry → AdmitEntry) : (p.modEntry g f).Changes (v.modEntry g f) t h r := by
  obtain ⟨⟨hv, hothers⟩, hr⟩ := hc
  refine ⟨⟨?_, hothers⟩, hr⟩
  rw [hv]
  rfl

theorem Part.Changes.withdraw (u : TreeId) (f : Order → Bool) :
    (p.withdraw u f).Changes (v.withdraw u f) t h
      (if ((p.tree u).heldOrders.filter f).any (Order.isLagOf u r) then r.withUnsent false else r) := by
  rw [Part.withdraw_eq, Part.withdraw_eq, hc.tree]
  exact (hc.modTree u (Tree.withdrawn f)).map
    (f := fun r => if ((p.tree u).heldOrders.filter f).any (Order.isLagOf u r) then r.withUnsent false else r)
    fun r => by split <;> exact ⟨rfl, rfl⟩

/-- Any order offered on both sides: the lag-unsent mark of the record follows its LAG by tag (R91). -/
theorem Part.Changes.offerAny (u : TreeId) (o : Order) :
    (p.offer u o).Changes (v.offer u o) t h
      (if (p.tree u).enabled && o.isLagOf u r then r.withUnsent (!(p.tree u).accepts) else r) := by
  rw [Part.offer_eq p, Part.offer_eq v, Part.offer_records, Part.offer_records, hc.tree]
  exact (hc.modTree u (Tree.offered o)).map
    (f := fun r => if (p.tree u).enabled && o.isLagOf u r then r.withUnsent (!(p.tree u).accepts) else r)
    fun r => by split <;> exact ⟨rfl, rfl⟩

end

section
variable {p q : Part} {t : TreeId} {h : Nat} {r : Record} {ns : List Notice} (hc : p.Raises q t h r ns)
include hc

theorem Part.Raises.modEntry (g : Tag) (f : AdmitEntry → AdmitEntry) : (p.modEntry g f).Raises (q.modEntry g f) t h r ns := by
  obtain ⟨v, rfl, hv⟩ := hc
  exact ⟨v.modEntry g f, rfl, hv.modEntry g f⟩

theorem Part.Raises.withdraw (u : TreeId) (f : Order → Bool) :
    (p.withdraw u f).Raises (q.withdraw u f) t h
      (if ((p.tree u).heldOrders.filter f).any (Order.isLagOf u r) then r.withUnsent false else r) ns := by
  obtain ⟨v, rfl, hv⟩ := hc
  refine ⟨v.withdraw u f, ?_, hv.withdraw u f⟩
  rw [Part.withdraw_eq, Part.withdraw_eq, Part.withdraw_eq]
  rfl

theorem Part.Raises.offer (u : TreeId) {o : Order} (ho : ∀ g n l, o ≠ .lagByTag g n l) :
    (p.offer u o).Raises (q.offer u o) t h r ns := by
  obtain ⟨v, rfl, hv⟩ := hc
  refine ⟨v.offer u o, ?_, hv.offer u ho⟩
  rw [Part.offer_of_not_lagByTag _ u ho, Part.offer_of_not_lagByTag _ u ho, Part.offer_of_not_lagByTag _ u ho]
  rfl

end

theorem Part.modEntry_eq (p : Part) (g : Tag) (f : AdmitEntry → AdmitEntry) :
    p.modEntry g f = { p with admission := p.admission.map fun e => if e.tag = g then f e else e } := by
  simp only [Part.modEntry, beq_iff_eq]

/-! ### A tag not admitted (R73, R83) -/

theorem oldestUnclaimed_mem {now : Tenth} {l : List UnclaimedEntry} {d : UnclaimedEntry}
    (h : oldestUnclaimed now l = some d) : d ∈ l := by
  induction l with
  | nil => exact nomatch h
  | cons e rest ih =>
    rw [oldestUnclaimed] at h
    cases hrest : oldestUnclaimed now rest with
    | none =>
      simp only [hrest, Option.some.injEq] at h
      rw [h]
      exact List.mem_cons_self
    | some e' =>
      simp only [hrest] at h
      split at h
      · exact List.mem_cons_of_mem e (ih (hrest.trans h))
      · rw [Option.some.inj h]
        exact List.mem_cons_self

/-- The entry that a new tag displaces is the one heard longest ago, the first of equals (R73). -/
theorem oldestUnclaimed_of_split {now : Tenth} {d : UnclaimedEntry} {pre post : List UnclaimedEntry}
    (hpre : ∀ y ∈ pre, tenthsSince now y.lastHeard < tenthsSince now d.lastHeard)
    (hpost : ∀ y ∈ post, tenthsSince now y.lastHeard ≤ tenthsSince now d.lastHeard) :
    oldestUnclaimed now (pre ++ d :: post) = some d := by
  induction pre with
  | nil =>
    rw [List.nil_append, oldestUnclaimed]
    cases hl : oldestUnclaimed now post with
    | none => rfl
    | some c =>
      simp [Nat.not_lt.mpr (hpost c (oldestUnclaimed_mem hl))]
  | cons e pre ih =>
    obtain ⟨he, hpre⟩ := List.forall_mem_cons.mp hpre
    rw [List.cons_append, oldestUnclaimed, ih hpre]
    simp [he]

section
variable {p : Part} {k : Clock} {t : TreeId} {m : Measured}

theorem Part.hearUnclaimed_of_known (h : ∃ e ∈ p.unclaimedTags, e.tag = m.tag) :
    p.hearUnclaimed k t m =
      { p with
        unclaimedTags := p.unclaimedTags.map fun e =>
          if e.tag = m.tag then
            { e with tree := t, maker := m.maker, lastHeard := k.tenth, times := min 255 (e.times + 1) }
          else e } := by
  have hany : p.unclaimedTags.any (·.tag == m.tag) = true := by
    obtain ⟨e, he, htag⟩ := h
    exact List.any_eq_true.mpr ⟨e, he, beq_iff_eq.mpr htag⟩
  simp only [Part.hearUnclaimed, hany, if_true, beq_iff_eq]

section
variable (hnew : ∀ e ∈ p.unclaimedTags, e.tag ≠ m.tag)
include hnew

theorem Part.unclaimed_any_of_new : p.unclaimedTags.any (·.tag == m.tag) = false :=
  List.any_eq_false.mpr fun e he h => hnew e he (beq_iff_eq.mp h)

theorem Part.hearUnclaimed_of_room (hroom : p.unclaimedTags.length < 16) :
    p.hearUnclaimed k t m =
      ({ p with unclaimedTags := p.unclaimedTags ++ [⟨m.tag, t, m.maker, k.tenth, k.tenth, 1⟩] } : Part).raise
        (.unclaimed t m.tag m.maker k.tenth none) := by
  have hroom' : p.unclaimedTags.length < Config.maxUnclaimed := hroom
  simp only [Part.hearUnclaimed, Part.unclaimed_any_of_new hnew, Bool.false_eq_true, if_false, hroom', if_true]

theorem Part.hearUnclaimed_of_full (hfull : 16 ≤ p.unclaimedTags.length) {pre post : List UnclaimedEntry} {d : UnclaimedEntry}
    (hsplit : p.unclaimedTags = pre ++ d :: post)
    (hpre : ∀ y ∈ pre, tenthsSince k.tenth y.lastHeard < tenthsSince k.tenth d.lastHeard)
    (hpost : ∀ y ∈ post, tenthsSince k.tenth y.lastHeard ≤ tenthsSince k.tenth d.lastHeard)
    (hothers : ∀ y ∈ pre ++ post, y.tag ≠ d.tag) :
    p.hearUnclaimed k t m =
      ({ p with unclaimedTags := pre ++ post ++ [⟨m.tag, t, m.maker, k.tenth, k.tenth, 1⟩] } : Part).raise
        (.unclaimed t m.tag m.maker k.tenth (some d.tag)) := by
  have hfull' : ¬p.unclaimedTags.length < Config.maxUnclaimed := Nat.not_lt.mpr hfull
  have hkept : p.unclaimedTags.filter (·.tag != d.tag) = pre ++ post := by
    have hall : ∀ l : List UnclaimedEntry, (∀ y ∈ l, y.tag ≠ d.tag) → l.filter (·.tag != d.tag) = l := fun l hl =>
      List.filter_eq_self.mpr fun y hy => bne_iff_ne.mpr (hl y hy)
    obtain ⟨h1, h2⟩ := List.forall_mem_append.mp hothers
    rw [hsplit, List.filter_append, List.filter_cons_of_neg (by simp), hall pre h1, hall post h2]
  have hold : oldestUnclaimed k.tenth p.unclaimedTags = some d := by
    rw [hsplit]
    exact oldestUnclaimed_of_split hpre hpost
  simp only [Part.hearUnclaimed, Part.unclaimed_any_of_new hnew, Bool.false_eq_true, if_false, hfull', hold, Option.map_some,
    hkept]

end

/-! ### Hellos that make no change of state (R68, R84) -/

theorem Part.hearIgnored_of_held {r : Record} (hr : p.recordOf? m.tag = some r) (hstate : r.state = .held) :
    p.hearIgnored m.tag =
      p.modRecord r.tree r.handle fun r => { r with held := r.held.map fun n => min 255 (n + 1) } := by
  simp only [Part.hearIgnored, hr, hstate, beq_self_eq_true, if_true]

theorem Part.hearIgnored_of_other (h : ∀ r, p.recordOf? m.tag = some r → r.state ≠ .held) : p.hearIgnored m.tag = p := by
  rw [Part.hearIgnored]
  cases hr : p.recordOf? m.tag with
  | none => rfl
  | some r => exact if_neg (by rw [beq_iff_eq]; exact h r hr)

theorem Part.hearWrongTree_eq (e : AdmitEntry) :
    p.hearWrongTree k t m e =
      { p.modEntry m.tag fun e => { e with sighting := some (t, k.tenth) } with
        raised := p.raised ++
          if e.sighting.map (·.1) = some t then [] else [.wrongTree t m.tag e.mask m.maker k.tenth] } := by
  rw [Part.hearWrongTree]
  cases hsighting : e.sighting with
  | none => rfl
  | some x =>
    obtain ⟨u, n⟩ := x
    by_cases hu : u = t
    · rw [Option.map_some, if_pos (congrArg some hu), List.append_nil]
      exact if_pos (beq_iff_eq.mpr hu)
    · rw [Option.map_some, if_neg fun h => hu (Option.some.inj h)]
      exact if_neg (by rwa [beq_iff_eq])

/-! ### A tag heard twice (R85, R86) -/

theorem Order.any_isLagOf_iff {u : TreeId} {h : Nat} {r : Record} (hname : r.tree = u ∧ r.handle = h) (os : List Order) :
    (os.filter (Order.isLag h)).any (Order.isLagOf u r) = true ↔ ∃ n, .lagByTag r.tag h n ∈ os := by
  rw [List.any_eq_true]
  constructor
  · rintro ⟨o, hfilter, hlag⟩
    have hmem := (List.mem_filter.mp hfilter).1
    cases o with
    | lagByTag g h' n =>
      rw [Order.isLagOf, Bool.and_eq_true, beq_iff_eq] at hlag
      obtain ⟨hnamed, rfl⟩ := hlag
      obtain rfl : h' = h := (Record.named_iff.mp hnamed).2.symm.trans hname.2
      exact ⟨n, hmem⟩
    | _ => exact absurd hlag Bool.false_ne_true
  · rintro ⟨n, hmem⟩
    refine ⟨_, List.mem_filter.mpr ⟨hmem, beq_self_eq_true h⟩, ?_⟩
    rw [Order.isLagOf, Record.named_iff.mpr hname, beq_self_eq_true]
    rfl

/-- The record of a tag heard twice is HELD DUPLICATE (R85, R86, R95). -/
theorem Part.holdDuplicate_raises {u : TreeId} {h : Nat} {r : Record} (k : Clock) (hr : p.record? u h = some r)
    (hserving : (p.engine u).serving ≠ some h) {unsent : Bool}
    (hunsent : unsent = true ↔ r.lagUnsent = true ∧ ∀ n, .lagByTag r.tag h n ∉ (p.tree u).heldOrders) :
    (((p.heldBack u h).modEntry r.tag fun e => { e with conflict := true }).withdraw u (Order.isLag h)).Raises
      (p.holdDuplicate k r) u h { r.heldFor .duplicate with lagUnsent := unsent }
      [.terminal u h r.tag r.state .held .duplicate] := by
  obtain ⟨ht, hh⟩ := Part.record?_name hr
  have hheld : (p.heldBack u h).Raises (p.enterHeld k u h .duplicate) u h (r.heldFor .duplicate)
      [.terminal u h r.tag r.state .held .duplicate] :=
    ⟨_, Part.enterHeld_of_not_served k hr hserving .duplicate,
      (Part.Changes.refl (by exact hr)).modRecord (Record.heldFor_name .duplicate)⟩
  have hdone := (hheld.modEntry r.tag fun e => { e with conflict := true }).withdraw u (Order.isLag h)
  rw [Part.holdDuplicate, ht, hh]
  have hany := Order.any_isLagOf_iff (r := r.heldFor .duplicate) ⟨ht, hh⟩ (p.tree u).heldOrders
  have horders : (((p.heldBack u h).modEntry r.tag fun e => { e with conflict := true }).tree u).heldOrders =
      (p.tree u).heldOrders := by
    cases u <;> rfl
  rw [horders] at hdone
  have hmark : (if ((p.tree u).heldOrders.filter (Order.isLag h)).any (Order.isLagOf u (r.heldFor .duplicate)) = true then
        (r.heldFor .duplicate).withUnsent false
      else r.heldFor .duplicate) = { r.heldFor .duplicate with lagUnsent := unsent } := by
    by_cases hmem : ∃ n, .lagByTag r.tag h n ∈ (p.tree u).heldOrders
    · have hclear : unsent = false := Bool.eq_false_iff.mpr fun h => by
        obtain ⟨n, hn⟩ := hmem
        exact (hunsent.mp h).2 n hn
      rw [if_pos (hany.mpr hmem), hclear]
      rfl
    · have hkept : unsent = r.lagUnsent :=
        Bool.eq_iff_iff.mpr (hunsent.trans (and_iff_left (not_exists.mp hmem)))
      rw [if_neg (fun h => hmem (hany.mp h)), hkept]
      rfl
  rwa [hmark] at hdone

end

/-! ### A record heard again (R87, R89) -/

/-- A record with what a hello measured (R87). -/
def Record.measuredBy (m : Measured) (r : Record) : Record :=
  { r with lag := m.lag, lastRtt := m.rtt, maker := m.maker, heardWindow := some m.number }

theorem Order.isLagOf_own {t : TreeId} {h : Nat} {r : Record} (hname : r.tree = t ∧ r.handle = h) {g : Tag} (htag : r.tag = g)
    (l : Nat) : (Order.lagByTag g h l).isLagOf t r = true := by
  rw [Order.isLagOf, Record.named_iff.mpr hname, htag, beq_self_eq_true]
  rfl

theorem Part.offer_keeps_engine (p : Part) (t : TreeId) (o : Order) : (p.offer t o).engine t = p.engine t := by
  have htree : (p.offer t o).tree t = (p.tree t).offered o := by
    rw [Part.offer_eq]
    exact Part.tree_modTree_self p t _
  rw [Part.engine, htree, Tree.offered]
  (repeat' split) <;> rfl

section
variable {p : Part} {k : Clock} {t : TreeId} {m : Measured} {h : Nat} {r : Record} (hr : p.record? t h = some r)
  (hserving : (p.engine t).serving ≠ some h)
include hr hserving

theorem Part.holdOutOfReach_raises :
    (p.heldBack t h).Raises (p.holdOutOfReach k t h m) t h
      { r.heldFor .outOfReach with lag := 0, lastRtt := m.rtt, heardWindow := some m.number }
      [.terminal t h r.tag r.state .held .outOfReach] := by
  have hheld : (p.heldBack t h).Raises (p.enterHeld k t h .outOfReach) t h (r.heldFor .outOfReach)
      [.terminal t h r.tag r.state .held .outOfReach] :=
    ⟨_, Part.enterHeld_of_not_served k hr hserving .outOfReach,
      (Part.Changes.refl (by exact hr)).modRecord (Record.heldFor_name .outOfReach)⟩
  exact hheld.modRecord (f := fun r => { r with lag := 0, lastRtt := m.rtt, heardWindow := some m.number }) fun _ => ⟨rfl, rfl⟩

theorem Part.hearBound_raises (hcls : m.cls ≠ .far) (htag : r.tag = m.tag) (henabled : (p.tree t).enabled = true) :
    ((p.offer t (.lagByTag m.tag h (m.lag / 4))).heldBack t h).Raises (p.hearBound k t m r) t h
      (((r.measuredBy m).withUnsent (!(p.tree t).accepts)).reheard (reheardCause r.state))
      [.terminal t h m.tag r.state .heard (reheardCause r.state)] := by
  obtain ⟨ht, hh⟩ := Part.record?_name hr
  have hheard : p.Changes (p.modRecord t h (Record.measuredBy m)) t h (r.measuredBy m) :=
    (Part.Changes.refl hr).modRecord fun _ => ⟨rfl, rfl⟩
  obtain ⟨v, hv⟩ : ∃ v, v = (p.modRecord t h (Record.measuredBy m)).offer t (.lagByTag m.tag h (m.lag / 4)) := ⟨_, rfl⟩
  have hoffered := hheard.offerAny t (.lagByTag m.tag h (m.lag / 4))
  rw [henabled, Order.isLagOf_own (r := r.measuredBy m) ⟨ht, hh⟩ htag, ← hv] at hoffered
  have hbound : p.hearBound k t m r = v.enterHeard k t h (reheardCause r.state) := by
    rw [Part.hearBound, if_neg (by rwa [beq_iff_eq]), hh, hv]
    rfl
  refine ⟨_, hbound.trans ((Part.enterHeard_of_not_served k hoffered.2 ?_ _).trans ?_),
    (hoffered.modTree t _).modRecord (f := (·.reheard (reheardCause r.state))) fun _ => ⟨rfl, rfl⟩⟩
  · rw [hoffered.engine, Part.offer_keeps_engine]
    exact hserving
  · rw [hoffered.raised, ← htag]
    rfl

end

/-! ### A new record (R81, R88, R89) -/

theorem Part.freeHandle_of_lowest {p : Part} {t : TreeId} {h : Nat} (h1 : 1 ≤ h) (h2 : h ≤ 64)
    (hfree : p.record? t h = none) (hres : p.reserved t h = false)
    (hbelow : ∀ j, 1 ≤ j → j < h → (p.record? t j).isSome = true ∨ p.reserved t j = true) : p.freeHandle t = some h := by
  obtain ⟨n, rfl⟩ : ∃ n, h = n + 1 := ⟨h - 1, by omega⟩
  rw [Part.freeHandle, allHandles, List.find?_map,
    List.find?_range_eq_some (i := n).mpr ⟨by simp [hfree, hres], List.mem_range.mpr (by exact h2), fun j hj => ?_⟩]
  · rfl
  · simpa [← Option.isSome_iff_ne_none] using hbelow (j + 1) (by omega) (by omega)

theorem Part.freeHandle_of_full {p : Part} {t : TreeId}
    (hfull : ∀ h, 1 ≤ h → h ≤ 64 → (p.record? t h).isSome = true ∨ p.reserved t h = true) : p.freeHandle t = none := by
  rw [Part.freeHandle, List.find?_eq_none]
  intro h hh
  obtain ⟨n, hn, rfl⟩ := List.mem_map.mp hh
  have hlt : n < 64 := List.mem_range.mp hn
  obtain hsome | hsome := hfull (n + 1) (by omega) (by omega)
  · simp [Option.isSome_iff_ne_none.mp hsome]
  · simp [hsome]

theorem Part.reservedCount_eq (p : Part) (t : TreeId) :
    p.reservedCount t = ((List.range 64).filter fun n => p.reserved t (n + 1)).length := by
  rw [Part.reservedCount, allHandles, List.filter_map, List.length_map]
  rfl

/-- A tree that has turned a hello away (R88). -/
def Tree.turningAway (T : Tree) : Tree :=
  { T with
    counters := { T.counters with turnedAway := T.counters.turnedAway + 1 }
    turnedAway := true }

/-- A hello turned away: only the first of a tree is told (R88). -/
theorem Part.turnAway_eq (p : Part) (t : TreeId) (m : Measured) :
    p.turnAway t m =
      { p.modTree t Tree.turningAway with
        raised := p.raised ++
          if (p.tree t).turnedAway then []
          else
            [.tableFull t m.tag (if 192 ≤ p.records.length then .table else .handles) p.records.length
              (p.recordsOf t).length (p.reservedCount t)] } := by
  cases haway : (p.tree t).turnedAway with
  | true =>
    rw [if_pos rfl, List.append_nil]
    have haway' : p.turnAway t m = p.modCounters t fun c => { c with turnedAway := c.turnedAway + 1 } := if_pos haway
    rw [haway']
    refine Part.modTree_congr p t (g := Tree.turningAway) ?_
    rw [Tree.turningAway, ← haway]
  | false =>
    have haway' : p.turnAway t m = _ := if_neg (by rw [haway]; exact Bool.false_ne_true)
    rw [haway', Part.modCounters, Part.modTree_modTree]
    rfl

theorem Part.record?_insertRecord_ne (p : Part) {r : Record} {t : TreeId} {h : Nat} (hne : r.named t h = false) :
    ({ p with records := insertRecord r p.records } : Part).record? t h = p.record? t h := by
  rw [Part.record?, Part.record?]
  induction p.records with
  | nil => simp [insertRecord, hne]
  | cons q rest ih =>
    rw [insertRecord]
    split
    · rw [List.find?_cons_of_neg (by rw [hne]; exact Bool.false_ne_true)]
    · rw [List.find?_cons, List.find?_cons, ih]

theorem find?_insertRecord_self {r : Record} {t : TreeId} {h : Nat} (hnamed : r.named t h = true) (rs : List Record)
    (hfree : ∀ q ∈ rs, ¬q.named t h = true) : (insertRecord r rs).find? (·.named t h) = some r := by
  induction rs with
  | nil => exact List.find?_cons_of_pos (p := fun q : Record => q.named t h) hnamed
  | cons q rest ih =>
    obtain ⟨hq, hrest⟩ := List.forall_mem_cons.mp hfree
    rw [insertRecord]
    split
    · exact List.find?_cons_of_pos (p := fun q : Record => q.named t h) hnamed
    · rw [List.find?_cons_of_neg (p := fun q : Record => q.named t h) hq]
      exact ih hrest

theorem Part.Changes.insertRecord {p : Part} {t : TreeId} {h : Nat} {r : Record} (hname : r.tree = t ∧ r.handle = h)
    (hfree : p.record? t h = none) : p.Changes { p with records := Sys2Proof.Machine.insertRecord r p.records } t h r := by
  obtain ⟨rfl, rfl⟩ := hname
  refine ⟨⟨rfl, fun t' h' hne => Part.record?_insertRecord_ne p ?_⟩,
    find?_insertRecord_self (Record.named_iff.mpr ⟨rfl, rfl⟩) p.records fun q hq => List.find?_eq_none.mp hfree q hq⟩
  exact Bool.eq_false_iff.mpr fun hnamed => by
    obtain ⟨ht, hh⟩ := Record.named_iff.mp hnamed
    exact hne (by rw [ht, hh])

/-- An order offered passes over a change of an admission entry. -/
theorem Part.modEntry_offer (p : Part) (g : Tag) (f : AdmitEntry → AdmitEntry) (t : TreeId) (o : Order) :
    (p.modEntry g f).offer t o =
      { p.offer t o with admission := p.admission.map fun e => if e.tag = g then f e else e } := by
  rw [Part.modEntry_eq, Part.offer_eq, Part.offer_records, Part.offer_eq p, Part.offer_records p]
  rfl

/-- An admission entry whose tag has a record (R66, R68). -/
def AdmitEntry.nowBound (e : AdmitEntry) : AdmitEntry := { e with bound := true, sighting := none }

section
variable {p : Part} {t : TreeId} {h : Nat} {m : Measured} (hfree : p.record? t h = none)
include hfree

/-- A record made out of reach (R89). -/
theorem Part.makeRecord_raises_far (hcls : m.cls = .far) :
    (p.modEntry m.tag AdmitEntry.nowBound).Raises (p.makeRecord t h m) t h (newRecord t h { m with lag := 0 } .held .outOfReach)
      [.terminal t h m.tag .free .held .outOfReach] := by
  refine ⟨_, ?_, Part.Changes.insertRecord (r := newRecord t h { m with lag := 0 } .held .outOfReach) ⟨rfl, rfl⟩
    (by exact hfree)⟩
  simp only [Part.makeRecord, hcls, beq_self_eq_true, if_true]
  rfl

/-- A record made HEARD, its LAG offered (R88). -/
theorem Part.makeRecord_raises_heard (hcls : m.cls ≠ .far) (henabled : (p.tree t).enabled = true) :
    ((p.modEntry m.tag AdmitEntry.nowBound).offer t (.lagByTag m.tag h (m.lag / 4))).Raises (p.makeRecord t h m) t h
      ((newRecord t h m .heard .new).withUnsent (!(p.tree t).accepts)) [.terminal t h m.tag .free .heard .new] := by
  have hmade := (Part.Changes.insertRecord (p := p.modEntry m.tag AdmitEntry.nowBound) (t := t) (h := h) (r := newRecord t h m .heard .new)
    ⟨rfl, rfl⟩ (by exact hfree)).offerAny t (.lagByTag m.tag h (m.lag / 4))
  rw [show ((p.modEntry m.tag AdmitEntry.nowBound).tree t) = p.tree t by cases t <;> rfl, henabled,
    Order.isLagOf_own (t := t) (h := h) (g := m.tag) (r := newRecord t h m .heard .new) ⟨rfl, rfl⟩ rfl] at hmade
  have hmake : p.makeRecord t h m =
      (({ p.modEntry m.tag AdmitEntry.nowBound with
          records := insertRecord (newRecord t h m .heard .new) p.records } : Part).offer t
        (.lagByTag m.tag h (m.lag / 4))).raise (.terminal t h m.tag .free .heard .new) :=
    if_neg (by rwa [beq_iff_eq])
  refine ⟨_, hmake.trans ?_, hmade⟩
  rw [Part.raise, ← hmade.raised]
  rfl

end

theorem Part.makeRecord_length (p : Part) (t : TreeId) (h : Nat) (m : Measured) :
    (p.makeRecord t h m).records.length = p.records.length + 1 := by
  have hinsert : ∀ r, (insertRecord r p.records).length = p.records.length + 1 := fun r =>
    (insertRecord_perm r p.records).length_eq
  rw [Part.makeRecord]
  split
  · exact hinsert _
  · rw [Part.raiseTerminal, Part.raise]
    simp only [Part.offer_records, List.length_map]
    exact hinsert _

section
variable {p : Part} {t : TreeId} {m : Measured}

theorem Part.hearNew_of_table (h : 192 ≤ p.records.length) : p.hearNew t m = p.turnAway t m := if_pos h

theorem Part.hearNew_of_none (hroom : p.records.length < 192) (h : p.freeHandle t = none) :
    p.hearNew t m = p.turnAway t m := by
  refine (if_neg (show ¬Config.maxRecords ≤ p.records.length from Nat.not_le.mpr hroom)).trans ?_
  rw [h]

theorem Part.hearNew_of_free (hroom : p.records.length < 192) {h : Nat} (hfree : p.freeHandle t = some h) :
    p.hearNew t m = p.makeRecord t h m := by
  refine (if_neg (show ¬Config.maxRecords ≤ p.records.length from Nat.not_le.mpr hroom)).trans ?_
  rw [hfree]

end

/-! ### The case that fits (R83) -/

section
variable {p : Part} {k : Clock} {t : TreeId} {m : Measured} {e : AdmitEntry}

theorem Part.takeHello_of_unknown (h : p.entry? m.tag = none) : p.takeHello k t m = p.hearUnclaimed k t m := by
  rw [Part.takeHello, h]

variable (he : p.entry? m.tag = some e)
include he

theorem Part.takeHello_of_ignored (h : e.conflict = true ∨ ∃ r, p.recordOf? m.tag = some r ∧ r.state = .held) :
    p.takeHello k t m = p.hearIgnored m.tag := by
  rw [Part.takeHello, he]
  refine if_pos (Bool.or_eq_true _ _ ▸ h.imp_right ?_)
  rintro ⟨r, hr, hstate⟩
  rw [hr, Option.any_some, hstate]
  rfl

variable (hconflict : e.conflict = false)
include hconflict

theorem Part.takeHello_of_heeded (hbound : ∀ r, p.recordOf? m.tag = some r → r.state ≠ .held) :
    p.takeHello k t m =
      if !inMask e.mask t then p.hearWrongTree k t m e
      else
        match p.recordOf? m.tag with
        | some r =>
          if r.tree == t && r.heardWindow == some m.number then p.hearDuplicate k t r
          else if r.tree != t then p.hearOtherTree k t m r
          else p.hearBound k t m r
        | none => p.hearNew t m := by
  have hnot : (p.recordOf? m.tag).any (·.state == .held) = false := by
    cases hr : p.recordOf? m.tag with
    | none => rfl
    | some r => exact beq_eq_false_iff_ne.mpr (hbound r hr)
  simp only [Part.takeHello, he, hconflict, hnot, Bool.or_self, Bool.false_eq_true, if_false] <;> rfl

theorem Part.takeHello_of_wrongTree (hbound : ∀ r, p.recordOf? m.tag = some r → r.state ≠ .held) (hmask : inMask e.mask t = false) :
    p.takeHello k t m = p.hearWrongTree k t m e := by
  rw [Part.takeHello_of_heeded he hconflict hbound, hmask]
  rfl

variable (hmask : inMask e.mask t = true)
include hmask

theorem Part.takeHello_of_unbound (hr : p.recordOf? m.tag = none) : p.takeHello k t m = p.hearNew t m := by
  rw [Part.takeHello_of_heeded he hconflict (fun r h => nomatch hr.symm.trans h), hmask, hr]
  rfl

section
variable {r : Record} (hr : p.recordOf? m.tag = some r) (hstate : r.state ≠ .held)
include hr hstate

theorem Part.takeHello_of_bound :
    p.takeHello k t m =
      if r.tree = t then if r.heardWindow = some m.number then p.hearDuplicate k t r else p.hearBound k t m r
      else p.hearOtherTree k t m r := by
  rw [Part.takeHello_of_heeded he hconflict (fun r' h => by rwa [← Option.some.inj (hr.symm.trans h)]), hmask, hr]
  by_cases ht : r.tree = t <;> by_cases hw : r.heardWindow = some m.number <;> simp [ht, hw]

end

end

theorem Part.offer_raised (p : Part) (t : TreeId) (o : Order) : (p.offer t o).raised = p.raised := by
  rw [Part.offer_eq]
  rfl

theorem Part.withdraw_raised (p : Part) (t : TreeId) (f : Order → Bool) : (p.withdraw t f).raised = p.raised := by
  rw [Part.withdraw_eq]
  rfl

/-- A tree whose oldest measured hello has been taken. -/
def Tree.unmeasured (rest : List Measured) (T : Tree) : Tree := { T with measured := rest }

theorem Part.engine_unmeasured (p : Part) (t u : TreeId) (rest : List Measured) :
    (p.modTree t (Tree.unmeasured rest)).engine u = p.engine u := by
  cases t <;> cases u <;> rfl

theorem Part.heldOrders_unmeasured (p : Part) (t u : TreeId) (rest : List Measured) :
    ((p.modTree t (Tree.unmeasured rest)).tree u).heldOrders = (p.tree u).heldOrders := by
  cases t <;> cases u <;> rfl

theorem Part.reserved_unmeasured (p : Part) (t : TreeId) (rest : List Measured) (h : Nat) :
    (p.modTree t (Tree.unmeasured rest)).reserved t h = p.reserved t h := by
  cases t <;> rfl

theorem exec_measuredHelloTaken_of_next {s : State} {t : TreeId} {m : Measured} {rest : List Measured} (hs : s.Settled)
    (hm : (s.part.tree t).measured = m :: rest) :
    exec (.measuredHelloTaken t) s =
      .next (s.withPart ((s.part.modTree t (Tree.unmeasured rest)).takeHello s.clock t m)) := by
  refine congrArg Host.Outcome.next ?_
  rw [hs.ready, State.measuredHello, hm]
  rfl

/-- Settles O40: the first of the seven cases that fits, each by its own rule. -/
theorem measuredHelloTaken : Obligations.MeasuredHelloTaken := by
  unfold Obligations.MeasuredHelloTaken
  intro s t m rest q hs hm hq
  have hexec : exec (.measuredHelloTaken t) s = .next (s.withPart (q.takeHello s.clock t m)) := by
    rw [hq]
    exact exec_measuredHelloTaken_of_next hs hm
  have hraised : q.raised = [] := by rw [hq]; exact hs.2
  have hentry : q.entry? m.tag = s.part.entry? m.tag := by rw [hq]; rfl
  have hof : q.recordOf? m.tag = s.part.recordOf? m.tag := by rw [hq]; rfl
  have hrecord : ∀ u h, q.record? u h = s.part.record? u h := fun u h => by rw [hq]; rfl
  have hrecords : q.records = s.part.records := by rw [hq]; rfl
  have hadmission : q.admission = s.part.admission := by rw [hq]; rfl
  have hunclaimed : q.unclaimedTags = s.part.unclaimedTags := by rw [hq]; rfl
  have hengine : ∀ u, q.engine u = s.part.engine u := fun u => by rw [hq]; exact s.part.engine_unmeasured t u rest
  have hheld : ∀ u, (q.tree u).heldOrders = (s.part.tree u).heldOrders := fun u => by
    rw [hq]; exact s.part.heldOrders_unmeasured t u rest
  have htree : q.tree t = { s.part.tree t with measured := rest } := by rw [hq, Part.tree_modTree_self]
  have haccepts : (q.tree t).accepts = (s.part.tree t).accepts := by rw [htree]; rfl
  have hreserved : ∀ h, q.reserved t h = s.part.reserved t h := fun h => by
    rw [hq]; exact s.part.reserved_unmeasured t rest h
  have hlowest : ∀ h, 1 ≤ h → h ≤ 64 → s.part.record? t h = none → s.part.reserved t h = false →
      (∀ j, 1 ≤ j → j < h → (s.part.record? t j).isSome = true ∨ s.part.reserved t j = true) → q.freeHandle t = some h := by
    intro h h1 h2 hfree hres hbelow
    refine Part.freeHandle_of_lowest h1 h2 ((hrecord t h).trans hfree) ((hreserved h).trans hres) fun j hj1 hj2 => ?_
    rw [hrecord, hreserved]
    exact hbelow j hj1 hj2
  have hdone : ∀ {base result : Part} {u : TreeId} {h : Nat} {r : Record} {ns : List Notice},
      q.takeHello s.clock t m = result → base.raised = [] → base.Raises result u h r ns →
      ∃ v, exec (.measuredHelloTaken t) s = .next (s.afterEvent v ns) ∧ base.onlyRecord v u h ∧ v.record? u h = some r
        ∧ v.records = result.records := by
    rintro base result u h r ns htake hbase ⟨v, rfl, hchange⟩
    refine ⟨v, ?_, hchange.1, hchange.2, rfl⟩
    rw [hexec, htake, hbase, List.nil_append]
    exact congrArg _ (State.withPart_raising s (hchange.raised.trans hbase) ns)
  refine ⟨fun hnone hnew => ⟨fun hroom => ?_, fun pre d post hfull hsplit hpre hpost hothers => ?_⟩, fun hnone hknown => ?_,
    fun e he => ⟨fun r hr hstate hrr => ?_, fun hconflict hbound => ?_, fun hconflict hbound hmask => ?_,
      fun hconflict hmask => ⟨fun r h u hr hstate hu hh hrr hserving =>
        ⟨fun unsent base hcase hunsent hbase => ?_, fun hne hrefind => ?_, fun hsame hwindow hcls => ?_,
          fun cause hsame hwindow hcls henabled hcause => ?_⟩, fun hr =>
        ⟨fun reason hcase => ?_, fun h hroom h1 h2 hfree hres hbelow => ⟨fun hcls henabled => ?_, fun hcls => ?_⟩⟩⟩⟩⟩
  · rw [hexec, Part.takeHello_of_unknown (hentry.trans hnone),
      Part.hearUnclaimed_of_room (by rw [hunclaimed]; exact hnew) (by rw [hunclaimed]; exact hroom), hunclaimed]
    exact congrArg _ (State.withPart_raise s (by exact hraised) _)
  · rw [hexec, Part.takeHello_of_unknown (hentry.trans hnone),
      Part.hearUnclaimed_of_full (by rw [hunclaimed]; exact hnew) (by rw [hunclaimed]; exact hfull)
        (hunclaimed.trans hsplit) hpre hpost hothers]
    exact congrArg _ (State.withPart_raise s (by exact hraised) _)
  · rw [hexec, Part.takeHello_of_unknown (hentry.trans hnone), Part.hearUnclaimed_of_known (by rw [hunclaimed]; exact hknown),
      hunclaimed]
    exact congrArg _ (State.withPart_quiet s (by exact hraised))
  · obtain ⟨v, h1, h2, h3, -⟩ := hdone
      ((Part.takeHello_of_ignored (hentry.trans he) (Or.inr ⟨r, hof.trans hr, hstate⟩)).trans
        (Part.hearIgnored_of_held (hof.trans hr) hstate)) hraised
      ((Part.Raises.refl ((hrecord _ _).trans hrr)).modRecord
        (f := fun r => { r with held := r.held.map fun n => min 255 (n + 1) }) fun _ => ⟨rfl, rfl⟩)
    exact ⟨v, h1, h2, h3⟩
  · rw [hexec, Part.takeHello_of_ignored (hentry.trans he) (Or.inl hconflict),
      Part.hearIgnored_of_other (by rw [hof]; exact hbound), State.withPart_quiet s hraised]
  · rw [hexec, Part.takeHello_of_wrongTree (hentry.trans he) hconflict (by rw [hof]; exact hbound) hmask,
      Part.hearWrongTree_eq, hraised, List.nil_append, State.withPart_raising s (by exact hraised), Part.modEntry_eq, hadmission,
      hraised]
  · have hheard := Part.takeHello_of_bound (k := s.clock) (hentry.trans he) hconflict hmask (hof.trans hr) hstate
    have htag : r.tag = m.tag := (Part.recordOf?_mem hr).2
    have hduplicate := Part.holdDuplicate_raises (p := q) s.clock ((hrecord u h).trans hrr) (by rwa [hengine])
      (unsent := unsent) (by rwa [hheld])
    have hmarked : ((q.heldBack u h).modEntry r.tag fun e => { e with conflict := true }) =
        { q.heldBack u h with admission := s.part.admission.map fun x =>
          if x.tag = m.tag then { x with conflict := true } else x } := by
      rw [Part.modEntry_eq, htag, ← hadmission]
      rfl
    rw [hmarked, htag] at hduplicate
    have hbaseRaised : base.raised = [] := by
      rw [hbase, Part.offer_raised, Part.withdraw_raised]
      exact hraised
    have honce := hduplicate.offer t (o := .standdown m.tag) fun _ _ _ => Order.noConfusion
    rw [← hbase] at honce
    obtain ⟨hne, hrefind⟩ | ⟨hsame, hwindow⟩ := hcase
    · rw [if_neg hne]
      have hother : q.takeHello s.clock t m =
          ((q.holdDuplicate s.clock r).offer t (.standdown m.tag)).offer u (.standdown m.tag) := by
        rw [hheard, if_neg (by rwa [hu]), Part.hearOtherTree, if_neg (by rwa [beq_iff_eq]), htag, hu]
      obtain ⟨v, h1, h2, h3, -⟩ := hdone hother ((base.offer_raised u _).trans hbaseRaised)
        (honce.offer u (o := .standdown m.tag) fun _ _ _ => Order.noConfusion)
      exact ⟨v, h1, h2, h3⟩
    · rw [if_pos hsame]
      have hagain : q.takeHello s.clock t m = (q.holdDuplicate s.clock r).offer t (.standdown m.tag) := by
        rw [hheard, if_pos (hu.trans hsame), if_pos hwindow, Part.hearDuplicate, htag]
      obtain ⟨v, h1, h2, h3, -⟩ := hdone hagain hbaseRaised honce
      exact ⟨v, h1, h2, h3⟩
  · have hmoved : q.takeHello s.clock t m = (q.freeRecord s.clock u h .moved).hearNew t m := by
      rw [Part.takeHello_of_bound (k := s.clock) (hentry.trans he) hconflict hmask (hof.trans hr) hstate,
        if_neg (by rwa [hu]), Part.hearOtherTree, if_pos (by rw [hrefind]; rfl), hu, hh]
    rw [hexec, hmoved, Part.freeRecord_of_not_served s.clock ((hrecord u h).trans hrr) (by rwa [hengine]), hraised,
      (Part.recordOf?_mem hr).2, hrefind]
    rfl
  · subst hsame
    have hfar : q.takeHello s.clock u m = q.holdOutOfReach s.clock u h m := by
      rw [Part.takeHello_of_bound (k := s.clock) (hentry.trans he) hconflict hmask (hof.trans hr) hstate, if_pos hu,
        if_neg hwindow, Part.hearBound, if_pos (by rw [hcls]; rfl), hh]
    have hout := Part.holdOutOfReach_raises (k := s.clock) (m := m) ((hrecord u h).trans hrr) (by rwa [hengine])
    rw [(Part.recordOf?_mem hr).2] at hout
    obtain ⟨v, h1, h2, h3, -⟩ := hdone hfar (by exact hraised) hout
    exact ⟨v, h1, h2, h3⟩
  · subst hsame
    have hagain : q.takeHello s.clock u m = q.hearBound s.clock u m r := by
      rw [Part.takeHello_of_bound (k := s.clock) (hentry.trans he) hconflict hmask (hof.trans hr) hstate, if_pos hu,
        if_neg hwindow]
    have hbound := Part.hearBound_raises (k := s.clock) ((hrecord u h).trans hrr) (by rwa [hengine]) hcls
      (Part.recordOf?_mem hr).2 (by rw [htree]; exact henabled)
    have hcauses : reheardCause r.state = cause := by
      obtain ⟨hs | hs, rfl⟩ | ⟨hs | hs, rfl⟩ | ⟨hs, rfl⟩ := hcause <;> rw [hs] <;> rfl
    rw [hcauses, haccepts] at hbound
    obtain ⟨v, h1, h2, h3, -⟩ := hdone hagain (by exact (q.offer_raised u _).trans hraised) hbound
    exact ⟨v, h1, h2, h3⟩
  · have haway : q.takeHello s.clock t m = q.turnAway t m
        ∧ (if 192 ≤ q.records.length then FullReason.table else .handles) = reason := by
      rw [Part.takeHello_of_unbound (hentry.trans he) hconflict hmask (hof.trans hr), hrecords]
      obtain ⟨hfull, rfl⟩ | ⟨hroom, hfull, rfl⟩ := hcase
      · exact ⟨Part.hearNew_of_table (by rw [hrecords]; exact hfull), if_pos hfull⟩
      · refine ⟨Part.hearNew_of_none (by rw [hrecords]; exact hroom) (Part.freeHandle_of_full fun h h1 h2 => ?_),
          if_neg (Nat.not_le.mpr hroom)⟩
        rw [hrecord, hreserved]
        exact hfull h h1 h2
    have hof : q.recordsOf t = s.part.recordsOf t := by rw [Part.recordsOf, hrecords]; rfl
    have haway' : (q.tree t).turnedAway = (s.part.tree t).turnedAway := by rw [htree]
    rw [hexec, haway.1, Part.turnAway_eq, haway.2, hraised, List.nil_append, State.withPart_raising s (by exact hraised),
      haway', hof, hrecords, Part.reservedCount_eq]
    simp only [hreserved]
    rfl
  · have hnew : q.takeHello s.clock t m = q.makeRecord t h m := by
      rw [Part.takeHello_of_unbound (hentry.trans he) hconflict hmask (hof.trans hr)]
      exact Part.hearNew_of_free (by rw [hrecords]; exact hroom) (hlowest h h1 h2 hfree hres hbelow)
    have hmade := Part.makeRecord_raises_heard (m := m) ((hrecord t h).trans hfree) hcls (by rw [htree]; exact henabled)
    rw [Part.modEntry_offer, haccepts, hadmission] at hmade
    obtain ⟨v, h1, h2, h3, h4⟩ := hdone hnew (by exact (q.offer_raised t _).trans hraised) hmade
    exact ⟨v, h1, h2, h3, by rw [h4, Part.makeRecord_length, hrecords]⟩
  · have hnew : q.takeHello s.clock t m = q.makeRecord t h m := by
      rw [Part.takeHello_of_unbound (hentry.trans he) hconflict hmask (hof.trans hr)]
      exact Part.hearNew_of_free (by rw [hrecords]; exact hroom) (hlowest h h1 h2 hfree hres hbelow)
    have hmade := Part.makeRecord_raises_far (m := m) ((hrecord t h).trans hfree) hcls
    rw [Part.modEntry_eq, hadmission] at hmade
    obtain ⟨v, h1, h2, h3, h4⟩ := hdone hnew (by exact hraised) hmade
    exact ⟨v, h1, h2, h3, by rw [h4, Part.makeRecord_length, hrecords]⟩

end Sys2Proof.Machine
end

section
/-!
PROOFS. The control field of a cycle start, the LOAD cells in it and the reports of what is sent (the statement O19).
-/

namespace Sys2Proof.Machine

/-! ### The reports of what is sent (R8) -/

section
variable {p : Part} {k : Clock} {t : TreeId} {h : Nat}

theorem Part.lagByTagSent_of_other {g : Tag} (hnot : ∀ r, p.record? t h = some r → r.tag ≠ g) : p.lagByTagSent k t g h = p := by
  rw [Part.lagByTagSent]
  cases hr : p.record? t h with
  | none => rfl
  | some r => exact if_pos (bne_iff_ne.mpr (hnot r hr))

/-- A record as the report of its LAG by tag leaves it (R8, R91, R109). -/
def Record.alignedBy (c : CycleNo) (r : Record) : Record :=
  { r with
    state := if r.state = .heard then .aligning else r.state
    cause := if r.state = .heard then .lagSent else r.cause
    lagSentCycle := some c
    check := if r.state = .heard ∨ r.state = .aligning then .afterLag else r.check }

/-- A LAG by tag is reported sent: a HEARD record enters ALIGNING (R91). -/
theorem Part.lagByTagSent_raises {r : Record} (hr : p.record? t h = some r) :
    p.Raises (p.lagByTagSent k t r.tag h) t h (r.alignedBy k.cycle)
      (if r.state = .heard then [.terminal t h r.tag .heard .aligning .lagSent] else []) := by
  obtain ⟨ht, hh⟩ := Part.record?_name hr
  have hsent : p.lagByTagSent k t r.tag h =
      (if r.state = .heard then p.enterAligning t h else p).modRecord t h (·.lagSent k.cycle) := by
    simp only [Part.lagByTagSent, hr, bne_self_eq_false, Bool.false_eq_true, if_false, beq_iff_eq]
  rw [hsent]
  by_cases hheard : r.state = .heard
  · rw [if_pos hheard, if_pos hheard]
    have haligning : p.Raises (p.enterAligning t h) t h { r with state := .aligning, cause := .lagSent }
        [.terminal t h r.tag .heard .aligning .lagSent] := by
      refine ⟨_, ?_, (Part.Changes.refl hr).modRecord (f := fun r => { r with state := .aligning, cause := .lagSent })
        fun _ => ⟨rfl, rfl⟩⟩
      simp only [Part.enterAligning, hr, Part.raiseTerminal, ht, hh, hheard]
      rfl
    have hdone := haligning.modRecord (f := (·.lagSent k.cycle)) fun _ => ⟨rfl, rfl⟩
    have hlast : ({ r with state := .aligning, cause := .lagSent } : Record).lagSent k.cycle = r.alignedBy k.cycle := by
      simp [Record.lagSent, Record.alignedBy, hheard]
    rwa [hlast] at hdone
  · rw [if_neg hheard, if_neg hheard]
    have hdone := (Part.Raises.refl hr).modRecord (f := (·.lagSent k.cycle)) fun _ => ⟨rfl, rfl⟩
    have hlast : r.lagSent k.cycle = r.alignedBy k.cycle := by
      simp [Record.lagSent, Record.alignedBy, hheard]
    rwa [hlast] at hdone

theorem Part.lagByHandleSent_changes {r : Record} (hr : p.record? t h = some r) :
    p.Changes (p.lagByHandleSent k t h) t h
      { r with
        lagSentCycle := some k.cycle
        nudgePending := some k.cycle
        check := if r.state = .aligning then .afterLag else r.check } := by
  have hdone := (Part.Changes.refl hr).modRecord (f := fun r => { r.lagSent k.cycle with nudgePending := some k.cycle })
    fun _ => ⟨rfl, rfl⟩
  have hlast : ({ r.lagSent k.cycle with nudgePending := some k.cycle } : Record) =
      { r with
        lagSentCycle := some k.cycle
        nudgePending := some k.cycle
        check := if r.state = .aligning then .afterLag else r.check } := by
    simp only [Record.lagSent, beq_iff_eq]
  rwa [hlast] at hdone

theorem Part.prepareSent_of_other (hnot : (p.engine t).state ≠ .preparing ∨ (p.engine t).serving ≠ some h) :
    p.prepareSent k t h = p := by
  refine if_neg ?_
  rw [Bool.and_eq_true, beq_iff_eq, beq_iff_eq]
  exact fun ⟨h1, h2⟩ => hnot.elim (· h1) (· h2)

theorem Part.commitSent_of_other (hnot : (p.engine t).state ≠ .committing ∨ (p.engine t).serving ≠ some h) :
    p.commitSent k t h = p := by
  refine if_neg ?_
  rw [Bool.and_eq_true, beq_iff_eq, beq_iff_eq]
  exact fun ⟨h1, h2⟩ => hnot.elim (· h1) (· h2)

section
variable (hserving : (p.engine t).serving = some h) (hawaiting : (p.engine t).awaiting = false)
  (hask : (p.engine t).ask = none) (hentries : ∀ x ∈ (p.tree t).expectations, x.handle = h → x.purpose ≠ .loadStatus)
include hserving hawaiting hask hentries

/-- An engine that a change leaves free to ask asks at once (R111). -/
theorem Part.modEngine_raiseAsk (f : Engine → Engine) (hf : ∀ e, (f e).serving = e.serving ∧ (f e).awaiting = e.awaiting ∧ (f e).ask = e.ask) :
    (p.modEngine t f).raiseAsk k t =
      p.modEngine t fun e => { f e with ask := some k.nextStart, askDeferred := false } := by
  obtain ⟨h1, h2, h3⟩ := hf (p.engine t)
  have hengine := Part.engine_modEngine_self p t f
  have htree : ((p.modEngine t f).tree t).expectations = (p.tree t).expectations := by
    rw [Part.modEngine, Part.tree_modTree_self]
  rw [Part.raiseAsk_of_free k (by rw [hengine, h1]; exact hserving) (by rw [hengine, h2]; exact hawaiting)
    (by rw [hengine, h3]; exact hask) (by rw [htree]; exact hentries), Part.modEngine, Part.modEngine, Part.modTree_modTree]
  rfl

theorem Part.prepareSent_of_serving (hstate : (p.engine t).state = .preparing) :
    p.prepareSent k t h =
      p.modEngine t fun _ =>
        { p.engine t with
          prepareTimer := some ⟨k.tenth, (p.tree t).settings.prepareTimeout⟩
          ask := some k.nextStart
          askDeferred := false } := by
  have hsent : p.prepareSent k t h =
      (p.modEngine t fun e => { e with prepareTimer := some (k.timer (p.tree t).settings.prepareTimeout) }).raiseAsk k t :=
    if_pos (by rw [hstate, hserving, beq_self_eq_true, beq_self_eq_true]; rfl)
  refine hsent.trans ((Part.modEngine_raiseAsk hserving hawaiting hask hentries
    (fun e => { e with prepareTimer := some (k.timer (p.tree t).settings.prepareTimeout) }) fun _ => ⟨rfl, rfl, rfl⟩).trans ?_)
  exact Part.modEngine_congr p t rfl

theorem Part.commitSent_of_serving (hstate : (p.engine t).state = .committing) :
    p.commitSent k t h =
      p.modEngine t fun _ =>
        { p.engine t with
          commitTimer :=
            if (p.engine t).commitTimer = none then some ⟨k.tenth, (p.tree t).settings.commitTimeout⟩
            else (p.engine t).commitTimer
          ask := some k.nextStart
          askDeferred := false } := by
  have hsent : p.commitSent k t h =
      (p.modEngine t fun e =>
        if e.commitTimer.isSome then e else { e with commitTimer := some (k.timer (p.tree t).settings.commitTimeout) }).raiseAsk
          k t :=
    if_pos (by rw [hstate, hserving, beq_self_eq_true, beq_self_eq_true]; rfl)
  refine hsent.trans ((Part.modEngine_raiseAsk hserving hawaiting hask hentries
    (fun e => if e.commitTimer.isSome then e else { e with commitTimer := some (k.timer (p.tree t).settings.commitTimeout) })
    fun e => by split <;> exact ⟨rfl, rfl, rfl⟩).trans ?_)
  refine Part.modEngine_congr p t ?_
  cases hc : (p.engine t).commitTimer <;> simp [hc, Clock.timer]

end

end

/-! ### The ask of a STREAMING engine (R155) -/

section
variable {p : Part} {k : Clock} {t : TreeId} {h : Nat}

theorem Engine.callsForAsk_iff (e : Engine) :
    e.callsForAsk = true ↔ e.state = .streaming ∧
      (16 ≤ e.cellCount ∨ (e.sendPointer = e.imageLength ∧ e.ackPoint ≠ e.imageLength) ∨ e.lastBad = true) := by
  simp [Engine.callsForAsk, or_assoc]

theorem Part.raiseAsk_of_busy (hbusy : (p.engine t).awaiting = true ∨ (p.engine t).ask ≠ none) : p.raiseAsk k t = p := by
  rw [Part.raiseAsk]
  cases (p.engine t).serving with
  | none => rfl
  | some h => exact if_pos (by rw [Bool.or_eq_true, Option.isSome_iff_ne_none]; exact hbusy)

theorem Part.streamAsk_of_quiet
    (hquiet : (p.engine t).state ≠ .streaming
      ∨ ((p.engine t).cellCount < 16
        ∧ ((p.engine t).sendPointer ≠ (p.engine t).imageLength ∨ (p.engine t).ackPoint = (p.engine t).imageLength)
        ∧ (p.engine t).lastBad = false)
      ∨ (p.engine t).awaiting = true ∨ (p.engine t).ask ≠ none) : p.streamAsk k t = p := by
  rw [Part.streamAsk]
  split
  next hcalls =>
    rw [Engine.callsForAsk_iff] at hcalls
    exact Part.raiseAsk_of_busy (by grind)
  next => rfl

theorem Part.streamAsk_of_called (hserving : (p.engine t).serving = some h) (hawaiting : (p.engine t).awaiting = false)
    (hask : (p.engine t).ask = none) (hcalls : (p.engine t).callsForAsk = true) :
    p.streamAsk k t =
      p.modEngine t fun _ =>
        if (p.tree t).expectations.any fun x => x.handle == h && x.purpose == .loadStatus then
          { p.engine t with askDeferred := true }
        else { p.engine t with ask := some k.nextStart, askDeferred := false } := by
  have hraise : p.raiseAsk k t =
      if (p.tree t).expectations.any fun x => x.handle == h && x.purpose == .loadStatus then
        p.modEngine t fun e => { e with askDeferred := true }
      else p.modEngine t fun e => { e with ask := some k.nextStart, askDeferred := false } := by
    simp only [Part.raiseAsk, hserving, hawaiting, hask, Option.isSome_none, Bool.or_self, Bool.false_eq_true, if_false]
  rw [Part.streamAsk, if_pos hcalls, hraise]
  split
  · exact Part.modEngine_congr p t rfl
  · exact Part.modEngine_congr p t rfl

/-! ### The positions of the field (R7, R154) -/

theorem Part.orderCell_of_empty (h : (p.tree t).queue = []) : p.orderCell k t = (p, .fill) := by rw [Part.orderCell, h]

theorem Part.orderCell_of_order {o : Order} {rest : List Order} (h : (p.tree t).queue = o :: rest) :
    p.orderCell k t = ((p.modTree t fun T => { T with queue := rest }).reportSent k t o, .order o) := by
  rw [Part.orderCell, h]

theorem Engine.sendable_iff (e : Engine) {n : Nat} (hn : n = min 40 (e.imageLength - e.sendPointer)) :
    e.sendable = true ↔ e.state = .streaming ∧ 0 < n ∧ e.sendPointer + n ≤ e.ackPoint + e.fifo.length
      ∧ e.sendPointer - e.ackPoint ≤ 1240 ∧ e.sendPointer - e.ackPoint + n ≤ 1280 := by
  have hcount : e.nextCount = n := hn.symm
  simp only [Engine.sendable, Engine.lacksNext, hcount, Bool.and_eq_true, beq_iff_eq, decide_eq_true_eq, Bool.not_eq_true',
    decide_eq_false_iff_not, Nat.not_lt, and_assoc]
  exact Iff.rfl

theorem Part.loadOrOrderCell_of_load (h : (p.engine t).sendable = true) :
    p.loadOrOrderCell k t = (p.cellSupplied k t, (p.engine t).nextCell) := if_pos h

theorem Part.loadOrOrderCell_of_order (h : ¬(p.engine t).sendable = true) : p.loadOrOrderCell k t = p.orderCell k t := if_neg h

/-- An engine that has supplied a LOAD cell of `n` bytes (R154). -/
def Engine.supplied (e : Engine) (n : Nat) : Engine := { e with sendPointer := e.sendPointer + n, cellCount := e.cellCount + 1 }

theorem Part.cellSupplied_eq {n : Nat} (hn : n = (p.engine t).nextCount) :
    p.cellSupplied k t = (p.modEngine t fun _ => (p.engine t).supplied n).pauseUpdate k t := by
  rw [Part.cellSupplied]
  exact congrArg (Part.pauseUpdate · k t) (Part.modEngine_congr p t (by rw [hn]; rfl))

/-! ### The field of an IDLE engine (R7) -/

theorem Part.reportSent_of_idle (o : Order) (h : (p.engine t).state = .idle) : (p.reportSent k t o).tree t = p.tree t := by
  cases o with
  | lagByTag g n l =>
    by_cases hnot : ∀ r, p.record? t n = some r → r.tag ≠ g
    · rw [Part.reportSent, Part.lagByTagSent_of_other hnot]
    · obtain ⟨r, hr, rfl⟩ : ∃ r, p.record? t n = some r ∧ r.tag = g := by simpa using hnot
      obtain ⟨v, hv, hchange⟩ := Part.lagByTagSent_raises (k := k) hr
      rw [Part.reportSent, hv]
      exact hchange.tree t
  | lagByHandle n l => rfl
  | prepare n count profile => rw [Part.reportSent, Part.prepareSent_of_other (Or.inl (by rw [h]; exact nofun))]
  | commit n crc => rw [Part.reportSent, Part.commitSent_of_other (Or.inl (by rw [h]; exact nofun))]
  | relisten n => rfl
  | standdown g => rfl
  | lift g => rfl

/-- The cell that a queue gives a position (R7). -/
def headCell : List Order → Cell
  | [] => .fill
  | o :: _ => .order o

theorem Part.orderCell_of_idle (h : (p.engine t).state = .idle) :
    (p.orderCell k t).2 = headCell (p.tree t).queue
      ∧ ((p.orderCell k t).1.tree t).queue = (p.tree t).queue.tail ∧ ((p.orderCell k t).1.engine t).state = .idle := by
  cases hqueue : (p.tree t).queue with
  | nil =>
    rw [Part.orderCell_of_empty hqueue]
    exact ⟨rfl, hqueue, h⟩
  | cons o rest =>
    have htree : (((p.modTree t fun T => { T with queue := rest }).reportSent k t o).tree t) =
        { p.tree t with queue := rest } := by
      rw [Part.reportSent_of_idle o (by rw [Part.engine, Part.tree_modTree_self]; exact h), Part.tree_modTree_self]
    rw [Part.orderCell_of_order hqueue, Part.engine, htree]
    exact ⟨rfl, rfl, h⟩

theorem Part.loadOrOrderCell_of_idle (h : (p.engine t).state = .idle) : p.loadOrOrderCell k t = p.orderCell k t :=
  Part.loadOrOrderCell_of_order fun hsendable => by
    have hstreaming := (((p.engine t).sendable_iff rfl).mp hsendable).1
    rw [h] at hstreaming
    cases hstreaming

theorem Part.fillField_of_cells {p1 p2 p3 p4 : Part} {c1 c2 c3 c4 : Cell} (h1 : p.orderCell k t = (p1, c1))
    (h2 : p1.orderCell k t = (p2, c2)) (h3 : p2.loadOrOrderCell k t = (p3, c3)) (h4 : p3.loadOrOrderCell k t = (p4, c4)) :
    p.fillField k t = p4.modTree t fun T => { T with field := [c1, c2, c3, c4] } := by
  simp only [Part.fillField, h1, h2, h3, h4]

/-- Four positions take the four oldest orders. -/
theorem headCells_eq (os : List Order) :
    [headCell os, headCell os.tail, headCell os.tail.tail, headCell os.tail.tail.tail] =
      (os.map Cell.order ++ List.replicate 4 Cell.fill).take 4 := by
  rcases os with _ | ⟨a, _ | ⟨b, _ | ⟨c, _ | ⟨d, os⟩⟩⟩⟩ <;> rfl

end

/-- Settles O19: position by position, then report by report. -/
theorem fieldTakesOldest : Obligations.FieldTakesOldest := by
  unfold Obligations.FieldTakesOldest
  refine ⟨fun p k t hidle => ?_, fun p p1 p2 p3 p4 c1 c2 c3 c4 k t => Part.fillField_of_cells,
    fun p k t => ⟨Part.orderCell_of_empty, fun o rest => Part.orderCell_of_order⟩,
    fun p k t e after n he hn hafter => ⟨fun hload => ?_, fun hnot => ?_⟩,
    fun p k t h => ⟨fun g lag4 => ⟨Part.lagByTagSent_of_other, fun r hr htag => ?_⟩,
      fun r lag4 hr => Part.lagByHandleSent_changes hr, fun e n profile crc he => ?_, rfl, fun g => ⟨rfl, rfl⟩⟩,
    fun p k t e h he hserving => ⟨fun hquiet => ?_, fun hstate hcalls hawaiting hask => ?_⟩⟩
  · rcases hc1 : p.orderCell k t with ⟨p1, c1⟩
    rcases hc2 : p1.orderCell k t with ⟨p2, c2⟩
    rcases hc3 : p2.orderCell k t with ⟨p3, c3⟩
    rcases hc4 : p3.orderCell k t with ⟨p4, c4⟩
    obtain ⟨hcell1, hqueue1, hidle1⟩ := hc1 ▸ Part.orderCell_of_idle (k := k) hidle
    obtain ⟨hcell2, hqueue2, hidle2⟩ := hc2 ▸ Part.orderCell_of_idle (k := k) hidle1
    obtain ⟨hcell3, hqueue3, hidle3⟩ := hc3 ▸ Part.orderCell_of_idle (k := k) hidle2
    obtain ⟨hcell4, hqueue4, -⟩ := hc4 ▸ Part.orderCell_of_idle (k := k) hidle3
    rw [Part.fillField_of_cells hc1 hc2 ((Part.loadOrOrderCell_of_idle hidle2).trans hc3)
      ((Part.loadOrOrderCell_of_idle hidle3).trans hc4), Part.tree_modTree_self]
    refine ⟨?_, ?_⟩
    · rw [← headCells_eq, ← hqueue1, ← hqueue2, ← hqueue3, ← hcell1, ← hcell2, ← hcell3, ← hcell4]
    · exact hqueue4.trans (by rw [hqueue3, hqueue2, hqueue1]; simp [← List.drop_one])
  · subst he
    have hafter' : (p.engine t).supplied n = after := hafter.symm
    rw [Part.loadOrOrderCell_of_load (((p.engine t).sendable_iff hn).mpr hload), Part.cellSupplied_eq hn, hafter']
    have hstate : ((p.modEngine t fun _ => after).engine t).state = .streaming := by
      rw [Part.engine_modEngine_self, hafter]
      exact hload.1
    refine ⟨?_, fun hrunning => ?_, fun hpaused hstall => ?_⟩
    · rw [Engine.nextCell, show (p.engine t).nextCount = n from hn.symm]
    · rw [Part.pauseUpdate_of_running hstate (by rw [Part.engine_modEngine_self]; exact hrunning), Part.modEngine, Part.modEngine,
        Part.modTree_modTree]
      rfl
    · rw [Part.pauseUpdate_of_beginning hstate (by rw [Part.engine_modEngine_self]; exact hpaused)
        (by rw [Part.engine_modEngine_self, hafter]; exact hstall), Part.engine_modEngine_self]
      refine congr (congrArg (fun (v : Part) (ns : List Notice) => ({ v with raised := p.raised ++ ns } : Part)) ?_) ?_
      · rw [Part.modEngine, Part.modEngine, Part.modTree_modTree, Part.tree_modTree_self]
        rfl
      · rw [Engine.hungry, hafter]
        rfl
  · exact Part.loadOrOrderCell_of_order fun h => hnot (by rw [he]; exact ((p.engine t).sendable_iff (he ▸ hn)).mp h)
  · subst htag
    obtain ⟨v, hv, hchange⟩ := Part.lagByTagSent_raises (k := k) hr
    exact ⟨v, hv, hchange⟩
  · subst he
    exact ⟨Part.prepareSent_of_other, Part.commitSent_of_other, fun hserving hawaiting hask hentries =>
      ⟨Part.prepareSent_of_serving hserving hawaiting hask hentries, Part.commitSent_of_serving hserving hawaiting hask hentries⟩⟩
  · subst he
    exact Part.streamAsk_of_quiet hquiet
  · subst he
    exact Part.streamAsk_of_called hserving hawaiting hask ((Engine.callsForAsk_iff _).mpr ⟨hstate, hcalls⟩)

end Sys2Proof.Machine
end

section
/-!
PROOFS. The count of saves begun, which a cycle start leaves as it is, and what each reset leaves (the statement O22).
-/

namespace Sys2Proof.Machine

/-! ### The count of saves begun, through the work of a cycle start -/

/-- A fold of changes that leave the count of saves leaves it. -/
theorem Part.foldl_savesBegun {α : Type} (f : Part → α → Part) (hf : ∀ p a, (f p a).savesBegun = p.savesBegun) (l : List α)
    (p : Part) : (l.foldl f p).savesBegun = p.savesBegun := by
  induction l generalizing p with
  | nil => rfl
  | cons a l ih => rw [List.foldl_cons, ih, hf]

section
variable (p : Part) (k : Clock) (t : TreeId) (h : Nat)

@[simp] theorem Part.modEngine_savesBegun (f : Engine → Engine) : (p.modEngine t f).savesBegun = p.savesBegun := rfl
@[simp] theorem Part.modGuard_savesBegun (f : Guard → Guard) : (p.modGuard t f).savesBegun = p.savesBegun := rfl
@[simp] theorem Part.modRecord_savesBegun (f : Record → Record) : (p.modRecord t h f).savesBegun = p.savesBegun := rfl

@[simp] theorem Part.offer_savesBegun (o : Order) : (p.offer t o).savesBegun = p.savesBegun := by
  rw [Part.offer_eq]
  rfl

@[simp] theorem Part.withdraw_savesBegun (f : Order → Bool) : (p.withdraw t f).savesBegun = p.savesBegun := by
  rw [Part.withdraw_eq]
  rfl

@[simp] theorem Part.reofferList_savesBegun (os : List Order) : (p.reofferList t os).savesBegun = p.savesBegun := by
  induction os generalizing p with
  | nil => rfl
  | cons o rest ih =>
    have hmark : ∀ q : Part, (q.markUnsent t o false).savesBegun = q.savesBegun := fun q => by
      rw [Part.markUnsent_eq]
    simp only [Part.reofferList]
    split <;> simp [ih, hmark]

@[simp] theorem Part.serveBus_savesBegun : p.serveBus.savesBegun = p.savesBegun := by
  have hwait : ∀ r : Requester, (p.noLongerWaiting r).savesBegun = p.savesBegun := fun r => by cases r <;> rfl
  simp only [Part.serveBus]
  (repeat' split) <;> simp [hwait]

@[simp] theorem Part.pauseUpdate_savesBegun : (p.pauseUpdate k t).savesBegun = p.savesBegun := by
  simp only [Part.pauseUpdate]
  (repeat' split) <;> simp

@[simp] theorem Part.refill_savesBegun : (p.refill k t).savesBegun = p.savesBegun := by
  simp only [Part.refill, Part.requestFetch]
  (repeat' split) <;> simp

@[simp] theorem Part.raiseAsk_savesBegun : (p.raiseAsk k t).savesBegun = p.savesBegun := by
  simp only [Part.raiseAsk]
  (repeat' split) <;> simp

@[simp] theorem Part.streamAsk_savesBegun : (p.streamAsk k t).savesBegun = p.savesBegun := by
  simp only [Part.streamAsk]
  split <;> simp

@[simp] theorem Part.holdRecord_savesBegun (cause : Cause) : (p.holdRecord t h cause).savesBegun = p.savesBegun := by
  simp only [Part.holdRecord]
  split <;> rfl

@[simp] theorem Part.startPreparing_savesBegun (source : Source) (length : Nat) :
    (p.startPreparing k t h source length).savesBegun = p.savesBegun := by
  simp [Part.startPreparing]

@[simp] theorem Part.resolve_savesBegun (r : Record) (l : Load) : (p.resolve k t r l).1.savesBegun = p.savesBegun := by
  simp only [Part.resolve, Part.unavailable, Part.requestFetch]
  (repeat' split) <;> simp

@[simp] theorem Part.takeUpTo_savesBegun (n : Nat) : (p.takeUpTo k t n).savesBegun = p.savesBegun := by
  induction n generalizing p with
  | zero => rfl
  | succ n ih =>
    have hone : (p.takeOne k t).1.savesBegun = p.savesBegun := by
      simp only [Part.takeOne]
      (repeat' split) <;> simp
    simp only [Part.takeUpTo]
    split <;> simp [ih, hone]

@[simp] theorem Part.takeTest_savesBegun : (p.takeTest k t).savesBegun = p.savesBegun := Part.takeUpTo_savesBegun _ _ _ _

@[simp] theorem Part.clearPush_savesBegun : (p.clearPush t h).savesBegun = p.savesBegun := by
  rw [Part.clearPush_eq]
  rfl

@[simp] theorem Part.failAttempt_savesBegun (reason : FailReason) (code : Nat) (byTimer : Bool) :
    (p.failAttempt k t reason code byTimer).savesBegun = p.savesBegun := by
  simp only [Part.failAttempt, Part.orphanLoadStatus, Part.modExpectations]
  (repeat' split) <;> simp

@[simp] theorem Part.freeRecord_savesBegun (cause : Cause) : (p.freeRecord k t h cause).savesBegun = p.savesBegun := by
  simp only [Part.freeRecord, Part.leavePush, Part.abortPush, Part.orphan, Part.orphanLoadStatus, Part.modExpectations,
    Part.dropRecord, Part.modEntry, Part.raiseTerminal]
  (repeat' split) <;> simp

@[simp] theorem Part.reportSent_savesBegun (o : Order) : (p.reportSent k t o).savesBegun = p.savesBegun := by
  cases o <;> simp only [Part.reportSent, Part.lagByTagSent, Part.lagByHandleSent, Part.prepareSent, Part.commitSent,
    Part.enterAligning, Part.raiseTerminal] <;> (repeat' split) <;> simp

@[simp] theorem Part.fillField_savesBegun : (p.fillField k t).savesBegun = p.savesBegun := by
  have horder : ∀ p : Part, (p.orderCell k t).1.savesBegun = p.savesBegun := fun p => by
    simp only [Part.orderCell]
    split <;> simp
  have hload : ∀ p : Part, (p.loadOrOrderCell k t).1.savesBegun = p.savesBegun := fun p => by
    simp only [Part.loadOrOrderCell, Part.cellSupplied]
    split <;> simp [horder]
  simp [Part.fillField, horder, hload]

@[simp] theorem Part.arise_savesBegun (f : Factor) (measure : Nat) : (p.arise k t f measure).savesBegun = p.savesBegun := by
  simp only [Part.arise]
  split <;> simp

@[simp] theorem Part.spanStep_savesBegun : (p.spanStep k t).savesBegun = p.savesBegun := by
  simp only [Part.spanStep, Part.spanEnds, Part.endFactor, Part.startResume]
  (repeat' split) <;> simp

@[simp] theorem Part.settleSlots_savesBegun (slot n : Nat) : (p.settleSlots k t slot n).1.savesBegun = p.savesBegun := by
  induction n generalizing p slot with
  | zero => rfl
  | succ n ih =>
    have hone : (p.settleSlot k t slot).1.savesBegun = p.savesBegun := by
      simp only [Part.settleSlot, Part.issueGrant, Part.modExpectations]
      (repeat' split) <;> simp
    simp [Part.settleSlots, ih, hone]

@[simp] theorem Part.enabledStart_savesBegun (boundary : Bool) : (p.enabledStart k boundary t).savesBegun = p.savesBegun := by
  have hwindow : ∀ p : Part, (p.windowStep k t).savesBegun = p.savesBegun := fun p => by
    simp only [Part.windowStep, Part.callStart]
    (repeat' split) <;> rfl
  have hheader : ∀ p : Part, (p.headerStep k t).savesBegun = p.savesBegun := fun p => by
    simp only [Part.headerStep]
    split <;> simp
  have hsettle : ∀ (p : Part) (k : Clock), (p.settleStep k t).savesBegun = p.savesBegun := fun p k => by
    simp only [Part.settleStep, Part.enterStreaming]
    (repeat' split) <;> simp
  have hdark : ∀ (p : Part) (k : Clock), (p.darkStep k t).savesBegun = p.savesBegun := fun p k => by
    simp only [Part.darkStep, Part.darkTest]
    (repeat' split) <;> simp
  simp only [Part.enabledStart, Part.duesOfTree, Part.pollDuesOfTree, Part.reoffer]
  split <;> simp [hwindow, hheader, hsettle, hdark]

@[simp] theorem Part.staleTests_savesBegun : (p.staleTests t).savesBegun = p.savesBegun := by
  have hone : ∀ (p : Part) (h : Nat) (x : ReportSlot), (p.staleTest t h x).savesBegun = p.savesBegun := fun p h x => by
    simp only [Part.staleTest]
    (repeat' split) <;> simp
  exact Part.foldl_savesBegun _ (fun p h => Part.foldl_savesBegun _ (fun p x => hone p h x) _ p) _ p

@[simp] theorem Part.tenthTests_savesBegun : (p.tenthTests k t).savesBegun = p.savesBegun := by
  have hdeadlines : (allHandles.foldl (fun p h => p.deadlineTest k t h) p).savesBegun = p.savesBegun :=
    Part.foldl_savesBegun _ (fun p h => by simp only [Part.deadlineTest]; (repeat' split) <;> simp) _ p
  have hresume : ∀ p : Part, (p.resumeTimerTest k t).savesBegun = p.savesBegun := fun p => by
    simp only [Part.resumeTimerTest, Part.leaveHush]
    split <;> simp
  have hfail : ∀ (due : Bool) (p : Part) (reason : FailReason),
      (if due = true then p.failAttempt k t reason 0 true else p).savesBegun = p.savesBegun := fun due p reason => by
    split <;> simp
  have hprepare : ∀ p : Part, (p.prepareTimerTest k t).savesBegun = p.savesBegun := fun p => hfail _ p _
  have hbegin : ∀ p : Part, (p.beginTimerTest k t).savesBegun = p.savesBegun := fun p => hfail _ p _
  have hstall : ∀ p : Part, (p.stallTimerTest k t).savesBegun = p.savesBegun := fun p => hfail _ p _
  have hcommit : ∀ p : Part, (p.commitTimerTest k t).savesBegun = p.savesBegun := fun p => hfail _ p _
  rw [Part.tenthTests, hcommit, hstall, hbegin, hprepare, hresume, hdeadlines]

theorem Part.finishStart_savesBegun : (p.finishStart k).savesBegun = p.savesBegun := by
  have heach : ∀ (f : Part → TreeId → Part) (p : Part), (∀ p t, (f p t).savesBegun = p.savesBegun) →
      (p.eachTree f).savesBegun = p.savesBegun := fun f p hf => Part.foldl_savesBegun f hf _ p
  have htree : ∀ (p : Part) (k : Clock) (b : Bool) (t : TreeId), (p.treeStart k b t).savesBegun = p.savesBegun :=
    fun p k b t => by
      simp only [Part.treeStart]
      split <;> simp
  have hstale : ∀ p : Part, (p.eachTree fun p t => p.staleTests t).savesBegun = p.savesBegun := fun p =>
    heach _ p fun p t => p.staleTests_savesBegun t
  have hstart : ∀ (b : Bool) (p : Part), (p.eachTree fun p t => p.treeStart k b t).savesBegun = p.savesBegun := fun b p =>
    heach _ p fun p t => htree p k b t
  have htenth : ∀ (p : Part) (k : Clock), (p.eachTree fun p t => p.tenthTests k t).savesBegun = p.savesBegun := fun p k =>
    heach _ p fun p t => p.tenthTests_savesBegun k t
  have hclose : ∀ p : Part, (p.eachTree fun p t => p.modTree t Tree.closeStart).savesBegun = p.savesBegun := fun p =>
    heach _ p fun _ _ => rfl
  simp only [Part.finishStart, hclose]
  by_cases hb : k.stage = .boundaryTaken
  · simp only [hb, decide_true, if_true, htenth, hstart, hstale]
  · simp only [hb, decide_false, Bool.false_eq_true, if_false, hstart]

end

/-! ### What is still to do of a cycle start leaves the reply being sent, the slots and the count of saves -/

theorem Link.notifyAll_tx (l : Link) (ns : List Notice) : (l.notifyAll ns).tx = l.tx := by
  induction ns generalizing l with
  | nil => rfl
  | cons n ns ih =>
    rw [Link.notifyAll, List.foldl_cons]
    refine (ih _).trans ?_
    rw [Link.notify]
    split <;> rfl

theorem Link.kick_of_sending {l : Link} (h : l.tx.isSome = true) : l.kick = l := if_pos h

theorem State.boundaryStep_keeps (s : State) :
    s.boundaryStep.link = s.link ∧ s.boundaryStep.pending = s.pending ∧ s.boundaryStep.part.kept = s.part.kept
      ∧ s.boundaryStep.part.savesBegun = s.part.savesBegun := by
  rw [State.boundaryStep]
  split
  · exact ⟨rfl, rfl, Part.ageAll_kept _, rfl⟩
  · exact ⟨rfl, rfl, rfl, rfl⟩

theorem Link.afterEvent_of_sending {l : Link} {x : Tx} (h : l.tx = some x) (ns : List Notice) :
    (l.afterEvent ns).tx = some x := by
  have htx : (l.notifyAll ns).tx = some x := (Link.notifyAll_tx _ _).trans h
  exact (congrArg Link.tx (Link.kick_of_sending (by rw [htx]; rfl))).trans htx

theorem State.finishStart_part (s : State) :
    s.finishStart.part = s.boundaryStep.part.finishStart s.boundaryStep.clock := rfl

theorem State.finishStart_link (s : State) : s.finishStart.link = s.boundaryStep.link := rfl

theorem State.settle_savesBegun (s : State) : s.settle.part.savesBegun = s.part.savesBegun := rfl

theorem State.ready_of_sending {s : State} {x : Tx} (h : s.link.tx = some x) :
    s.ready.link.tx = some x ∧ s.ready.part.slots = s.part.slots ∧ s.ready.part.savesBegun = s.part.savesBegun
      ∧ s.ready.pending = s.pending := by
  rw [State.ready]
  split
  · exact ⟨h, rfl, rfl, rfl⟩
  · obtain ⟨hlink, hpending, hkept, hsaves⟩ := s.boundaryStep_keeps
    refine ⟨?_, ?_, ?_, s.finishStart.settle_pending.trans hpending⟩
    · rw [State.settle_link, State.finishStart_link, hlink]
      exact Link.afterEvent_of_sending h _
    · rw [State.settle_slots, State.finishStart_part]
      exact Part.kept_slots ((Part.finishStart_kept _ _).trans hkept)
    · rw [State.settle_savesBegun, State.finishStart_part, Part.finishStart_savesBegun, hsaves]

/-! ### Start-up (R189) -/

/-- Start-up without the store: no tree has auto_start on right after a reset (R188, R189). -/
theorem Part.startUp_of_low (kind : ResetKind) (r0 r1 : Bool) (slots : Vector ProfileSlot 16) (saves : Nat) :
    ({ Part.afterReset ⟨r0, r1, false⟩ slots with savesBegun := saves } : Part).startUp kind =
      ({ Part.afterReset ⟨r0, r1, false⟩ slots with savesBegun := saves } : Part).raise
        (.startUp kind .noDevice .noDevice 0 0 0) := by
  have hauto : (fun t => ((({ Part.afterReset ⟨r0, r1, false⟩ slots with savesBegun := saves } : Part).tree t).settings.autoStart)) =
      fun _ => false := funext fun t => by cases t <;> rfl
  refine (if_neg (show ¬false = true from Bool.false_ne_true)).trans ?_
  rw [Part.finishStartUp, hauto]
  rfl

/-- The bytes of the START-UP notice of a part without a store (12.10). -/
theorem startUp_contents (kind : ResetKind) :
    (Notice.startUp kind .noDevice .noDevice 0 0 0).contents = [byte kind.code, 3#8, 3#8, 0#8, 0#8, 0#8, 0#8, 0#8] := by
  cases kind <;> decide

/-- The START-UP notice right after a reset is being sent (R184, R185). -/
theorem Link.afterReset_startUp (rate : Nat) (kind : ResetKind) :
    ((Link.afterReset rate).notify (.startUp kind .noDevice .noDevice 0 0 0)).kick =
      { Link.afterReset rate with
        tx := some ⟨.notice, 0x40#8, [0x02#8, byte kind.code, 3#8, 3#8, 0#8, 0#8, 0#8, 0#8, 0#8]⟩
        notices := [⟨.startUp kind .noDevice .noDevice 0 0 0, false⟩] } := by
  have hstart : ((Link.afterReset rate).notify (.startUp kind .noDevice .noDevice 0 0 0)).kick =
      { Link.afterReset rate with
        tx := some ⟨.notice, 0x40#8, frameFlags false true :: (Notice.startUp kind .noDevice .noDevice 0 0 0).contents⟩
        notices := [⟨.startUp kind .noDevice .noDevice 0 0 0, false⟩] } := rfl
  rw [hstart, startUp_contents, show frameFlags false true = 0x02#8 by decide]

/-- With the store strap low start-up ends at once (R189). -/
theorem State.restart_of_low (s : State) (kind : ResetKind) (r0 r1 : Bool) (slots : Vector ProfileSlot 16) :
    s.restart kind ⟨r0, r1, false⟩ slots =
      { s with
        clock := .afterReset
        part := { Part.afterReset ⟨r0, r1, false⟩ slots with savesBegun := s.part.savesBegun }
        link := ((Link.afterReset (Straps.rateCode ⟨r0, r1, false⟩)).notify (.startUp kind .noDevice .noDevice 0 0 0)).kick } := by
  rw [State.restart, Part.startUp_of_low]
  rfl

/-- With the store strap high the loader reads the first page of the settings block (R189). -/
theorem State.restart_of_high (s : State) (kind : ResetKind) (r0 r1 : Bool) (slots : Vector ProfileSlot 16) :
    s.restart kind ⟨r0, r1, true⟩ slots =
      { s with
        clock := .afterReset
        part :=
          { Part.afterReset ⟨r0, r1, true⟩ slots with
            savesBegun := s.part.savesBegun
            loader := some ⟨kind, none, []⟩
            master := ⟨some ⟨.loader, .block, 0, 64, false⟩, .saver⟩ }
        link := .afterReset (Straps.rateCode ⟨r0, r1, true⟩) } :=
  rfl

theorem Straps.rateCode_eq (r0 r1 store : Bool) : Straps.rateCode ⟨r0, r1, store⟩ = 2 * r1.toNat + r0.toNat := by
  cases r0 <;> cases r1 <;> rfl

theorem ProfileSlot.kept_eq (v : ProfileSlot) : v.kept = if v.state = .ready then v else .empty := by
  simp only [ProfileSlot.kept, beq_iff_eq]

/-- Settles O22: each restart with the strap low and high; a soft reset waits for the RESET reply being sent. -/
theorem resetLeaves : Obligations.ResetLeaves := by
  unfold Obligations.ResetLeaves
  intro s r0 r1
  have hkept : s.part.slots.map ProfileSlot.kept = s.part.slots.map fun v => if v.state = .ready then v else .empty :=
    congrArg (s.part.slots.map ·) (funext ProfileSlot.kept_eq)
  refine ⟨?_, ?_, fun x hx hsource => ?_, fun store hclosed hnone => ?_, ?_⟩
  · refine congrArg Host.Outcome.next ((s.restart_of_low .powerOn r0 r1 emptySlots).trans ?_)
    rw [Straps.rateCode_eq, Link.afterReset_startUp]
    rfl
  · refine congrArg Host.Outcome.next ((s.restart_of_high .powerOn r0 r1 emptySlots).trans ?_)
    rw [Straps.rateCode_eq]
    rfl
  · obtain ⟨htx, hslots, hsaves, hpending⟩ := State.ready_of_sending hx
    have hreset : ∀ straps, s.resetReplySent straps =
        s.ready.restart .soft straps (s.part.slots.map fun v => if v.state = .ready then v else .empty) := fun straps => by
      rw [State.resetReplySent, if_pos (by rw [Link.sendsReset, htx, Option.any_some, hsource]; rfl), State.softReset, hslots,
        hkept]
    refine ⟨congrArg Host.Outcome.next ((hreset _).trans ?_), congrArg Host.Outcome.next ((hreset _).trans ?_)⟩
    · rw [State.restart_of_low, Straps.rateCode_eq, hsaves, hpending, Link.afterReset_startUp]
      rfl
    · rw [State.restart_of_high, Straps.rateCode_eq, hsaves, hpending]
      rfl
  · refine congrArg Host.Outcome.next (if_neg ?_)
    rw [State.ready_of_closed hclosed, Link.sendsReset]
    cases htx : s.link.tx with
    | none => exact Bool.false_ne_true
    | some x => exact fun h => hnone x htx (beq_iff_eq.mp h)
  · cases r0 <;> cases r1 <;> rfl

end Sys2Proof.Machine
end

section
/-!
PROOFS. The start-up loader: its reads, the blocks it applies, and the end of start-up (the statement O23).
-/

namespace Sys2Proof.Machine

/-! ### The end of start-up (R189) -/

theorem Part.startUpNotices_of_trees {p q : Part} (h : q.trees = p.trees) (kind : ResetKind) (a b : StartResult) (n m : Nat) :
    q.startUpNotices kind a b n m = p.startUpNotices kind a b n m := by
  have htree : q.tree = p.tree := funext fun t => congrArg (PerTree.get · t) h
  rw [Part.startUpNotices, Part.startUpNotices, htree]

/-- Start-up ends: its notice, and the trees with auto_start on are enabled, each with its notice. -/
theorem Part.finishStartUp_eq (p : Part) (kind : ResetKind) (a b : StartResult) (n m : Nat) :
    ∃ q, ({ p with loader := none } : Part).autoStarted q
      ∧ p.finishStartUp kind a b n m = { q with raised := p.raised ++ p.startUpNotices kind a b n m } := by
  obtain ⟨v, hv⟩ : ∃ v, v = ({ p with loader := none } : Part).raise
    (.startUp kind a b n m (maskOf fun t => (p.tree t).settings.autoStart)) := ⟨_, rfl⟩
  obtain ⟨ts, hts⟩ : ∃ ts, ts = allTrees.filter fun t => (p.tree t).settings.autoStart := ⟨_, rfl⟩
  have hfinish : p.finishStartUp kind a b n m = ts.foldl (fun p t => p.enableTree true t) v := by
    rw [hv, hts]
    rfl
  have hnodup : ts.Nodup := by
    rw [hts]
    exact List.Pairwise.filter _ (by decide)
  have hvtree : ∀ t, v.tree t = p.tree t := fun t => by
    rw [hv]
    rfl
  obtain ⟨hpart, htree⟩ := Part.foldl_enableTree true v hnodup
  rw [← hfinish] at hpart htree
  refine ⟨{ p with loader := none, trees := (p.finishStartUp kind a b n m).trees }, ⟨rfl, fun t => ?_⟩, hpart.trans ?_⟩
  · refine (htree t).trans ?_
    rw [hvtree]
    refine ite_of_iff ?_
    rw [hts, List.mem_filter]
    exact and_congr_left' (and_iff_right (mem_allTrees t))
  · rw [hv, hts, List.filter_filter]
    simp only [Part.raise, Part.startUpNotices, Part.tree, List.append_assoc, Bool.and_comm]
    rfl

/-- What the end of start-up leaves and raises, in a part that held no notice. -/
theorem State.withPart_finishStartUp (s : State) {p q : Part} (hraised : p.raised = []) (htrees : q.trees = p.trees)
    (kind : ResetKind) (a b : StartResult) (n m : Nat) :
    ∃ r, ({ p with loader := none } : Part).autoStarted r
      ∧ s.withPart (p.finishStartUp kind a b n m) = s.afterEvent r (q.startUpNotices kind a b n m) := by
  obtain ⟨r, hr, hfinish⟩ := Part.finishStartUp_eq p kind a b n m
  refine ⟨r, hr, ?_⟩
  have hnone : r.raised = [] := (congrArg Part.raised hr.1).trans hraised
  rw [hfinish, hraised, Part.startUpNotices_of_trees htrees]
  exact State.withPart_raising s hnone _

/-! ### Reads (R189, R190) -/

theorem exec_storeLoadReadDone_of_read {s : State} {v : Loader} {a n : Nat} {result : Option (List Byte)} (hs : s.Settled)
    (hloader : s.part.loader = some v) (hmaster : s.part.master = ⟨some ⟨.loader, .block, a, n, false⟩, .saver⟩)
    (hfits : ∀ bs, result = some bs → bs.length = n) :
    exec (.storeLoadReadDone result) s =
      .next (s.withPart (({ s.part with master := ⟨none, .saver⟩ } : Part).loaderRead v result)) := by
  refine congrArg Host.Outcome.next ?_
  have htransfer := Part.transferOf_of_current (p := s.part) (r := .loader) (result := result)
    (congrArg Master.current hmaster) rfl hfits
  rw [State.loadReadDone, hs.ready, hloader, htransfer]
  refine congrArg (fun m : Master => s.withPart (({ s.part with master := m } : Part).loaderRead v result)) ?_
  rw [hmaster]

/-! ### The entries of the admission block (R64, R69) -/

theorem Part.applyEntry_withMaster (p : Part) (m : Master) (e : AdmitEntry) :
    ({ p with master := m } : Part).applyEntry e = (p.applyEntry e).map fun q => { q with master := m } := by
  have hcondition : (({ p with master := m } : Part).entry? e.tag).isSome = (p.entry? e.tag).isSome := rfl
  rw [Part.applyEntry, Part.applyEntry, hcondition]
  by_cases h1 : (p.entry? e.tag).isSome = true
  · simp only [if_pos h1]
    rfl
  · by_cases h2 : p.admission.length < Config.maxAdmission
    · simp only [if_neg h1, if_pos h2]
      rfl
    · simp only [if_neg h1, if_neg h2]
      rfl

theorem Part.applyEntries_withMaster (p : Part) (m : Master) (es : List AdmitEntry) (n : Nat) :
    ({ p with master := m } : Part).applyEntries es n =
      ({ (p.applyEntries es n).1 with master := m }, (p.applyEntries es n).2) := by
  induction es generalizing p n with
  | nil => rfl
  | cons e es ih =>
    rw [Part.applyEntries, Part.applyEntries, Part.applyEntry_withMaster]
    cases p.applyEntry e with
    | none => rfl
    | some q => exact ih q (n + 1)

theorem Part.applyEntries_trees (p : Part) (es : List AdmitEntry) (n : Nat) : (p.applyEntries es n).1.trees = p.trees := by
  induction es generalizing p n with
  | nil => rfl
  | cons e es ih =>
    rw [Part.applyEntries]
    cases h : p.applyEntry e with
    | none => rfl
    | some q =>
      refine (ih q (n + 1)).trans ?_
      rw [Part.applyEntry] at h
      split at h
      · obtain rfl := Option.some.inj h
        rfl
      · split at h
        · obtain rfl := Option.some.inj h
          rfl
        · cases h

/-- The entries with a bad field are those that are skipped (R64). -/
theorem length_filterMap_entryOf (blocks : List (List Byte)) :
    blocks.length - (blocks.filterMap entryOf).length =
      (blocks.filter fun b =>
        decide (64 < (byteAt b 8).toNat ∨ 15 < (byteAt b 9).toNat ∨ 16 < (byteAt b 10).toNat)).length := by
  have hsum : (blocks.filterMap entryOf).length + (blocks.filter fun b =>
      decide (64 < (byteAt b 8).toNat ∨ 15 < (byteAt b 9).toNat ∨ 16 < (byteAt b 10).toNat)).length = blocks.length := by
    induction blocks with
    | nil => rfl
    | cons b rest ih =>
      by_cases hbad : 64 < (byteAt b 8).toNat ∨ 15 < (byteAt b 9).toNat ∨ 16 < (byteAt b 10).toNat
      · rw [List.filterMap_cons_none (entryOf_of_bad hbad), List.filter_cons_of_pos (by exact decide_eq_true hbad)]
        simp only [List.length_cons]
        omega
      · obtain ⟨e, he⟩ : ∃ e, entryOf b = some e := by
          refine ⟨_, if_neg ?_⟩
          rwa [Bool.or_eq_true, Bool.or_eq_true, decide_eq_true_eq, decide_eq_true_eq, decide_eq_true_eq, or_assoc]
        rw [List.filterMap_cons_some he, List.filter_cons_of_neg (by rw [decide_eq_true_eq]; exact hbad)]
        simp only [List.length_cons]
        omega
  omega

/-! ### The bytes of the two blocks (12.8) -/

theorem numAt_count (m c1 c2 : Byte) (more : List Byte) :
    numAt (m :: c1 :: c2 :: more) 1 2 = c1.toNat * 256 + c2.toNat := by
  simp [numAt, fieldAt, fromBe]

/-- A block whose marker or count is wrong is not read further. -/
theorem Part.admissionRead_of_badHead (p : Part) (v : Loader) (result : StartResult) {m c1 c2 : Byte} {more : List Byte}
    (h : m ≠ 0xC4#8 ∨ 256 < c1.toNat * 256 + c2.toNat) :
    p.admissionRead v result (m :: c1 :: c2 :: more) = p.finishStartUp v.kind result .defaulted 0 0 := by
  simp only [Part.admissionRead, numAt_count]
  refine if_pos ?_
  rw [Bool.or_eq_true, decide_eq_true_eq]
  exact h.imp_left fun hm => bne_iff_ne.mpr hm

/-- A block whose marker and count are right, by what follows. -/
theorem Part.admissionRead_of_head (p : Part) (v : Loader) (result : StartResult) {c1 c2 : Byte} {more : List Byte}
    (h : c1.toNat * 256 + c2.toNat ≤ 256) {got : List Byte} (hgot : got = 0xC4#8 :: c1 :: c2 :: more) :
    p.admissionRead v result got =
      if got.length < 5 + 27 * (c1.toNat * 256 + c2.toNat) then
        ({ p with loader := some ⟨v.kind, some result, got⟩ } : Part).loaderReads (1024 + got.length)
          (min 64 (5 + 27 * (c1.toNat * 256 + c2.toNat) - got.length))
      else if be 2 (crc16 (fieldAt got 5 (27 * (c1.toNat * 256 + c2.toNat)))).toNat == fieldAt got 3 2 then
        p.admissionApplied v result (chunks27 (fieldAt got 5 (27 * (c1.toNat * 256 + c2.toNat))))
      else p.finishStartUp v.kind result .defaulted 0 0 := by
  have hcount : numAt got 1 2 = c1.toNat * 256 + c2.toNat := by rw [hgot, numAt_count]
  have hmarker : byteAt got 0 = 0xC4#8 := by rw [hgot]; rfl
  simp only [Part.admissionRead, hcount, hmarker]
  refine if_neg ?_
  rw [Bool.or_eq_true, decide_eq_true_eq, bne_iff_ne]
  exact fun hbad => hbad.elim (fun hne => hne rfl) (Nat.not_lt.mpr h)

/-- A whole block, by its CRC. -/
theorem Part.admissionRead_of_blocks (p : Part) (v : Loader) (result : StartResult) {c1 c2 d1 d2 : Byte}
    {blocks : List (List Byte)} {rest got : List Byte} (h : c1.toNat * 256 + c2.toNat ≤ 256)
    (hgot : got = 0xC4#8 :: c1 :: c2 :: d1 :: d2 :: (blocks.flatten ++ rest)) (hblocks : ∀ b ∈ blocks, b.length = 27)
    (hcount : blocks.length = c1.toNat * 256 + c2.toNat) :
    p.admissionRead v result got =
      if [d1, d2] = be 2 (crc16 blocks.flatten).toNat then p.admissionApplied v result blocks
      else p.finishStartUp v.kind result .defaulted 0 0 := by
  have hflat := length_flatten_of_length hblocks
  have hlength : ¬ got.length < 5 + 27 * (c1.toNat * 256 + c2.toNat) := by
    rw [hgot, ← hcount]
    simp only [List.length_cons, List.length_append, hflat]
    omega
  have hbody : fieldAt got 5 (27 * (c1.toNat * 256 + c2.toNat)) = blocks.flatten := by
    rw [hgot, ← hcount, ← hflat]
    exact List.take_left' rfl
  have hcrc : fieldAt got 3 2 = [d1, d2] := by
    rw [hgot]
    rfl
  rw [Part.admissionRead_of_head p v result h hgot, if_neg hlength, hbody, hcrc, chunks27_flatten hblocks]
  refine ite_of_iff ?_
  rw [beq_iff_eq]
  exact eq_comm

theorem Part.eachTree_withMaster (f : TreeId → Tree → Tree) (p : Part) (m : Master) :
    (({ p with master := m } : Part).eachTree fun p t => p.modTree t (f t)) =
      { p.eachTree fun p t => p.modTree t (f t) with master := m } := by
  simp only [Part.eachTree]
  induction allTrees generalizing p with
  | nil => rfl
  | cons t ts ih => exact ih (p.modTree t (f t))

theorem Part.applySettings_withMaster (p : Part) (m : Master) (body : List Byte) :
    ({ p with master := m } : Part).applySettings body = { p.applySettings body with master := m } := by
  rw [Part.applySettings_eq, Part.applySettings_eq, Part.eachTree_withMaster]

/-- The next read, behind the bytes that a loader keeps. -/
theorem exec_storeLoadReadDone_of_reads {s : State} {v w : Loader} {a n address length : Nat} {result : Option (List Byte)}
    {p : Part} (hs : s.Settled) (hloader : s.part.loader = some v)
    (hmaster : s.part.master = ⟨some ⟨.loader, .block, a, n, false⟩, .saver⟩)
    (hfits : ∀ bs, result = some bs → bs.length = n) (hp : p.raised = [])
    (h : ({ s.part with master := ⟨none, .saver⟩ } : Part).loaderRead v result =
      { p with
        loader := some w
        master := ⟨some ⟨.loader, .block, address, length, false⟩, .saver⟩ }) :
    exec (.storeLoadReadDone result) s =
      .next (s.afterEvent
        { p with
          loader := some w
          master := ⟨some ⟨.loader, .block, address, length, false⟩, .saver⟩ } []) := by
  rw [exec_storeLoadReadDone_of_read hs hloader hmaster hfits, h]
  exact congrArg Host.Outcome.next (State.withPart_quiet s hp)

/-- Settles O23: the settings block first, then the admission block by its head, its length and its CRC. -/
theorem loaderReadEnds : Obligations.LoaderReadEnds := by
  unfold Obligations.LoaderReadEnds
  intro s v a n hs hloader hmaster
  obtain ⟨hclosed, hraised⟩ := id hs
  have hfits : ∀ bs : List Byte, bs.length = n → ∀ cs, some bs = some cs → cs.length = n := fun bs h cs hc =>
    Option.some.inj hc ▸ h
  refine ⟨fun hsettings => ?_, fun bs hsettings hlength hshort => ?_, fun bs hsettings hlength hlong => ?_,
    fun result hsettings => ⟨?_, fun bs hlength => ⟨?_, fun c1 c2 d1 d2 body hgot hcount => ⟨fun hshort => ?_,
      fun blocks rest hbody hblocks hblockCount => ⟨fun hcrc => ?_, fun hcrc => ?_⟩⟩⟩⟩⟩
  · refine exec_storeLoadReadDone_of_reads hs hloader hmaster (fun _ h => by cases h) hraised ?_
    simp only [Part.loaderRead, hsettings]
    rfl
  · refine exec_storeLoadReadDone_of_reads hs hloader hmaster (hfits bs hlength) hraised ?_
    simp only [Part.loaderRead, hsettings]
    refine (if_pos hshort).trans ?_
    rw [Part.loaderReads, show Config.settingsBase + (v.got ++ bs).length = (v.got ++ bs).length from Nat.zero_add _]
    rfl
  · refine exec_storeLoadReadDone_of_reads hs hloader hmaster (hfits bs hlength) ?_ ?_
    · split
      · exact hraised
      · exact hraised
    · simp only [Part.loaderRead, hsettings]
      refine (if_neg (Nat.not_lt.mpr hlong)).trans ?_
      cases settingsBlockGood (v.got ++ bs) with
      | true => exact congrArg (Part.settingsJudged · v .loaded) (Part.applySettings_withMaster s.part _ _)
      | false => rfl
  · obtain ⟨r, hr, hnext⟩ := State.withPart_finishStartUp s (p := { s.part with master := ⟨none, .saver⟩ }) (q := s.part)
      hraised rfl v.kind result .fault 0 0
    refine ⟨r, hr, (exec_storeLoadReadDone_of_read hs hloader hmaster (fun _ h => by cases h)).trans
      (congrArg Host.Outcome.next ?_)⟩
    simp only [Part.loaderRead, hsettings]
    exact hnext
  · rintro ⟨m, c1, c2, more, hgot, hbad⟩
    obtain ⟨r, hr, hnext⟩ := State.withPart_finishStartUp s (p := { s.part with master := ⟨none, .saver⟩ }) (q := s.part)
      hraised rfl v.kind result .defaulted 0 0
    refine ⟨r, hr, (exec_storeLoadReadDone_of_read hs hloader hmaster (hfits bs hlength)).trans
      (congrArg Host.Outcome.next ?_)⟩
    simp only [Part.loaderRead, hsettings, hgot]
    refine (congrArg s.withPart ?_).trans hnext
    exact Part.admissionRead_of_badHead _ v result hbad
  · refine exec_storeLoadReadDone_of_reads hs hloader hmaster (hfits bs hlength) hraised ?_
    simp only [Part.loaderRead, hsettings]
    refine (Part.admissionRead_of_head _ v result hcount hgot).trans ?_
    have hall : (v.got ++ bs).length = 5 + body.length := by
      rw [hgot]
      simp only [List.length_cons]
      omega
    rw [if_pos (by omega), hall, Nat.add_sub_add_left, Nat.add_assoc]
    rfl
  · obtain ⟨r, hr, hnext⟩ := State.withPart_finishStartUp s (p := { s.part with master := ⟨none, .saver⟩ }) (q := s.part)
      hraised rfl v.kind result .defaulted 0 0
    refine ⟨r, hr, (exec_storeLoadReadDone_of_read hs hloader hmaster (hfits bs hlength)).trans
      (congrArg Host.Outcome.next ?_)⟩
    simp only [Part.loaderRead, hsettings]
    refine (congrArg s.withPart ?_).trans hnext
    refine (Part.admissionRead_of_blocks _ v result hcount (hgot.trans (by rw [hbody])) hblocks hblockCount).trans ?_
    exact if_neg fun h => hcrc h
  · obtain ⟨r, hr, hnext⟩ := State.withPart_finishStartUp s
      (p := { (s.part.applyEntries (blocks.filterMap entryOf) 0).1 with master := ⟨none, .saver⟩ }) (q := s.part)
      ((Part.applyEntries_raised _ _ _).trans hraised) (Part.applyEntries_trees _ _ _).symm v.kind result .loaded
      (s.part.applyEntries (blocks.filterMap entryOf) 0).2 _
    refine ⟨r, hr, (exec_storeLoadReadDone_of_read hs hloader hmaster (hfits bs hlength)).trans
      (congrArg Host.Outcome.next ?_)⟩
    simp only [Part.loaderRead, hsettings]
    refine (congrArg s.withPart ?_).trans hnext
    refine (Part.admissionRead_of_blocks _ v result hcount (hgot.trans (by rw [hbody])) hblocks hblockCount).trans ?_
    rw [if_pos hcrc, Part.admissionApplied, Part.applyEntries_withMaster, length_filterMap_entryOf]

end Sys2Proof.Machine
end

section
/-!
PROOFS. A cycle start seen from one tree: its window scheduler's part, its header, its guard and its control field.
-/

namespace Sys2Proof.Machine

/-! ### A tree and its records, but for their report stores -/

/-- What the tests of reports leave alone of one tree. -/
def Part.ownUnreported (p : Part) (u : TreeId) : Tree × List Record := (p.tree u, (p.recordsOf u).map (·.unreported))

theorem Part.ownUnreported_of_own {p q : Part} {u : TreeId} (h : q.own u = p.own u) :
    q.ownUnreported u = p.ownUnreported u := by
  obtain ⟨htree, hrecords⟩ := Part.own_eq h
  rw [Part.ownUnreported, Part.ownUnreported, htree, hrecords]

theorem Part.mapRecords_ownUnreported (p : Part) (u : TreeId) (f : Record → Record) (htree : ∀ r, (f r).tree = r.tree)
    (hf : ∀ r, (f r).unreported = r.unreported) : ({ p with records := p.records.map f } : Part).ownUnreported u = p.ownUnreported u := by
  have hrecords : (p.records.map f).filter (·.tree == u) = (p.records.filter (·.tree == u)).map f := filter_tree_map f htree _ u
  have hmap : ((p.records.map f).filter (·.tree == u)).map (·.unreported) =
      (p.records.filter (·.tree == u)).map (·.unreported) := by
    rw [hrecords, List.map_map]
    exact List.map_congr_left fun r _ => hf r
  exact congrArg (Prod.mk (p.tree u)) hmap

theorem Part.staleTest_ownUnreported (p : Part) (t u : TreeId) (h : Nat) (x : ReportSlot) :
    (p.staleTest t h x).ownUnreported u = p.ownUnreported u := by
  rw [Part.staleTest]
  split
  · rfl
  · split
    · exact Part.mapRecords_ownUnreported p u _ (fun r => by split <;> rfl) fun r => by split <;> rfl
    · rfl

theorem Part.staleTests_ownUnreported (p : Part) (t u : TreeId) : (p.staleTests t).ownUnreported u = p.ownUnreported u := by
  rw [Part.staleTests]
  induction allHandles generalizing p with
  | nil => rfl
  | cons h hs ih =>
    rw [List.foldl_cons, ih, allSlots]
    exact (Part.staleTest_ownUnreported _ t u h .c).trans ((Part.staleTest_ownUnreported _ t u h .b).trans
      (Part.staleTest_ownUnreported p t u h .a))

theorem Part.ageAll_ownUnreported (p : Part) (u : TreeId) : p.ageAll.ownUnreported u = p.ownUnreported u :=
  Part.mapRecords_ownUnreported p u _ (fun r => by rw [Record.ageReports]; split <;> rfl) fun r => by
    rw [Record.ageReports]
    split <;> rfl

/-! ### The work left of an open cycle start, on one tree -/

/-- What the cycle start works on when it comes to the tree `u`: for this tree the part it was given, the reports that went
stale apart. -/
def Part.SameFor (p q : Part) (u : TreeId) (boundary : Bool) : Prop :=
  q.ownUnreported u = p.ownUnreported u ∧ q.kept = p.kept ∧ q.names = p.names ∧ (boundary = false → q.own u = p.own u)

theorem Part.SameFor.trans {p q r : Part} {u : TreeId} {b : Bool} (h1 : p.SameFor q u b) (h2 : q.SameFor r u b) :
    p.SameFor r u b := by
  obtain ⟨hown1, hkept1, hnames1, hsame1⟩ := h1
  obtain ⟨hown2, hkept2, hnames2, hsame2⟩ := h2
  exact ⟨hown2.trans hown1, hkept2.trans hkept1, hnames2.trans hnames1, fun hb => (hsame2 hb).trans (hsame1 hb)⟩

theorem Part.staleTests_sameFor (p : Part) (u : TreeId) :
    p.SameFor (p.eachTree fun p t => p.staleTests t) u true := by
  obtain ⟨q, hown, hkept, hnames, hall⟩ := Part.eachTree_own p (u := u) (fun p t => p.staleTests t)
    (fun p t hu => Part.staleTests_own hu p) (fun p t => Part.staleTests_kept p t) fun p t => Part.staleTests_names p t
  refine ⟨?_, Part.eachTree_kept _ _ fun p t => Part.staleTests_kept p t, ?_, fun h => by cases h⟩
  · exact (Part.ownUnreported_of_own hall).trans ((Part.staleTests_ownUnreported q u u).trans (Part.ownUnreported_of_own hown))
  · exact Part.foldl_names _ (fun p t => Part.staleTests_names p t) _ p

/-- What the end of a cycle start leaves of the tree `u` is what its own part of the cycle start leaves, the marks cleared,
and the timers and deadlines of a tenth boundary apart. -/
theorem Part.finishStart_tree (p : Part) (k : Clock) (u : TreeId) :
    ∃ q, p.SameFor q u (decide (k.stage = .boundaryTaken))
      ∧ ((p.finishStart k).tree u).sent = ((q.treeStart k (decide (k.stage = .boundaryTaken)) u).tree u).sent
      ∧ ((p.finishStart k).tree u).paced = ((q.treeStart k (decide (k.stage = .boundaryTaken)) u).tree u).paced
      ∧ (k.stage ≠ .boundaryTaken →
        (p.finishStart k).own u =
          (((q.treeStart k false u).tree u).closeStart, (q.treeStart k false u).recordsOf u)) := by
  obtain ⟨b, hb⟩ : ∃ b, b = decide (k.stage = .boundaryTaken) := ⟨_, rfl⟩
  obtain ⟨p1, hp1⟩ : ∃ p1, p1 = if b then p.eachTree fun p t => p.staleTests t else p := ⟨_, rfl⟩
  obtain ⟨p2, hp2⟩ : ∃ p2, p2 = p1.eachTree fun p t => p.treeStart k b t := ⟨_, rfl⟩
  obtain ⟨p3, hp3⟩ : ∃ p3, p3 = if b then p2.eachTree fun p t => p.tenthTests { k with stage := .closed } t else p2 :=
    ⟨_, rfl⟩
  have hfinish : p.finishStart k = p3.eachTree fun p t => p.modTree t Tree.closeStart := by
    rw [hp3, hp2, hp1, hb]
    rfl
  have hfirst : p.SameFor p1 u b := by
    rw [hp1]
    cases b with
    | true => exact Part.staleTests_sameFor p u
    | false => exact ⟨rfl, rfl, rfl, fun _ => rfl⟩
  obtain ⟨q, hown, hkept, hnames, hall⟩ := Part.eachTree_own p1 (u := u) (fun p t => p.treeStart k b t)
    (fun p t hu => Part.treeStart_own hu p k b) (fun p t => Part.treeStart_kept p k b t)
    fun p t => Part.treeStart_names p k b t
  rw [← hp2] at hall
  obtain ⟨htree, hrecords⟩ := Part.own_eq hall
  have hclosed := Part.eachTree_modTree_own p3 u fun _ => Tree.closeStart
  have hsent : p3.sent = p2.sent := by
    rw [hp3]
    split
    · exact Part.foldl_sent _ (fun p t => Part.tenthTests_sent p _ t) _ p2
    · rfl
  have hpaced : p3.paced = p2.paced := by
    rw [hp3]
    split
    · exact Part.foldl_paced _ (fun p t => Part.tenthTests_paced p _ t) _ p2
    · rfl
  obtain ⟨hclosedTree, hclosedRecords⟩ := Prod.mk.inj hclosed
  obtain ⟨hheader, hfield⟩ := Part.sent_trees hsent u
  rw [← hb, hfinish]
  refine ⟨q, hfirst.trans ⟨Part.ownUnreported_of_own hown, hkept, hnames, fun _ => hown⟩, ?_, ?_, fun hstage => ?_⟩
  · rw [hclosedTree, ← htree]
    exact Prod.ext hheader hfield
  · rw [hclosedTree, ← htree]
    exact Part.paced_tree hpaced u
  · have hfalse : b = false := by rw [hb]; exact decide_eq_false hstage
    have hsame : p3 = p2 := by rw [hp3, hfalse]; rfl
    rw [← hfalse]
    refine hclosed.trans ?_
    rw [hsame, htree, hrecords]

/-! ### The window scheduler's part (R37, R38, R40) -/

/-- The window scheduler's part of a cycle start, of one tree. -/
def Tree.windowed (T : Tree) (c : CycleNo) : Tree :=
  if T.callDue c then T.advanceTimer.sendCall c
  else if T.advanceTimer.windowDue then T.advanceTimer.beginWindow c
  else T.advanceTimer

theorem Tree.advanceTimer_callDue (T : Tree) (c : CycleNo) : T.advanceTimer.callDue c = T.callDue c := by
  rw [Tree.advanceTimer_eq]
  rfl

theorem Part.windowStep_tree (p : Part) (k : Clock) (u : TreeId) :
    (p.windowStep k u).tree u = (p.tree u).windowed k.cycle := by
  have hself : (p.modTree u Tree.advanceTimer).tree u = (p.tree u).advanceTimer := Part.tree_modTree_self _ _ _
  simp only [Part.windowStep, Tree.windowed, hself, Tree.advanceTimer_callDue]
  split
  · show ((p.modTree u Tree.advanceTimer).modTree u (·.sendCall k.cycle)).tree u = _
    rw [Part.tree_modTree_self, hself]
  · split
    · exact (Part.tree_modTree_self _ _ _).trans (by rw [hself])
    · exact hself

theorem Part.windowStep_recordsOf (p : Part) (k : Clock) (u : TreeId) :
    (p.windowStep k u).recordsOf u =
      if (p.tree u).callDue k.cycle then (p.recordsOf u).map fun r => { r with heardWindow := none }
      else p.recordsOf u := by
  have hself : (p.modTree u Tree.advanceTimer).tree u = (p.tree u).advanceTimer := Part.tree_modTree_self _ _ _
  simp only [Part.windowStep, hself, Tree.advanceTimer_callDue]
  split
  · exact filter_tree_map_self p.records u (fun r => { r with heardWindow := none }) fun r => rfl
  · split <;> rfl

/-- QUIET as a cycle start finds it (R16): released after the CALL cycle. -/
def Tree.quietAt (T : Tree) (c : CycleNo) : Bool :=
  match T.scheduler.phase with
  | .leadIn _ => T.quiet
  | .listening win => T.quiet && win.w == c
  | .idle => false

/-- A tree with what the light monitor and the guard hold of a cycle start. -/
def Tree.watching (T : Tree) (dark : Nat) (lit : Bool) (g : Guard) (span : Bool) : Tree :=
  { T with
    darkCount := dark
    lit := lit
    lightSeen := lit
    guard := g
    spanDone := span }

/-- The dark count as a cycle start finds it (R175). -/
def Tree.darkAt (T : Tree) : Nat := if T.lightSeen then 0 else min 65535 (T.darkCount + 1)

theorem Tree.openStart_lit_eq {T : Tree} (h : T.enabled = true) (c : CycleNo) (lit : Bool) :
    (T.openStart c).lightAtStart lit =
      ({ T with quiet := T.quietAt c } : Tree).watching T.darkAt lit T.guard T.spanDone := by
  have hopen : T.openStart c = { T with quiet := T.quietAt c, darkCount := T.darkAt, lightSeen := T.lit } :=
    if_neg (by rw [h]; exact Bool.false_ne_true)
  rw [hopen]
  exact if_pos h

/-- What the window scheduler makes of the tree `T` at the cycle start `c`: the tree after it, whether the cycle is a window
cycle, and its CALL (R37, R38, R40). -/
def Tree.WindowPart (T after : Tree) (c : CycleNo) (window : Bool) (call : Option CallField) : Prop :=
  T.scheduler.phase = .leadIn c ∧ window = true
      ∧ call = some ⟨T.scheduler.number + 1, settleSpread T.settings T.scheduler.spread⟩
      ∧ after = { T with
        scheduler :=
          ⟨.listening
            ⟨c, settleSpread T.settings T.scheduler.spread, spanStartOf T.settings c,
              spanStopOf T.settings c (settleSpread T.settings T.scheduler.spread), 0, 0⟩,
            0, settleSpread T.settings T.scheduler.spread, T.scheduler.number + 1⟩
        counters := { T.counters with windows := T.counters.windows + 1 }
        rawCount := 0 }
    ∨ (∃ w, T.scheduler.phase = .leadIn w ∧ w ≠ c) ∧ window = true ∧ call = none
      ∧ after = { T with scheduler := { T.scheduler with timer := min 65535 (T.scheduler.timer + 1) } }
    ∨ T.scheduler.phase = .idle ∧ T.settings.windowInterval ≤ min 65535 (T.scheduler.timer + 1) ∧ T.guard.hush = false
      ∧ window = true ∧ call = none
      ∧ after = { T with
        scheduler := { T.scheduler with
          phase := .leadIn (c + BitVec.ofNat 16 (leadInLength T.settings.reachDepth))
          timer := min 65535 (T.scheduler.timer + 1) }
        quiet := true
        windowBegun := true }
    ∨ ((∃ win, T.scheduler.phase = .listening win)
        ∨ T.scheduler.phase = .idle
          ∧ (min 65535 (T.scheduler.timer + 1) < T.settings.windowInterval ∨ T.guard.hush = true))
      ∧ window = false ∧ call = none
      ∧ after = { T with
        scheduler := { T.scheduler with timer := min 65535 (T.scheduler.timer + 1) }
        quiet := false }

/-- What the window scheduler's part leaves, what header it makes of it, and whether it is a CALL. -/
structure Tree.WindowPartDone (T1 after : Tree) (c : CycleNo) (window : Bool) (call : Option CallField) : Prop where
  tree : T1.windowed c = after
  cycle : after.isWindowCycle c = window
  header : after.callField c = call
  due : T1.callDue c = call.isSome

theorem Tree.windowed_of_part {T after : Tree} {c : CycleNo} {window : Bool} {call : Option CallField}
    (h : T.WindowPart after c window call) (hdone : T.timerDone = false) (hbegun : T.windowBegun = false)
    (hcalled : ∀ win, T.scheduler.phase = .listening win → win.w ≠ c) (dark : Nat) (lit : Bool) {g : Guard}
    (hg : g.hush = T.guard.hush) (span : Bool) :
    (({ T with quiet := T.quietAt c } : Tree).watching dark lit g span).WindowPartDone
      { after.watching dark lit g span with timerDone := true } c window call := by
  obtain ⟨T1, hT1⟩ : ∃ T1, T1 = ({ T with quiet := T.quietAt c } : Tree).watching dark lit g span := ⟨_, rfl⟩
  have hphase : T1.scheduler = T.scheduler := by rw [hT1]; rfl
  have hadvance : T1.advanceTimer =
      { T1 with
        scheduler := { T.scheduler with timer := min 65535 (T.scheduler.timer + 1) }
        timerDone := true } := by
    have hdone1 : T1.timerDone = false := by rw [hT1]; exact hdone
    rw [Tree.advanceTimer_eq, hdone1, hphase]
    rfl
  have hwindowDue : T1.advanceTimer.windowDue = true ↔
      T.scheduler.phase = .idle ∧ T.settings.windowInterval ≤ min 65535 (T.scheduler.timer + 1) ∧ T.guard.hush = false := by
    rw [Tree.windowDue_iff, hadvance, hT1, ← hg]
    rfl
  rw [← hT1]
  obtain ⟨hlead, rfl, rfl, rfl⟩ | ⟨⟨w, hlead, hw⟩, rfl, rfl, rfl⟩ | ⟨hidle, htimer, hhush, rfl, rfl, rfl⟩ |
    ⟨hrest, rfl, rfl, rfl⟩ := h
  · have hdue : T1.callDue c = true := by rw [Tree.callDue, hphase, hlead, beq_self_eq_true]
    refine ⟨?_, ?_, ?_, hdue⟩
    · rw [Tree.windowed, if_pos hdue, hadvance, hT1]
      simp only [Tree.quietAt, hlead]
      rfl
    · exact beq_self_eq_true c
    · simp only [Tree.callField, Tree.window?, Tree.watching]
      rw [Option.filter_some, if_pos (beq_self_eq_true c)]
      rfl
  · have hdue : T1.callDue c = false := by
      rw [Tree.callDue, hphase, hlead]
      simpa using hw
    have hno : ¬ T1.advanceTimer.windowDue = true := fun hh => by
      rw [hwindowDue, hlead] at hh
      exact Phase.noConfusion hh.1
    refine ⟨?_, ?_, ?_, hdue⟩
    · rw [Tree.windowed, if_neg (by rw [hdue]; exact Bool.false_ne_true), if_neg hno, hadvance, hT1]
      simp only [Tree.quietAt, hlead]
      rfl
    · simp [Tree.isWindowCycle, Tree.watching, hlead]
    · simp [Tree.callField, Tree.window?, Tree.watching, hlead]
  · have hdue : T1.callDue c = false := by
      rw [Tree.callDue, hphase, hidle]
      rfl
    refine ⟨?_, ?_, ?_, hdue⟩
    · rw [Tree.windowed, if_neg (by rw [hdue]; exact Bool.false_ne_true), if_pos (hwindowDue.mpr ⟨hidle, htimer, hhush⟩),
        hadvance, hT1]
      rfl
    · simp [Tree.isWindowCycle, Tree.watching]
    · simp [Tree.callField, Tree.window?, Tree.watching]
  · have hquiet : T.quietAt c = false := by
      obtain ⟨win, hlisten⟩ | ⟨hidle, -⟩ := hrest
      · simp [Tree.quietAt, hlisten, hcalled win hlisten]
      · simp [Tree.quietAt, hidle]
    have hdue : T1.callDue c = false := by
      rw [Tree.callDue, hphase]
      obtain ⟨win, hlisten⟩ | ⟨hidle, -⟩ := hrest
      · rw [hlisten]
        rfl
      · rw [hidle]
        rfl
    have hno : ¬ T1.advanceTimer.windowDue = true := fun hh => by
      obtain ⟨hphase2, htimer2, hhush2⟩ := hwindowDue.mp hh
      obtain ⟨win, hlisten⟩ | ⟨-, hlt | hhush⟩ := hrest
      · rw [hlisten] at hphase2
        exact Phase.noConfusion hphase2
      · exact Nat.not_le.mpr hlt htimer2
      · rw [hhush] at hhush2
        exact Bool.noConfusion hhush2
    refine ⟨?_, ?_, ?_, hdue⟩
    · rw [Tree.windowed, if_neg (by rw [hdue]; exact Bool.false_ne_true), if_neg hno, hadvance, hT1, hquiet]
      rfl
    · obtain ⟨win, hlisten⟩ | ⟨hidle, -⟩ := hrest
      · simp [Tree.isWindowCycle, Tree.watching, hlisten, hcalled win hlisten]
      · simp [Tree.isWindowCycle, Tree.watching, hidle, hbegun]
    · obtain ⟨win, hlisten⟩ | ⟨hidle, -⟩ := hrest
      · simp [Tree.callField, Tree.window?, Tree.watching, hlisten, hcalled win hlisten]
      · simp [Tree.callField, Tree.window?, Tree.watching, hidle]

end Sys2Proof.Machine
end

section
/-!
PROOFS. The work of a cycle start on one ENABLED tree, from the dues to the DARK test.
-/

namespace Sys2Proof.Machine

/-! ### Up to the dues -/

/-- The part that the arbiter finds at a cycle start: behind the span boundary, the window scheduler and the dues. -/
def Part.dueStart (p : Part) (k : Clock) (boundary : Bool) (u : TreeId) : Part :=
  if boundary then (((p.spanStep k u).windowStep k u).duesOfTree k u).pollDuesOfTree k u
  else ((p.spanStep k u).windowStep k u).duesOfTree k u

/-- What comes behind the header, but for the DARK test: the settling count, the field, the held orders, the ask. -/
def Part.fieldStart (p : Part) (k : Clock) (u : TreeId) : Part :=
  (((p.settleStep k u).fillField k u).reoffer u).streamAsk k u

theorem Part.enabledStart_eq (p : Part) (k : Clock) (boundary : Bool) (u : TreeId) :
    p.enabledStart k boundary u =
      (((p.dueStart k boundary u).headerStep k u).fieldStart { k with stage := .closed } u).darkStep
        { k with stage := .closed } u := by
  cases boundary <;> rfl

theorem Part.dueStart_tree (p : Part) (k : Clock) (boundary : Bool) (u : TreeId) :
    (p.dueStart k boundary u).tree u = ((p.spanStep k u).tree u).windowed k.cycle := by
  refine Eq.trans ?_ (Part.windowStep_tree (p.spanStep k u) k u)
  cases boundary <;> rfl

theorem Part.dueStart_kept (p : Part) (k : Clock) (boundary : Bool) (u : TreeId) :
    (p.dueStart k boundary u).kept = p.kept := by
  cases boundary <;> simp [Part.dueStart]

theorem Part.dueStart_names (p : Part) (k : Clock) (boundary : Bool) (u : TreeId) :
    (p.dueStart k boundary u).names = p.names := by
  cases boundary <;> simp [Part.dueStart]

theorem Tree.windowed_keeps (T : Tree) (c : CycleNo) :
    (T.windowed c).expectations = T.expectations ∧ (T.windowed c).queue = T.queue
      ∧ (T.windowed c).heldOrders = T.heldOrders := by
  obtain ⟨U, hU, hexpect, hqueue, hheld⟩ : ∃ U, T.advanceTimer = U ∧ U.expectations = T.expectations ∧ U.queue = T.queue
      ∧ U.heldOrders = T.heldOrders := ⟨_, T.advanceTimer_eq, rfl, rfl, rfl⟩
  rw [Tree.windowed, hU]
  by_cases hcall : T.callDue c = true
  · rw [if_pos hcall]
    exact ⟨hexpect, hqueue, hheld⟩
  · rw [if_neg hcall]
    by_cases hdue : U.windowDue = true
    · rw [if_pos hdue]
      exact ⟨hexpect, hqueue, hheld⟩
    · rw [if_neg hdue]
      exact ⟨hexpect, hqueue, hheld⟩

/-- A record as the arbiter finds it at a cycle start: its marks fallen due, and at a CALL its heard window absent. -/
def Record.atStart (r : Record) (T : Tree) (table : PerSlot TableSlot) (k : Clock) (boundary call : Bool) : Record :=
  if call then { r.fallenDue T table k boundary with heardWindow := none } else r.fallenDue T table k boundary

theorem Record.atStart_unreported (r : Record) (T : Tree) (table : PerSlot TableSlot) (k : Clock) (boundary call : Bool) :
    (r.atStart T table k boundary call).unreported = r.unreported.atStart T table k boundary call := by
  cases call <;> rfl

theorem Record.atStart_state (r : Record) (T : Tree) (table : PerSlot TableSlot) (k : Clock) (boundary call : Bool) :
    (r.atStart T table k boundary call).state = r.state := by
  cases call <;> rfl

theorem Part.dueStart_recordsOf (p : Part) (k : Clock) (boundary : Bool) (u : TreeId) {T : Tree}
    (h1 : (p.tree u).expectations = T.expectations) (h2 : (p.tree u).queue = T.queue)
    (h3 : (p.tree u).heldOrders = T.heldOrders) :
    (p.dueStart k boundary u).recordsOf u =
      (p.recordsOf u).map fun r => r.atStart T p.reportTable k boundary ((p.tree u).callDue k.cycle) := by
  obtain ⟨g, b, htree, -, -, -, hrecords⟩ := Part.spanStep_tree p k u
  obtain ⟨q, hq⟩ : ∃ q, q = (p.spanStep k u).windowStep k u := ⟨_, rfl⟩
  have hwindowed : q.tree u = (({ p.tree u with guard := g, spanDone := b } : Tree)).windowed k.cycle := by
    rw [hq, Part.windowStep_tree, htree]
  obtain ⟨hexpect, hqueue, hheld⟩ := Tree.windowed_keeps { p.tree u with guard := g, spanDone := b } k.cycle
  have htable : q.reportTable = p.reportTable := by
    rw [hq]
    exact Part.kept_reportTable ((Part.windowStep_kept _ k u).trans (Part.spanStep_kept p k u))
  have hcall : ((p.spanStep k u).tree u).callDue k.cycle = (p.tree u).callDue k.cycle := by
    rw [htree]
    rfl
  have hbefore : q.recordsOf u =
      if (p.tree u).callDue k.cycle then (p.recordsOf u).map fun r => { r with heardWindow := none }
      else p.recordsOf u := by
    rw [hq, Part.windowStep_recordsOf, hcall, Part.recordsOf, hrecords]
    rfl
  have hdues := Part.dues_recordsOf q k boundary u T (by rw [hwindowed, hexpect]; exact h1)
    (by rw [hwindowed, hqueue]; exact h2) (by rw [hwindowed, hheld]; exact h3)
  have hdue : (p.dueStart k boundary u).recordsOf u =
      (q.recordsOf u).map fun r => r.fallenDue T p.reportTable k boundary := by
    rw [← htable, ← hdues, hq]
    rfl
  rw [hdue, hbefore]
  cases (p.tree u).callDue k.cycle with
  | true => exact List.map_map
  | false => rfl

/-! ### The header (R6, R107) -/

/-- What the arbiter leaves alone of the tree, and how far the slot counter goes. -/
theorem Part.settleSlots_tree (p : Part) (k : Clock) (u : TreeId) (slot n : Nat) :
    ∃ xs e, (p.settleSlots k u slot n).1.tree u =
      { p.tree u with
        expectations := xs
        engine := e
        slotCounter := (p.tree u).slotCounter + BitVec.ofNat 16 n } := by
  induction n generalizing p slot with
  | zero => exact ⟨_, _, congrArg (fun c => { p.tree u with slotCounter := c }) (BitVec.add_zero _).symm⟩
  | succ n ih =>
    obtain ⟨xs1, e1, h1⟩ : ∃ xs e, (p.settleSlot k u slot).1.tree u =
        { p.tree u with
          expectations := xs
          engine := e
          slotCounter := (p.tree u).slotCounter + 1 } := by
      simp only [Part.settleSlot]
      rw [Part.tree_modTree_self]
      split
      · rw [Part.issueGrant_tree]
        exact ⟨_, _, rfl⟩
      · exact ⟨_, _, rfl⟩
    obtain ⟨xs2, e2, h2⟩ := ih (p.settleSlot k u slot).1 (slot + 1)
    have hcount : (p.tree u).slotCounter + 1 + BitVec.ofNat 16 n = (p.tree u).slotCounter + BitVec.ofNat 16 (n + 1) := by
      rw [Nat.add_comm n 1, BitVec.ofNat_add, ← BitVec.add_assoc]
      rfl
    refine ⟨xs2, e2, ?_⟩
    simp only [Part.settleSlots]
    rw [h2, h1]
    simp only [hcount]

theorem Part.settleSlots_length (p : Part) (k : Clock) (u : TreeId) (slot n : Nat) :
    (p.settleSlots k u slot n).2.length = n := by
  induction n generalizing p slot with
  | zero => rfl
  | succ n ih => exact congrArg (· + 1) (ih _ _)

/-- The entries of a header, and the part that they leave. -/
def Part.headerEntries (p : Part) (k : Clock) (u : TreeId) : Part × List GrantEntry :=
  if (p.tree u).isWindowCycle k.cycle then (p, List.replicate (p.tree u).settings.slotsPerCycle .unused)
  else p.settleSlots k u 0 (p.tree u).settings.slotsPerCycle

theorem Part.headerStep_eq (p : Part) (k : Clock) (u : TreeId) :
    p.headerStep k u = (p.headerEntries k u).1.modTree u fun T =>
      { T with header := ⟨k.cycle, (p.tree u).callField k.cycle, (p.headerEntries k u).2⟩ } := rfl

theorem Part.headerEntries_length (p : Part) (k : Clock) (u : TreeId) :
    (p.headerEntries k u).2.length = (p.tree u).settings.slotsPerCycle := by
  rw [Part.headerEntries]
  split
  · exact List.length_replicate
  · exact Part.settleSlots_length _ _ _ _ _

/-! ### Behind the header -/

theorem Part.fillField_paced (p : Part) (k : Clock) (u : TreeId) : (p.fillField k u).paced = p.paced := by
  simp only [Part.fillField]
  rw [Part.modTree_paced _ _ _ rfl rfl rfl rfl rfl rfl rfl]
  simp

theorem Part.fieldStart_paced (p : Part) (k : Clock) (u : TreeId) : (p.fieldStart k u).paced = p.paced := by
  rw [Part.fieldStart, Part.streamAsk_paced, Part.reoffer_paced, Part.fillField_paced, Part.settleStep_paced]

theorem Part.fieldStart_kept (p : Part) (k : Clock) (u : TreeId) : (p.fieldStart k u).kept = p.kept := by
  simp [Part.fieldStart]

theorem Part.fieldStart_watched {p : Part} (hp : p.KeysOnce) (k : Clock) (u : TreeId) :
    (p.fieldStart k u).watched u = p.watched u := by
  rw [Part.fieldStart, Part.streamAsk_watched, Part.reoffer_watched, Part.fillField_watched _ _ _ _
    (hp.of_names (Part.settleStep_names p k u)), Part.settleStep_watched]

/-- The control field comes out of `fillField` with its four cells, the header stays. -/
theorem Part.fillField_sent (p : Part) (k : Clock) (u : TreeId) :
    ((p.fillField k u).tree u).header = (p.tree u).header ∧ ((p.fillField k u).tree u).field.length = 4 := by
  simp only [Part.fillField]
  rw [Part.tree_modTree_self]
  exact ⟨(Part.sent_trees (by simp) u).1, rfl⟩

/-- Behind the header nothing writes it, and the field has its four cells. -/
theorem Part.fieldStart_sent (p : Part) (k : Clock) (u : TreeId) :
    ((p.fieldStart k u).tree u).header = (p.tree u).header ∧ ((p.fieldStart k u).tree u).field.length = 4 := by
  obtain ⟨hheader, hfield⟩ := Part.fillField_sent (p.settleStep k u) k u
  obtain ⟨hheader2, hfield2⟩ := Part.sent_trees (p := (p.settleStep k u).fillField k u) (q := p.fieldStart k u)
    ((Part.streamAsk_sent _ k u).trans (Part.reoffer_sent _ u)) u
  exact ⟨hheader2.trans (hheader.trans (Part.sent_trees (Part.settleStep_sent p k u) u).1), by rw [hfield2, hfield]⟩

/-! ### The DARK test (R175) -/

theorem Part.KeysOnce.of_tableOk {p : Part} (h : p.TableOk) : p.KeysOnce := h.2.2.1

/-- The DARK test looks at the settings, the guard and the dark count, and whether any record of the tree is loaded. -/
theorem Part.darkDue_iff (p : Part) (u : TreeId) :
    p.darkDue u = true ↔
      (p.tree u).settings.guardMask.dark = true ∧ (p.tree u).guard.present.dark = false
        ∧ (p.tree u).settings.darkCycles ≤ (p.tree u).darkCount ∧ (u, true) ∈ (p.watched u).2 := by
  rw [← Part.anyLoaded_iff]
  simp [Part.darkDue, and_assoc]

/-- Whether a record of the tree is loaded shows in what the tests of a cycle start leave alone. -/
theorem Part.loaded_of_unreported {p q : Part} {u : TreeId} {f : Record → Record} (hf : ∀ r, (f r).state = r.state)
    (h : (q.recordsOf u).map (·.unreported) = ((p.recordsOf u).map f).map (·.unreported)) :
    (u, true) ∈ (q.watched u).2 ↔ ∃ r ∈ p.records, r.tree = u ∧ (r.state = .loading ∨ r.state = .inService) := by
  have hany : ∀ l : List Record, (l.any fun r => r.state == .loading || r.state == .inService) =
      (l.map (·.unreported)).any fun r => r.state == .loading || r.state == .inService := fun l => by
    rw [List.any_map]
    rfl
  rw [← Part.anyLoaded_iff, hany, h, ← hany, List.any_map]
  simp [Part.recordsOf, hf]

end Sys2Proof.Machine
end

section
/-!
PROOFS. What a cycle start sends (the statement O24).
-/

namespace Sys2Proof.Machine

/-! ### The part that the cycle start is finished on -/

theorem Part.eachTree_names (p : Part) (f : Part → TreeId → Part) (hf : ∀ p t, (f p t).names = p.names) :
    (p.eachTree f).names = p.names := Part.foldl_names f hf allTrees p

/-- What opening a cycle start and the light at the ports make of one tree, and what they leave alone of the part. -/
theorem State.cycleStart_part {s : State} (hclosed : s.clock.stage = .closed) (lit : TreeMask) (u : TreeId) :
    ∃ p : Part, (s.cycleStart lit).part = p.finishStart s.startOpen.clock
      ∧ p.ownUnreported u =
        (((s.part.tree u).openStart s.startOpen.clock.cycle).lightAtStart (inMask lit u),
          (s.part.recordsOf u).map (·.unreported))
      ∧ p.kept = s.part.kept ∧ p.names = s.part.names
      ∧ (s.startOpen.clock.stage ≠ .boundaryTaken → p.recordsOf u = s.part.recordsOf u) := by
  obtain ⟨c, hc⟩ : ∃ c, c = s.clock.openStart.cycle := ⟨_, rfl⟩
  obtain ⟨p1, hp1⟩ : ∃ p1, p1 = s.part.eachTree fun p t => p.modTree t (·.openStart c) := ⟨_, rfl⟩
  obtain ⟨p2, hp2⟩ : ∃ p2, p2 = p1.eachTree fun p t => p.modTree t (·.lightAtStart (inMask lit t)) := ⟨_, rfl⟩
  have hatStart : s.atStart = { s with clock := s.clock.openStart, part := p1 } := by
    rw [State.atStart, if_pos hclosed, hp1, hc]
    rfl
  have hown1 := Part.eachTree_modTree_own s.part u fun _ T => T.openStart c
  have hown2 := Part.eachTree_modTree_own p1 u fun t T => T.lightAtStart (inMask lit t)
  rw [← hp1] at hown1
  rw [← hp2] at hown2
  obtain ⟨htree1, hrecords1⟩ := Prod.mk.inj hown1
  obtain ⟨htree2, hrecords2⟩ := Prod.mk.inj hown2
  have hkept : p2.kept = s.part.kept := by
    rw [hp2, hp1]
    refine (Part.eachTree_kept _ _ fun p t => ?_).trans (Part.eachTree_kept _ _ fun p t => ?_)
    · exact Part.modTree_kept p t _ (Tree.lightAtStart_enabled _ _) (Tree.lightAtStart_settings _ _)
    · exact Part.modTree_kept p t _ (Tree.openStart_enabled _ _) (Tree.openStart_settings _ _)
  have hnames : p2.names = s.part.names := by
    rw [hp2, hp1]
    refine (Part.eachTree_names _ _ fun p t => ?_).trans (Part.eachTree_names _ _ fun p t => ?_)
    · exact Part.modTree_names p t _
    · exact Part.modTree_names p t _
  have hpart : (s.cycleStart lit).part =
      ({ s with clock := s.clock.openStart, part := p2 } : State).boundaryStep.part.finishStart
        ({ s with clock := s.clock.openStart, part := p2 } : State).boundaryStep.clock := by
    rw [State.cycleStart, State.finishStart_part, hatStart, hp2]
  have hstart : s.startOpen = ({ s with clock := s.clock.openStart, part := p1 } : State).boundaryStep := by
    rw [State.startOpen, hatStart]
  have hown : p2.ownUnreported u =
      (((s.part.tree u).openStart c).lightAtStart (inMask lit u), (s.part.recordsOf u).map (·.unreported)) := by
    rw [Part.ownUnreported, htree2, htree1, hrecords2, hrecords1]
  by_cases hdue : s.clock.openStart.stage = .boundaryDue
  · have hclock : s.startOpen.clock = s.clock.openStart.takeBoundary := by
      rw [hstart, State.boundaryStep, if_pos hdue]
      rfl
    refine ⟨p2.ageAll, ?_, (Part.ageAll_ownUnreported p2 u).trans ?_, (Part.ageAll_kept p2).trans hkept,
      (Part.ageAll_names p2).trans hnames, fun h => absurd ?_ h⟩
    · rw [hpart, hclock, State.boundaryStep, if_pos hdue]
      rfl
    · rw [hown, hclock, hc]
      rfl
    · rw [hclock]
      rfl
  · have hclock : s.startOpen.clock = s.clock.openStart := by
      rw [hstart, State.boundaryStep, if_neg hdue]
    refine ⟨p2, ?_, ?_, hkept, hnames, fun _ => hrecords2.trans hrecords1⟩
    · rw [hpart, hclock, State.boundaryStep, if_neg hdue]
    · rw [hown, hclock, hc]

/-! ### The dues of an ENABLED tree -/

/-- The tree and its records as the arbiter finds them. -/
theorem Part.dueStart_of_part {p : Part} {u : TreeId} {T after : Tree} {k : Clock} {window : Bool} {call : Option CallField}
    {dark : Nat} {lit : Bool}
    (hpu : p.tree u = ({ T with quiet := T.quietAt k.cycle } : Tree).watching dark lit T.guard T.spanDone)
    (h : T.WindowPart after k.cycle window call) (hdone : T.timerDone = false) (hbegun : T.windowBegun = false)
    (hcalled : ∀ win, T.scheduler.phase = .listening win → win.w ≠ k.cycle) (boundary : Bool) :
    ∃ g span, (p.dueStart k boundary u).tree u = { after.watching dark lit g span with timerDone := true }
      ∧ g.hush = T.guard.hush ∧ g.present.dark = T.guard.present.dark ∧ (k.cycle.toNat % 16 ≠ 0 → g = T.guard)
      ∧ (p.dueStart k boundary u).recordsOf u =
        (p.recordsOf u).map (fun r => r.atStart T p.reportTable k boundary call.isSome)
      ∧ ((p.dueStart k boundary u).tree u).isWindowCycle k.cycle = window
      ∧ ((p.dueStart k boundary u).tree u).callField k.cycle = call := by
  obtain ⟨g, span, hspan, hhush, hdark, hkeeps, -⟩ := Part.spanStep_tree p k u
  have hguard : (p.tree u).guard = T.guard := by
    rw [hpu]
    rfl
  rw [hguard] at hhush hdark hkeeps
  have hstarted : (p.spanStep k u).tree u =
      ({ T with quiet := T.quietAt k.cycle } : Tree).watching dark lit g span := by
    rw [hspan, hpu]
    rfl
  have hpart := Tree.windowed_of_part h hdone hbegun hcalled dark lit hhush span
  have htree : (p.dueStart k boundary u).tree u = { after.watching dark lit g span with timerDone := true } := by
    rw [Part.dueStart_tree, hstarted, hpart.tree]
  have hcallDue : (p.tree u).callDue k.cycle = call.isSome := by
    rw [← hpart.due, hpu]
    rfl
  refine ⟨g, span, htree, hhush, hdark, hkeeps, ?_, ?_, ?_⟩
  · rw [Part.dueStart_recordsOf p k boundary u (T := T) (by rw [hpu]; rfl) (by rw [hpu]; rfl) (by rw [hpu]; rfl), hcallDue]
  · rw [htree]
    exact hpart.cycle
  · rw [htree]
    exact hpart.header

/-! ### The header and the field of an ENABLED tree -/

/-- What the header writes of the tree. -/
theorem Part.headerStep_tree (q : Part) (k : Clock) (u : TreeId) :
    ∃ xs e, (q.headerStep k u).tree u =
        { q.tree u with
          header := ⟨k.cycle, (q.tree u).callField k.cycle, (q.headerEntries k u).2⟩
          expectations := xs
          engine := e
          slotCounter := (q.tree u).slotCounter
            + BitVec.ofNat 16 (if (q.tree u).isWindowCycle k.cycle then 0 else (q.tree u).settings.slotsPerCycle) }
      ∧ ((q.tree u).isWindowCycle k.cycle = true → xs = (q.tree u).expectations) := by
  rw [Part.headerStep_eq, Part.tree_modTree_self]
  cases hwindow : (q.tree u).isWindowCycle k.cycle with
  | true =>
    have hentries : (q.headerEntries k u).1 = q := congrArg Prod.fst (if_pos hwindow)
    have hzero : (q.tree u).slotCounter = (q.tree u).slotCounter + BitVec.ofNat 16 0 := (BitVec.add_zero _).symm
    refine ⟨(q.tree u).expectations, (q.tree u).engine, ?_, fun _ => rfl⟩
    rw [hentries, if_pos rfl, ← hzero]
  | false =>
    have hentries : (q.headerEntries k u).1 = (q.settleSlots k u 0 (q.tree u).settings.slotsPerCycle).1 :=
      congrArg Prod.fst (if_neg (by rw [hwindow]; exact Bool.false_ne_true))
    obtain ⟨xs, e, hslots⟩ := Part.settleSlots_tree q k u 0 (q.tree u).settings.slotsPerCycle
    refine ⟨xs, e, ?_, fun hh => Bool.noConfusion hh⟩
    rw [hentries, hslots, if_neg Bool.false_ne_true]

theorem Tree.paced_eq {T U : Tree} (h : U.paced = T.paced) :
    U.scheduler = T.scheduler ∧ U.quiet = T.quiet ∧ U.slotCounter = T.slotCounter ∧ U.darkCount = T.darkCount
      ∧ U.lit = T.lit ∧ U.lightSeen = T.lightSeen
      ∧ U.expectations.map (·.unmarked) = T.expectations.map (·.unmarked) := by
  simpa only [Tree.paced, Prod.mk.injEq] using h

theorem Tree.cancelLeadIn_of_leadIn {T : Tree} {w : CycleNo} (h : T.scheduler.phase = .leadIn w) :
    T.cancelLeadIn = { T with scheduler := { T.scheduler with phase := .idle, timer := 0 }, quiet := false } := by
  rw [Tree.cancelLeadIn, h]

theorem Tree.cancelLeadIn_of_other {T : Tree} (h : ∀ w, T.scheduler.phase ≠ .leadIn w) : T.cancelLeadIn = T := by
  rw [Tree.cancelLeadIn]
  split
  · exact absurd ‹_› (h _)
  · rfl
  · rfl

theorem Tree.cancelLeadIn_congr {T U : Tree} (h : U.scheduler = T.scheduler) (hquiet : U.quiet = T.quiet) :
    (U.cancelLeadIn.scheduler, U.cancelLeadIn.quiet) = (T.cancelLeadIn.scheduler, T.cancelLeadIn.quiet) := by
  by_cases hlead : ∃ w, T.scheduler.phase = .leadIn w
  · obtain ⟨w, hw⟩ := hlead
    rw [Tree.cancelLeadIn_of_leadIn hw, Tree.cancelLeadIn_of_leadIn (by rw [h]; exact hw), h]
  · have hother : ∀ w, T.scheduler.phase ≠ .leadIn w := fun w hw => hlead ⟨w, hw⟩
    rw [Tree.cancelLeadIn_of_other hother, Tree.cancelLeadIn_of_other (by rw [h]; exact hother), h, hquiet]

/-- A lead-in is cancelled exactly where DARK enters HUSH in it (R46). -/
theorem Tree.cancelLeadIn_cases {T : Tree} {cancel due : Bool}
    (h : cancel = true ↔ (due = true ∧ T.guard.hush = false) ∧ ∃ w, T.scheduler.phase = .leadIn w) :
    ((if due && !T.guard.hush then T.cancelLeadIn.scheduler else T.scheduler),
        (if due && !T.guard.hush then T.cancelLeadIn.quiet else T.quiet)) =
      ((if cancel then { T.scheduler with phase := .idle, timer := 0 } else T.scheduler), (!cancel && T.quiet)) := by
  by_cases henters : due = true ∧ T.guard.hush = false
  · have hbool : (due && !T.guard.hush) = true := by rw [henters.1, henters.2]; rfl
    by_cases hlead : ∃ w, T.scheduler.phase = .leadIn w
    · obtain ⟨w, hw⟩ := hlead
      rw [if_pos hbool, if_pos hbool, h.mpr ⟨henters, w, hw⟩, Tree.cancelLeadIn_of_leadIn hw]
      rfl
    · have hcancel : cancel = false := Bool.eq_false_iff.mpr fun hc => hlead (h.mp hc).2
      rw [if_pos hbool, if_pos hbool, hcancel, Tree.cancelLeadIn_of_other fun w hw => hlead ⟨w, hw⟩]
      rfl
  · have hcancel : cancel = false := Bool.eq_false_iff.mpr fun hc => henters (h.mp hc).1
    have hbool : ¬ (due && !T.guard.hush) = true := by
      rw [Bool.and_eq_true, Bool.not_eq_true']
      exact henters
    rw [if_neg hbool, if_neg hbool, hcancel]
    rfl

/-- What comes behind the header leaves the header, and of what paces the tree all but a lead-in that HUSH cancels. -/
theorem Part.fieldStart_darkStep {v : Part} (hkeys : v.KeysOnce) (k : Clock) (u : TreeId)
    (hdark : (v.tree u).darkDone = false) {cancel : Bool}
    (hcancel : cancel = true ↔
      (v.darkDue u = true ∧ (v.tree u).guard.hush = false) ∧ ∃ w, (v.tree u).scheduler.phase = .leadIn w) {W : Tree}
    (hW : W = ((v.fieldStart k u).darkStep k u).tree u) :
    W.header = (v.tree u).header ∧ W.field.length = 4 ∧ W.slotCounter = (v.tree u).slotCounter
      ∧ W.darkCount = (v.tree u).darkCount ∧ W.lit = (v.tree u).lit ∧ W.lightSeen = (v.tree u).lightSeen
      ∧ W.expectations.map (·.unmarked) = (v.tree u).expectations.map (·.unmarked)
      ∧ W.scheduler =
        (if cancel then { (v.tree u).scheduler with
          phase := .idle
          timer := 0 }
        else (v.tree u).scheduler)
      ∧ W.quiet = (!cancel && (v.tree u).quiet) := by
  obtain ⟨p, hp⟩ : ∃ p, p = v.fieldStart k u := ⟨_, rfl⟩
  obtain ⟨hheader, hfield⟩ := Part.fieldStart_sent v k u
  obtain ⟨hscheduler, hquiet, hslot, hcount, hlit, hseen, hexpect⟩ :=
    Tree.paced_eq (Part.paced_tree (Part.fieldStart_paced v k u) u)
  have hwatched := Part.fieldStart_watched hkeys k u
  have hsettings := (Part.kept_trees (Part.fieldStart_kept v k u) u).2
  rw [← hp] at hheader hfield hscheduler hquiet hslot hcount hlit hseen hexpect hwatched hsettings hW
  obtain ⟨hguard, hdone⟩ := Prod.mk.inj (Prod.mk.inj hwatched).1
  have hdue : p.darkDue u = v.darkDue u := by
    rw [Bool.eq_iff_iff, Part.darkDue_iff, Part.darkDue_iff, hwatched, hsettings, hguard, hcount]
  obtain ⟨hsent, -, hslot2, hexpect2, hcount2, hlit2, hseen2, hscheduler2, hquiet2⟩ :=
    Part.darkStep_tree p k u (hdone.trans hdark)
  obtain ⟨hheader2, hfield2⟩ := Prod.mk.inj hsent
  rw [hdue, hguard] at hscheduler2 hquiet2
  subst hW
  have hcancelled : ((p.tree u).cancelLeadIn.scheduler, (p.tree u).cancelLeadIn.quiet) =
      ((v.tree u).cancelLeadIn.scheduler, (v.tree u).cancelLeadIn.quiet) := Tree.cancelLeadIn_congr hscheduler hquiet
  obtain ⟨hcancelScheduler, hcancelQuiet⟩ := Prod.mk.inj hcancelled
  rw [hcancelScheduler, hscheduler] at hscheduler2
  rw [hcancelQuiet, hquiet] at hquiet2
  refine ⟨hheader2.trans hheader, (congrArg List.length hfield2).trans hfield, hslot2.trans hslot, hcount2.trans hcount,
    hlit2.trans hlit, hseen2.trans hseen, (congrArg (List.map (·.unmarked)) hexpect2).trans hexpect, ?_, ?_⟩
  · rw [hscheduler2]
    exact congrArg Prod.fst (Tree.cancelLeadIn_cases hcancel)
  · rw [hquiet2]
    exact congrArg Prod.snd (Tree.cancelLeadIn_cases hcancel)

end Sys2Proof.Machine
end

section
/-!
PROOFS. What a cycle start sends on each tree (the statement O24).
-/

namespace Sys2Proof.Machine

/-! ### One tree of the cycle start -/

/-- A cycle start, seen from one tree: the part that its work there is done on, and what is left of that work at the end. -/
theorem State.cycleStart_tree {s : State} (hclosed : s.clock.stage = .closed) (lit : TreeMask) (u : TreeId) {k : Clock}
    (hk : k = s.startOpen.clock) {boundary : Bool} (hboundary : boundary = decide (k.stage = .boundaryTaken)) :
    ∃ p : Part, p.tree u = ((s.part.tree u).openStart k.cycle).lightAtStart (inMask lit u)
      ∧ (p.recordsOf u).map (·.unreported) = (s.part.recordsOf u).map (·.unreported)
      ∧ p.kept = s.part.kept ∧ p.names = s.part.names
      ∧ (boundary = false → p.recordsOf u = s.part.recordsOf u)
      ∧ ((s.cycleStart lit).part.tree u).sent = ((p.treeStart k boundary u).tree u).sent
      ∧ ((s.cycleStart lit).part.tree u).paced = ((p.treeStart k boundary u).tree u).paced
      ∧ (boundary = false → (s.cycleStart lit).part.own u =
        (((p.treeStart k boundary u).tree u).closeStart, (p.treeStart k boundary u).recordsOf u)) := by
  obtain ⟨p, hpart, hown, hkept, hnames, hrecords⟩ := State.cycleStart_part hclosed lit u
  rw [← hk] at hpart hown hrecords
  obtain ⟨q, ⟨hqown, hqkept, hqnames, hqsame⟩, hsent, hpaced, hleft⟩ := Part.finishStart_tree p k u
  rw [← hboundary] at hsent hpaced hqsame
  obtain ⟨htree, hunreported⟩ := Prod.mk.inj (hqown.trans hown)
  refine ⟨q, htree, hunreported, hqkept.trans hkept, hqnames.trans hnames, fun hb => ?_, ?_, ?_, fun hb => ?_⟩
  · have hstage : k.stage ≠ .boundaryTaken := of_decide_eq_false (hboundary.symm.trans hb)
    exact (Part.own_eq (hqsame hb)).2.trans (hrecords hstage)
  · rw [hpart]
    exact hsent
  · rw [hpart]
    exact hpaced
  · have hstage : k.stage ≠ .boundaryTaken := of_decide_eq_false (hboundary.symm.trans hb)
    rw [hpart, hb]
    exact hleft hstage

theorem Part.treeStart_of_disabled {p : Part} {u : TreeId} (h : (p.tree u).enabled = false) (k : Clock) (boundary : Bool) :
    (p.treeStart k boundary u).tree u = (p.tree u).disabledStart k.cycle := by
  rw [Part.treeStart, if_neg (by rw [h]; exact Bool.false_ne_true)]
  exact Part.tree_modTree_self _ _ _

theorem Part.treeStart_of_enabled {p : Part} {u : TreeId} (h : (p.tree u).enabled = true) (k : Clock) (boundary : Bool) :
    p.treeStart k boundary u = p.enabledStart k boundary u := if_pos h

/-- The header and the field of an ENABLED tree (R6, R7, R107). -/
theorem Part.enabledStart_sent (p : Part) (k : Clock) (boundary : Bool) (u : TreeId) :
    ((p.enabledStart k boundary u).tree u).header.cycle = k.cycle
      ∧ ((p.enabledStart k boundary u).tree u).header.entries.length = (p.tree u).settings.slotsPerCycle
      ∧ ((p.enabledStart k boundary u).tree u).field.length = 4 := by
  obtain ⟨q, hq⟩ : ∃ q, q = p.dueStart k boundary u := ⟨_, rfl⟩
  have hsettings : (q.tree u).settings = (p.tree u).settings := by
    rw [hq]
    exact (Part.kept_trees (Part.dueStart_kept p k boundary u) u).2
  obtain ⟨xs, e, htree, -⟩ := Part.headerStep_tree q k u
  obtain ⟨hheader, hfield⟩ := Part.fieldStart_sent (q.headerStep k u) { k with stage := .closed } u
  obtain ⟨hheader2, hfield2⟩ := Part.sent_trees (Part.darkStep_sent
    ((q.headerStep k u).fieldStart { k with stage := .closed } u) { k with stage := .closed } u) u
  rw [Part.enabledStart_eq, ← hq, hheader2, hheader, hfield2, htree]
  exact ⟨rfl, (Part.headerEntries_length q k u).trans (congrArg Settings.slotsPerCycle hsettings), hfield⟩

theorem Tree.openStart_disabled {T : Tree} (h : T.enabled = false) (c : CycleNo) (lit : Bool) :
    (T.openStart c).lightAtStart lit = T := by
  have hopen : T.openStart c = T := if_pos (by rw [h]; rfl)
  rw [hopen]
  exact if_neg (by rw [h]; exact Bool.false_ne_true)

theorem Tree.WindowPart.keeps {T after : Tree} {c : CycleNo} {window : Bool} {call : Option CallField}
    (h : T.WindowPart after c window call) :
    after.settings = T.settings ∧ after.darkDone = T.darkDone ∧ after.slotCounter = T.slotCounter
      ∧ after.expectations = T.expectations := by
  obtain ⟨-, -, -, rfl⟩ | ⟨-, -, -, rfl⟩ | ⟨-, -, -, -, -, rfl⟩ | ⟨-, -, -, rfl⟩ := h
  · exact ⟨rfl, rfl, rfl, rfl⟩
  · exact ⟨rfl, rfl, rfl, rfl⟩
  · exact ⟨rfl, rfl, rfl, rfl⟩
  · exact ⟨rfl, rfl, rfl, rfl⟩

/-! ### The slots of a header, one by one (R107, R112) -/

theorem Part.settleSlot_of_none {p : Part} {k : Clock} {t : TreeId}
    (h : (if (p.tree t).expectations.length < 16 then p.choose k t (p.tree t).slotCounter else none) = none) (slot : Nat) :
    p.settleSlot k t slot = (p.modTree t fun T => { T with slotCounter := T.slotCounter + 1 }, ⟨0, none, 0⟩) := by
  have hchoice : (if (p.tree t).expectations.length < Config.maxExpectations then p.choose k t (p.tree t).slotCounter
      else none) = none := h
  simp only [Part.settleSlot, hchoice]
  rfl

theorem Part.settleSlot_of_some {p : Part} {k : Clock} {t : TreeId} {x : Candidate}
    (h : (if (p.tree t).expectations.length < 16 then p.choose k t (p.tree t).slotCounter else none) = some x) (slot : Nat) :
    p.settleSlot k t slot =
      ((p.issueGrant k t slot x).modTree t fun T => { T with slotCounter := T.slotCounter + 1 }, x.entry) := by
  have hchoice : (if (p.tree t).expectations.length < Config.maxExpectations then p.choose k t (p.tree t).slotCounter
      else none) = some x := h
  simp only [Part.settleSlot, hchoice]
  rfl

theorem Part.settleStep_of_other {p : Part} {t : TreeId} (h : (p.engine t).state ≠ .settling) (k : Clock) :
    p.settleStep k t = p := if_pos (bne_iff_ne.mpr h)

theorem Part.settleStep_of_settling {p : Part} {t : TreeId} (h : (p.engine t).state = .settling) (k : Clock) :
    p.settleStep k t =
      if (p.engine t).settleLeft ≤ 1 then p.enterStreaming k t
      else p.modEngine t fun e => { e with settleLeft := e.settleLeft - 1 } :=
  if_neg (by rw [h]; decide)

/-! ### The timebase -/

theorem State.cycleStart_clock_closed {s : State} (hok : s.clock.Ok) (hclosed : s.clock.stage = .closed) (lit : TreeMask) :
    (s.cycleStart lit).clock =
      ⟨s.clock.cycle + 1, 0, if s.clock.cycleInTenth = 762 then 0 else s.clock.cycleInTenth + 1,
        if s.clock.cycleInTenth = 762 then s.clock.tenth + 1 else s.clock.tenth, .closed⟩ := by
  rw [State.cycleStart_clock, State.startOpen_clock hok hclosed]

theorem State.startOpen_boundary {s : State} (hok : s.clock.Ok) (hclosed : s.clock.stage = .closed) :
    decide (s.startOpen.clock.stage = .boundaryTaken) = decide (s.clock.cycleInTenth = 762) := by
  rw [State.startOpen_clock hok hclosed]
  by_cases h : s.clock.cycleInTenth = 762
  · simp [h]
  · simp [h]

/-- The timebase that the work of a cycle start reads, from the one that it leaves. -/
theorem State.startOpen_clock_of {s : State} (hok : s.clock.Ok) (hclosed : s.clock.stage = .closed) (lit : TreeMask)
    {boundary : Bool} (hb : boundary = decide (s.clock.cycleInTenth = 762)) :
    { (s.cycleStart lit).clock with stage := if boundary then .boundaryTaken else .opened } = s.startOpen.clock := by
  rw [State.cycleStart_clock, State.startOpen_clock hok hclosed, hb]
  by_cases h : s.clock.cycleInTenth = 762
  · simp [h]
  · simp [h]

/-! ### The work on an ENABLED tree, whole -/

/-- What the work of a cycle start leaves of an ENABLED tree `T` that the window scheduler makes `after`. -/
structure Tree.Worked (W T after : Tree) (k : Clock) (window : Bool) (call : Option CallField) (dark : Nat) (lit cancel : Bool)
    (entries : List GrantEntry) (xs : List Expectation) : Prop where
  header : W.header = ⟨k.cycle, call, entries⟩
  slotCounter : W.slotCounter = T.slotCounter + BitVec.ofNat 16 (if window then 0 else T.settings.slotsPerCycle)
  darkNow : W.darkCount = dark
  litNow : W.lit = lit
  litSeen : W.lightSeen = lit
  expectations : W.expectations.map (·.unmarked) = xs.map (·.unmarked)
  scheduler : W.scheduler =
    if cancel then { after.scheduler with
      phase := .idle
      timer := 0 }
    else after.scheduler
  quiet : W.quiet = (!cancel && after.quiet)

theorem Tree.Worked.of_same {W U T after : Tree} {k : Clock} {window : Bool} {call : Option CallField} {dark : Nat}
    {lit cancel : Bool} {entries : List GrantEntry} {xs : List Expectation}
    (h : W.Worked T after k window call dark lit cancel entries xs) (hsent : U.sent = W.sent) (hpaced : U.paced = W.paced) :
    U.Worked T after k window call dark lit cancel entries xs := by
  obtain ⟨hheader, -⟩ := Prod.mk.inj hsent
  obtain ⟨hscheduler, hquiet, hslot, hcount, hlit, hseen, hexpect⟩ := Tree.paced_eq hpaced
  exact ⟨hheader.trans h.header, hslot.trans h.slotCounter, hcount.trans h.darkNow, hlit.trans h.litNow,
    hseen.trans h.litSeen, hexpect.trans h.expectations, hscheduler.trans h.scheduler, hquiet.trans h.quiet⟩

theorem Part.enabledStart_worked {p : Part} (hkeys : p.KeysOnce) {u : TreeId} {T after : Tree} {k : Clock} {window : Bool}
    {call : Option CallField} {dark : Nat} {lit : Bool} {boundary : Bool} {g : Guard} {span : Bool}
    (hpart : T.WindowPart after k.cycle window call) (hdarkDone : T.darkDone = false)
    (hq : (p.dueStart k boundary u).tree u = { after.watching dark lit g span with timerDone := true })
    (hwindow : ((p.dueStart k boundary u).tree u).isWindowCycle k.cycle = window)
    (hcall : ((p.dueStart k boundary u).tree u).callField k.cycle = call) {cancel : Bool}
    (hcancel : cancel = true ↔
      ((T.settings.guardMask.dark = true ∧ g.present.dark = false ∧ T.settings.darkCycles ≤ dark
          ∧ (u, true) ∈ ((p.dueStart k boundary u).watched u).2) ∧ g.hush = false)
        ∧ ∃ w, after.scheduler.phase = .leadIn w) :
    ((p.enabledStart k boundary u).tree u).Worked T after k window call dark lit cancel
        ((p.dueStart k boundary u).headerEntries k u).2
        (((p.dueStart k boundary u).headerStep k u).tree u).expectations
      ∧ (window = true → (((p.dueStart k boundary u).headerStep k u).tree u).expectations = T.expectations) := by
  obtain ⟨hafterSettings, hafterDark, hafterSlot, hafterExpect⟩ := hpart.keeps
  obtain ⟨q, hqdef⟩ : ∃ q, q = p.dueStart k boundary u := ⟨_, rfl⟩
  obtain ⟨v, hvdef⟩ : ∃ v, v = q.headerStep k u := ⟨_, rfl⟩
  rw [Part.enabledStart_eq, ← hqdef, ← hvdef]
  rw [← hqdef] at hq hwindow hcall hcancel
  obtain ⟨xs, e, hv, hxs⟩ := Part.headerStep_tree q k u
  rw [← hvdef, hcall, hwindow] at hv
  rw [hwindow] at hxs
  have hqSettings : (q.tree u).settings = T.settings := by
    rw [hq]
    exact hafterSettings
  have hvkeys : v.KeysOnce := by
    refine hkeys.of_names ?_
    rw [hvdef, hqdef]
    exact (Part.headerStep_names _ k u).trans (Part.dueStart_names p k boundary u)
  have hvwatched : v.watched u = q.watched u := by
    rw [hvdef]
    exact Part.headerStep_watched q k u u
  have hvguard : (v.tree u).guard = g := by
    rw [hv, hq]
    rfl
  have hvscheduler : (v.tree u).scheduler = after.scheduler := by
    rw [hv, hq]
    rfl
  have hvcount : (v.tree u).darkCount = dark := by
    rw [hv, hq]
    rfl
  have hvsettings : (v.tree u).settings = T.settings := by
    rw [hv]
    exact hqSettings
  have hvdark : (v.tree u).darkDone = false := by
    rw [hv, hq]
    exact hafterDark.trans hdarkDone
  have hvcancel : cancel = true ↔
      (v.darkDue u = true ∧ (v.tree u).guard.hush = false) ∧ ∃ w, (v.tree u).scheduler.phase = .leadIn w := by
    rw [Part.darkDue_iff, hvwatched, hvguard, hvscheduler, hvcount, hvsettings]
    exact hcancel
  obtain ⟨hheader, -, hslot, hcount, hlit, hseen, hexpect, hscheduler, hquiet⟩ :=
    Part.fieldStart_darkStep hvkeys { k with stage := .closed } u hvdark hvcancel rfl
  refine ⟨⟨?_, ?_, hcount.trans hvcount, ?_, ?_, hexpect, ?_, ?_⟩, fun hw => ?_⟩
  · rw [hheader, hv]
  · rw [hslot, hv, hqSettings, hq]
    exact congrArg (· + _) hafterSlot
  · rw [hlit, hv, hq]
    rfl
  · rw [hseen, hv, hq]
    rfl
  · rw [hscheduler, hvscheduler]
  · rw [hquiet, hv, hq]
    rfl
  · rw [hv]
    refine (hxs hw).trans ?_
    rw [hq]
    exact hafterExpect

end Sys2Proof.Machine
end

section
/-!
PROOFS. The statement O24: a cycle start, tree by tree and slot by slot.
-/

namespace Sys2Proof.Machine

theorem State.settle_recordsOf (s : State) (u : TreeId) : s.settle.part.recordsOf u = s.part.recordsOf u := rfl

theorem Part.own_eq_mk {p : Part} {u : TreeId} {T : Tree} {rs : List Record} (h : p.own u = (T, rs)) :
    p.tree u = T ∧ p.recordsOf u = rs := Prod.mk.inj h

theorem Tree.closeStart_eq (T : Tree) :
    T.closeStart = { T with timerDone := false, windowBegun := false, spanDone := false, darkDone := false } := rfl

theorem State.cycleStart_pending (s : State) (lit : TreeMask) : (s.cycleStart lit).pending = s.pending := by
  rw [State.cycleStart, State.finishStart]
  refine (State.boundaryStep_keeps _).2.1.trans ?_
  rw [State.atStart]
  split <;> rfl

theorem State.startOpen_cycle {s : State} (hok : s.clock.Ok) (hclosed : s.clock.stage = .closed) :
    s.startOpen.clock.cycle = s.clock.cycle + 1 := by
  rw [State.startOpen_clock hok hclosed]

/-- A DISABLED tree's header and field (R3). -/
theorem State.cycleStart_of_disabled {s : State} (hclosed : s.clock.stage = .closed) (lit : TreeMask) {u : TreeId}
    (hoff : (s.part.tree u).enabled = false) :
    ((s.cycleStart lit).part.tree u).header =
        ⟨s.startOpen.clock.cycle, none, List.replicate (s.part.tree u).settings.slotsPerCycle ⟨0, none, 0⟩⟩
      ∧ ((s.cycleStart lit).part.tree u).field = [.fill, .fill, .fill, .fill] := by
  obtain ⟨p, htree, -, -, -, -, hsent, -, -⟩ := State.cycleStart_tree hclosed lit u rfl rfl
  rw [Tree.openStart_disabled hoff] at htree
  rw [Part.treeStart_of_disabled (by rw [htree]; exact hoff), htree] at hsent
  exact Prod.mk.inj hsent

/-- An ENABLED tree's header and field, by their sizes (R6, R7). -/
theorem State.cycleStart_of_enabled {s : State} (hclosed : s.clock.stage = .closed) (lit : TreeMask) {u : TreeId}
    (hon : (s.part.tree u).enabled = true) :
    ((s.cycleStart lit).part.tree u).header.cycle = s.startOpen.clock.cycle
      ∧ ((s.cycleStart lit).part.tree u).header.entries.length = (s.part.tree u).settings.slotsPerCycle
      ∧ ((s.cycleStart lit).part.tree u).field.length = 4 := by
  obtain ⟨p, -, -, hkept, -, -, hsent, -, -⟩ := State.cycleStart_tree hclosed lit u rfl rfl
  obtain ⟨henabled, hsettings⟩ := Part.kept_trees hkept u
  rw [Part.treeStart_of_enabled (henabled.trans hon)] at hsent
  obtain ⟨hheader, hfield⟩ := Prod.mk.inj hsent
  rw [hheader, hfield, ← hsettings]
  exact Part.enabledStart_sent p _ _ u

theorem Candidate.entry_eq (x : Candidate) :
    x.entry = ⟨x.handle, some x.purpose,
      match x.report with
      | some (_, kind) => kind
      | none => 0⟩ := by
  rw [Candidate.entry]
  cases x.report <;> rfl

theorem Record.atStart_eq (r : Record) (T : Tree) (table : PerSlot TableSlot) (k : Clock) (boundary : Bool)
    (call : Option CallField) :
    (if call = none then r.fallenDue T table k boundary else { r.fallenDue T table k boundary with heardWindow := none }) =
      r.atStart T table k boundary call.isSome := by
  cases call <;> rfl

/-- A tree's part of the cycle start: what every step of it is given, and what it leaves (the third part of the statement). -/
theorem State.cycleStart_works {s : State} (hclosed : s.clock.stage = .closed) (lit : TreeMask) {u : TreeId} {T after : Tree}
    {k : Clock} {window : Bool} {call : Option CallField} {cancel boundary : Bool} (hT : T = s.part.tree u)
    (hok : s.part.TableOk) (hk : k = s.startOpen.clock) (hb : boundary = decide (k.stage = .boundaryTaken))
    (hon : T.enabled = true) (hdone : T.timerDone = false) (hbegun : T.windowBegun = false) (hdarkDone : T.darkDone = false)
    (hcalled : ∀ win, T.scheduler.phase = .listening win → win.w ≠ k.cycle)
    (hpart : T.WindowPart after k.cycle window call)
    (hcancel : cancel = true ↔
      (T.guard.hush = false ∧ T.settings.guardMask.dark = true ∧ T.guard.present.dark = false
        ∧ T.settings.darkCycles ≤ T.darkAt
        ∧ ∃ r ∈ s.part.records, r.tree = u ∧ (r.state = .loading ∨ r.state = .inService))
      ∧ ∃ w, after.scheduler.phase = .leadIn w) :
    ∃ q : Part, ∃ g span, q.reportTable = s.part.reportTable
      ∧ q.tree u = { after.watching T.darkAt (inMask lit u) g span with timerDone := true }
      ∧ g.hush = T.guard.hush ∧ (k.cycle.toNat % 16 ≠ 0 → g = T.guard)
      ∧ (q.recordsOf u).map (·.unreported) =
        ((s.part.recordsOf u).map fun r => r.atStart T s.part.reportTable k boundary call.isSome).map (·.unreported)
      ∧ (boundary = false → q.recordsOf u =
        (s.part.recordsOf u).map fun r => r.atStart T s.part.reportTable k boundary call.isSome)
      ∧ (q.tree u).isWindowCycle k.cycle = window ∧ (q.tree u).callField k.cycle = call
      ∧ (q.tree u).settings = T.settings
      ∧ ((s.cycleStart lit).part.tree u).Worked T after k window call T.darkAt (inMask lit u) cancel (q.headerEntries k u).2
        ((q.headerStep k u).tree u).expectations
      ∧ (window = true → ((q.headerStep k u).tree u).expectations = T.expectations)
      ∧ ((s.cycleStart lit).part.tree u).sent =
        ((((q.headerStep k u).fieldStart { k with stage := .closed } u).darkStep { k with stage := .closed } u).tree u).sent
      ∧ (boundary = false → (s.cycleStart lit).part.own u =
        (((((q.headerStep k u).fieldStart { k with stage := .closed } u).darkStep { k with stage := .closed } u).tree u).closeStart,
          (((q.headerStep k u).fieldStart { k with stage := .closed } u).darkStep { k with stage := .closed } u).recordsOf u)) := by
  obtain ⟨p, htree, hunreported, hkept, hnames, hsame, hsent, hpaced, hleft⟩ := State.cycleStart_tree hclosed lit u hk hb
  obtain ⟨henabled, hsettings⟩ := Part.kept_trees hkept u
  rw [← hT] at htree henabled hsettings
  rw [Tree.openStart_lit_eq hon] at htree
  obtain ⟨g, span, hq, hhush, hpresent, hkeeps, hrecords, hwindow, hcall⟩ :=
    Part.dueStart_of_part htree hpart hdone hbegun hcalled boundary
  rw [Part.treeStart_of_enabled (henabled.trans hon)] at hsent hpaced hleft
  have htable := Part.kept_reportTable hkept
  have hdueUnreported : ((p.dueStart k boundary u).recordsOf u).map (·.unreported) =
      ((s.part.recordsOf u).map fun r => r.atStart T s.part.reportTable k boundary call.isSome).map (·.unreported) := by
    have hcommute : ∀ l : List Record,
        (l.map fun r => r.atStart T s.part.reportTable k boundary call.isSome).map (·.unreported) =
          (l.map (·.unreported)).map fun r => r.atStart T s.part.reportTable k boundary call.isSome := fun l => by
      rw [List.map_map, List.map_map]
      exact List.map_congr_left fun r _ => Record.atStart_unreported r _ _ _ _ _
    rw [hrecords, htable, hcommute, hcommute, hunreported]
  have hloaded := Part.loaded_of_unreported (fun r => Record.atStart_state r T s.part.reportTable k boundary call.isSome)
    hdueUnreported
  obtain ⟨hworked, hexpect⟩ := Part.enabledStart_worked
    ((Part.KeysOnce.of_tableOk hok).of_names hnames) (cancel := cancel) hpart hdarkDone hq hwindow hcall (by
      rw [hcancel, hloaded, hhush, hpresent]
      exact and_congr_left' and_comm)
  have hqSettings : ((p.dueStart k boundary u).tree u).settings = T.settings :=
    ((Part.kept_trees (Part.dueStart_kept p k boundary u) u).2).trans hsettings
  rw [Part.enabledStart_eq] at hworked hsent hpaced hleft
  exact ⟨p.dueStart k boundary u, g, span, (Part.kept_reportTable (Part.dueStart_kept p k boundary u)).trans htable, hq, hhush,
    hkeeps, hdueUnreported, fun hbound => by rw [hrecords, htable, hsame hbound], hwindow, hcall, hqSettings,
    hworked.of_same hsent hpaced, hexpect, hsent, hleft⟩

/-- Settles O24: each tree's part of the cycle start is followed from the opened cycle to the DARK test; what comes before and
behind it, on the other trees and at a tenth boundary, leaves what the header and the scheduler hold of it. -/
theorem cycleStartSendsHeaders : Obligations.CycleStartSendsHeaders := by
  unfold Obligations.CycleStartSendsHeaders
  refine ⟨fun lit s hclosed hok => ⟨(s.cycleStart lit).settle, rfl, ?_, ?_, fun u => ⟨fun hoff => ?_, fun hon => ?_, ?_⟩⟩,
    fun p k t slot => ⟨rfl, fun n => rfl, fun choice hchoice => ⟨fun hnone => ?_, fun x hx => ?_⟩, fun h => ?_, fun h hle => ?_,
      fun h hle => ?_⟩⟩
  · exact State.cycleStart_pending s lit
  · exact State.cycleStart_clock_closed hok hclosed lit
  · rw [State.settle_tree, ← State.startOpen_cycle hok hclosed]
    exact State.cycleStart_of_disabled hclosed lit hoff
  · rw [State.settle_tree, ← State.startOpen_cycle hok hclosed]
    exact State.cycleStart_of_enabled hclosed lit hon
  · intro T U after c timer dark spread call window dims cancel boundary k htable hT hU hon hc hdone hbegun hdarkDone hcalled
      hboundary hk htimer hspread hdark hpart hdims hcancel
    have hopen : k = s.startOpen.clock := hk.trans (State.startOpen_clock_of hok hclosed lit hboundary)
    have hcycle : k.cycle = c := by rw [hopen, State.startOpen_cycle hok hclosed, hc]
    have hb : boundary = decide (k.stage = .boundaryTaken) := by
      rw [hopen, State.startOpen_boundary hok hclosed, hboundary]
    have hleave : { k with stage := .closed } = (s.cycleStart lit).settle.clock := by
      rw [hopen, State.settle_clock, State.cycleStart_clock]
    subst hcycle htimer hspread hdark
    obtain ⟨q, g, span, hqtable, hq, hhush, hkeeps, hunreported, hrecords, hwindow, hcall, hsettings, hworked, hexpect, hsent,
        hleft⟩ := State.cycleStart_works hclosed lit hT htable hopen hb hon hdone hbegun hdarkDone hcalled hpart (cancel := cancel)
        (by rw [hcancel, hdims]; rfl)
    rw [State.settle_tree] at hU
    rw [← hU] at hworked hsent
    rw [hleave] at hsent hleft
    have hunused : window = true → q.headerEntries k u = (q, List.replicate T.settings.slotsPerCycle ⟨0, none, 0⟩) := fun hw => by
      rw [Part.headerEntries, hwindow, if_pos hw, hsettings]
      rfl
    have hgranted : window = false → q.headerEntries k u = q.settleSlots k u 0 T.settings.slotsPerCycle := fun hw => by
      rw [Part.headerEntries, hwindow, hw, if_neg Bool.false_ne_true, hsettings]
    have hheader : q.headerStep k u = (q.headerEntries k u).1.modTree u fun X => { X with header := U.header } := by
      rw [Part.headerStep_eq, hworked.header, ← hcall]
    have hslot := hworked.slotCounter
    have hentries := congrArg Header.entries hworked.header
    refine ⟨⟨hworked.darkNow, hworked.litNow, hworked.litSeen⟩, hworked.scheduler, hworked.quiet,
      congrArg Header.call hworked.header, fun hw => ⟨?_, ?_, ?_⟩, fun hw => ?_, q, q.headerStep k u, _, hqtable, ?_, ?_, ?_,
      fun due hdue => ?_, fun hw => ?_, fun hw => ⟨?_, ?_, hworked.expectations⟩, rfl, (Prod.mk.inj hsent).2, fun hw => ?_⟩
    · rw [hentries, hunused hw]
    · rw [hslot, if_pos hw]
      exact BitVec.add_zero _
    · rw [hworked.expectations, hexpect hw]
    · rw [hslot, hw, if_neg Bool.false_ne_true]
    · rw [hq]
      rfl
    · rw [hq]
      exact hhush
    · rw [hq]
      exact hkeeps
    · simp only [Record.atStart_eq] at hdue
      rw [hdue]
      exact ⟨hunreported, hrecords⟩
    · rw [hheader, hunused hw]
    · rw [hheader, hgranted hw]
    · rw [hentries, hgranted hw]
    · obtain ⟨hown, hownRecords⟩ := Part.own_eq_mk (hleft hw)
      exact ⟨hU.trans (hown.trans (Tree.closeStart_eq _)), (State.settle_recordsOf _ u).trans hownRecords⟩
  · exact Part.settleSlot_of_none (hchoice.symm.trans hnone) slot
  · rw [Part.settleSlot_of_some (hchoice.symm.trans hx) slot]
    exact congrArg (Prod.mk _) (Candidate.entry_eq x)
  · exact Part.settleStep_of_other h k
  · rw [Part.settleStep_of_settling h, if_neg (by omega)]
  · rw [Part.settleStep_of_settling h, if_pos hle]

end Sys2Proof.Machine
end

section
/-!
PROOFS. The guard's tests at a cycle start (the statement O27).
-/

namespace Sys2Proof.Machine

section
variable (p : Part) (k : Clock) (t : TreeId)

/-! ### DARK arises (R175, R177) -/

/-- A tree that DARK takes into HUSH (R46, R177). -/
def Tree.darkened (T : Tree) : Tree :=
  ({ T with
     darkDone := true
     guard := ⟨true, { T.guard.present with dark := true }, ⟨false, true, false⟩, T.guard.strayCount, none⟩ } : Tree).cancelLeadIn

theorem Part.darkTest_of_clear {p : Part} {t : TreeId} (hdue : p.darkDue t = true) (h : (p.tree t).guard.hush = false) :
    p.darkTest k t =
      { p.modTree t Tree.darkened with
        raised := p.raised ++
          [.hush t true ⟨false, true, false⟩ ⟨false, true, false⟩ (p.tree t).darkCount k.cycle k.tenth] } := by
  simp only [Part.darkTest, Part.arise, hdue, if_true, Part.tree_modTree_self, h, Bool.false_eq_true, if_false,
    Part.raise_modTree, Part.modGuard, Part.modTree_modTree]
  exact congrArg (Part.raise · _) (Part.modTree_congr p t rfl)

theorem Part.darkTest_of_hush {p : Part} {t : TreeId} (hdue : p.darkDue t = true) (h : (p.tree t).guard.hush = true) :
    p.darkTest k t =
      p.modTree t fun T =>
        { T with
          darkDone := true
          guard :=
            ⟨true, { T.guard.present with dark := true }, { T.guard.seen with dark := true }, T.guard.strayCount, none⟩ } := by
  simp only [Part.darkTest, Part.arise, hdue, if_true, Part.tree_modTree_self, h, Part.modGuard, Part.modTree_modTree]
  exact Part.modTree_congr p t (by simp [Factors.put, h])

/-! ### The span boundary (R174) -/

theorem Part.spanEnds_of_kept {p : Part} {t : TreeId}
    (h : (p.tree t).guard.present.stray = false ∨ (p.tree t).settings.strayThreshold ≤ (p.tree t).guard.strayCount) :
    p.spanEnds k t =
      p.modTree t fun T =>
        { T with
          guard := { T.guard with strayCount := 0 }
          spanDone := true } := by
  have hends : ¬ ((p.tree t).guard.present.stray && (p.tree t).guard.strayCount < (p.tree t).settings.strayThreshold) = true := by
    rw [Bool.and_eq_true, decide_eq_true_eq]
    rintro ⟨hstray, hlt⟩
    obtain hclear | hle := h
    · rw [hclear] at hstray
      exact Bool.noConfusion hstray
    · exact Nat.not_le.mpr hlt hle
  simp only [Part.spanEnds, if_neg hends, Part.modGuard, Part.modTree_modTree]

/-- The guard behind the end of a span below the threshold. -/
def Guard.strayEnded (g : Guard) (k : Clock) (delay : Nat) : Guard :=
  { g with
    present := { g.present with stray := false }
    strayCount := 0
    resume := if g.hush = true ∧ g.present.dark = false ∧ g.present.storm = false then some ⟨k.tenth, delay⟩ else g.resume }

theorem Part.spanEnds_of_stray {p : Part} {t : TreeId} (hstray : (p.tree t).guard.present.stray = true)
    (hlt : (p.tree t).guard.strayCount < (p.tree t).settings.strayThreshold) :
    p.spanEnds k t =
      p.modTree t fun T =>
        { T with
          guard := T.guard.strayEnded k T.settings.resumeDelay
          spanDone := true } := by
  have hends : ((p.tree t).guard.present.stray && (p.tree t).guard.strayCount < (p.tree t).settings.strayThreshold) = true := by
    rw [Bool.and_eq_true, decide_eq_true_eq]
    exact ⟨hstray, hlt⟩
  have hresume : ((p.tree t).guard.hush && !((p.tree t).guard.present.put .stray false).any) = true ↔
      (p.tree t).guard.hush = true ∧ (p.tree t).guard.present.dark = false ∧ (p.tree t).guard.present.storm = false := by
    simp [Factors.any, Factors.put]
  simp only [Part.spanEnds, if_pos hends, Part.endFactor, Part.startResume, Part.modGuard, Part.tree_modTree_self]
  by_cases h : (p.tree t).guard.hush = true ∧ (p.tree t).guard.present.dark = false ∧ (p.tree t).guard.present.storm = false
  · rw [if_pos (hresume.mpr h), if_neg (by decide), Part.modTree_modTree, Part.modTree_modTree, Part.modTree_modTree]
    refine Part.modTree_congr p t ?_
    simp only [Guard.strayEnded, if_pos h]
    rfl
  · rw [if_neg (fun hh => h (hresume.mp hh)), if_neg (by decide), Part.modTree_modTree, Part.modTree_modTree]
    refine Part.modTree_congr p t ?_
    simp only [Guard.strayEnded, if_neg h]
    rfl

end

/-! ### The pieces of a cycle start -/

theorem exec_darkArises_of_due {s : State} {t : TreeId} (hon : (s.startOpen.part.tree t).enabled = true)
    (hdone : (s.startOpen.part.tree t).darkDone = false) (hdue : s.startOpen.part.darkDue t = true) :
    exec (.darkArises t) s = .next (s.startOpen.withPart (s.startOpen.part.darkTest s.startOpen.clock t)) :=
  congrArg Host.Outcome.next (State.takePiece_of_due _ (by simp [hon, hdone, hdue]))

theorem exec_darkArises_of_clear {s : State} {t : TreeId} (hraised : s.part.raised = [])
    (hon : (s.startOpen.part.tree t).enabled = true) (hdone : (s.startOpen.part.tree t).darkDone = false)
    (hdue : s.startOpen.part.darkDue t = true) (hhush : (s.startOpen.part.tree t).guard.hush = false) :
    exec (.darkArises t) s =
      .next (s.startOpen.afterEvent (s.startOpen.part.modTree t Tree.darkened)
        [.hush t true ⟨false, true, false⟩ ⟨false, true, false⟩ (s.startOpen.part.tree t).darkCount
          s.startOpen.clock.cycle s.startOpen.clock.tenth]) := by
  have hopen : s.startOpen.part.raised = [] := (State.startOpen_raised s).trans hraised
  rw [exec_darkArises_of_due hon hdone hdue, Part.darkTest_of_clear _ hdue hhush, hopen]
  exact congrArg Host.Outcome.next (State.withPart_raising s.startOpen (p := s.startOpen.part.modTree t Tree.darkened) hopen _)

theorem exec_spanBoundary_of_due {s : State} {t : TreeId} (hon : (s.startOpen.part.tree t).enabled = true)
    (hcycle : s.startOpen.clock.cycle.toNat % 16 = 0) (hdone : (s.startOpen.part.tree t).spanDone = false) :
    exec (.spanBoundary t) s = .next (s.startOpen.withPart (s.startOpen.part.spanEnds s.startOpen.clock t)) :=
  congrArg Host.Outcome.next (State.takePiece_of_due _ (by simp [hon, hcycle, hdone]))

/-- An open cycle start has its tenth boundary taken. -/
theorem State.startOpen_stage (s : State) :
    s.startOpen.clock.stage ≠ .closed ∧ s.startOpen.clock.stage ≠ .boundaryDue := by
  have hopen : s.atStart.clock.stage ≠ .closed := by
    rw [State.atStart]
    split
    · show s.clock.openStart.stage ≠ .closed
      rw [Clock.openStart]
      split
      · exact StartStage.noConfusion
      · exact StartStage.noConfusion
    · assumption
  rw [State.startOpen, State.boundaryStep]
  split
  · exact ⟨StartStage.noConfusion, StartStage.noConfusion⟩
  · exact ⟨hopen, by assumption⟩

/-! ### What is left of a cycle start that DARK was taken in -/

/-- Out of a lead-in the DARK test cancels nothing (R47). -/
theorem Part.darkStep_paced {p : Part} {u : TreeId} (h : ∀ w, (p.tree u).scheduler.phase ≠ .leadIn w) (k : Clock) :
    ((p.darkStep k u).tree u).paced = (p.tree u).paced := by
  cases hdone : (p.tree u).darkDone with
  | true => rw [Part.darkStep, if_pos hdone]
  | false =>
    obtain ⟨-, -, hslot, hexpect, hcount, hlit, hseen, hscheduler, hquiet⟩ := Part.darkStep_tree p k u hdone
    rw [Tree.cancelLeadIn_of_other h, ite_self] at hscheduler hquiet
    rw [Tree.paced, Tree.paced, hslot, hexpect, hcount, hlit, hseen, hscheduler, hquiet]

/-- A cycle start on a tree in HUSH whose scheduler is IDLE: the timer goes on, no window begins. -/
theorem Part.enabledStart_of_hushed {p : Part} {u : TreeId} {T : Tree} (hT : p.tree u = T) {n : BitVec 8} {spread timer : Nat}
    (hscheduler : T.scheduler = ⟨.idle, timer, spread, n⟩) (hquiet : T.quiet = false) (hhush : T.guard.hush = true)
    (hseen : T.lightSeen = T.lit) (hdone : T.timerDone = false) (hbegun : T.windowBegun = false) (k : Clock)
    (boundary : Bool) {W : Tree} (hW : W = (p.enabledStart k boundary u).tree u) :
    W.scheduler = ⟨.idle, min 65535 (timer + 1), spread, n⟩ ∧ W.quiet = false ∧ W.header.call = none
      ∧ W.slotCounter = T.slotCounter + BitVec.ofNat 16 T.settings.slotsPerCycle := by
  have hphase : T.scheduler.phase = .idle := congrArg Scheduler.phase hscheduler
  have hstarted : p.tree u =
      ({ T with quiet := T.quietAt k.cycle } : Tree).watching T.darkCount T.lit T.guard T.spanDone := by
    have hquietAt : T.quietAt k.cycle = T.quiet := by rw [Tree.quietAt, hphase, hquiet]
    rw [hT, hquietAt, Tree.watching]
    exact congrArg (fun b => { T with lightSeen := b }) hseen
  have hpart : T.WindowPart
      { T with
        scheduler := { T.scheduler with timer := min 65535 (T.scheduler.timer + 1) }
        quiet := false } k.cycle false none := Or.inr (Or.inr (Or.inr ⟨Or.inr ⟨hphase, Or.inr hhush⟩, rfl, rfl, rfl⟩))
  obtain ⟨g, span, hq, -, -, -, -, hwindow, hcall⟩ := Part.dueStart_of_part hstarted hpart hdone hbegun
    (fun win hlisten => Phase.noConfusion (hphase.symm.trans hlisten)) boundary
  obtain ⟨q, hqdef⟩ : ∃ q, q = p.dueStart k boundary u := ⟨_, rfl⟩
  obtain ⟨v, hvdef⟩ : ∃ v, v = q.headerStep k u := ⟨_, rfl⟩
  obtain ⟨w, hwdef⟩ : ∃ w, w = v.fieldStart { k with stage := .closed } u := ⟨_, rfl⟩
  rw [Part.enabledStart_eq, ← hqdef, ← hvdef, ← hwdef] at hW
  rw [← hqdef] at hq hwindow hcall
  obtain ⟨xs, e, hv, -⟩ := Part.headerStep_tree q k u
  rw [← hvdef, hcall, hwindow] at hv
  have hvscheduler : (v.tree u).scheduler = ⟨.idle, min 65535 (timer + 1), spread, n⟩ := by
    rw [hv, hq]
    show ({ T.scheduler with timer := min 65535 (T.scheduler.timer + 1) } : Scheduler) = _
    rw [hscheduler]
  have hvquiet : (v.tree u).quiet = false := by
    rw [hv, hq]
    rfl
  have hvslot : (v.tree u).slotCounter = T.slotCounter + BitVec.ofNat 16 T.settings.slotsPerCycle := by
    rw [hv, hq]
    rfl
  have hwpaced : (w.tree u).paced = (v.tree u).paced := by
    rw [hwdef]
    exact Part.paced_tree (Part.fieldStart_paced v _ u) u
  obtain ⟨hwscheduler, hwquiet, hwslot, -⟩ := Tree.paced_eq hwpaced
  have hidle : ∀ x, (w.tree u).scheduler.phase ≠ .leadIn x := fun x hx => by
    rw [hwscheduler, hvscheduler] at hx
    exact Phase.noConfusion hx
  obtain ⟨hWscheduler, hWquiet, hWslot, -⟩ := Tree.paced_eq (Part.darkStep_paced hidle { k with stage := .closed })
  have hheader : W.header = (v.tree u).header := by
    rw [hW]
    refine (Part.sent_trees (Part.darkStep_sent w _ u) u).1.trans ?_
    rw [hwdef]
    exact (Part.fieldStart_sent v _ u).1
  rw [← hW] at hWscheduler hWquiet hWslot
  refine ⟨hWscheduler.trans (hwscheduler.trans hvscheduler), hWquiet.trans (hwquiet.trans hvquiet), ?_,
    hWslot.trans (hwslot.trans hvslot)⟩
  rw [hheader, hv]

/-- An open cycle start, finished, on a tree in HUSH whose scheduler is IDLE. -/
theorem State.cycleStart_of_hushed {s : State} (hopen : s.clock.stage ≠ .closed ∧ s.clock.stage ≠ .boundaryDue) {u : TreeId}
    {T : Tree} (hT : s.part.tree u = T) (hon : T.enabled = true) {n : BitVec 8} {spread timer : Nat}
    (hscheduler : T.scheduler = ⟨.idle, timer, spread, n⟩) (hquiet : T.quiet = false) (hhush : T.guard.hush = true)
    (hdone : T.timerDone = false) (hbegun : T.windowBegun = false) (lit : TreeMask) {W : Tree}
    (hW : W = (s.cycleStart lit).part.tree u) :
    W.scheduler = ⟨.idle, min 65535 (timer + 1), spread, n⟩ ∧ W.quiet = false ∧ W.header.call = none
      ∧ W.slotCounter = T.slotCounter + BitVec.ofNat 16 T.settings.slotsPerCycle := by
  obtain ⟨p, hp⟩ : ∃ p, p = s.part.eachTree fun p t => p.modTree t (·.lightAtStart (inMask lit t)) := ⟨_, rfl⟩
  have hpart : (s.cycleStart lit).part = p.finishStart s.clock := by
    rw [State.cycleStart, State.finishStart_part, State.atStart, if_neg hopen.1, ← hp, State.boundaryStep, if_neg hopen.2]
  have hown := Part.eachTree_modTree_own s.part u fun t T => T.lightAtStart (inMask lit t)
  rw [← hp] at hown
  have hptree : p.tree u = { T with lit := inMask lit u, lightSeen := inMask lit u } := by
    rw [(Prod.mk.inj hown).1, hT]
    exact if_pos hon
  obtain ⟨q, ⟨hqown, -⟩, hsent, hpaced, -⟩ := Part.finishStart_tree p s.clock u
  have hqtree : q.tree u = { T with lit := inMask lit u, lightSeen := inMask lit u } :=
    (Prod.mk.inj hqown).1.trans hptree
  rw [← hpart, ← hW, Part.treeStart_of_enabled (by rw [hqtree]; exact hon)] at hsent hpaced
  obtain ⟨hscheduler2, hquiet2, hcall2, hslot2⟩ := Part.enabledStart_of_hushed hqtree hscheduler hquiet hhush rfl hdone hbegun
    s.clock (decide (s.clock.stage = .boundaryTaken)) rfl
  obtain ⟨hscheduler3, hquiet3, hslot3, -⟩ := Tree.paced_eq hpaced
  exact ⟨hscheduler3.trans hscheduler2, hquiet3.trans hquiet2, (congrArg (fun x => x.1.call) hsent).trans hcall2,
    hslot3.trans hslot2⟩

theorem Tree.darkened_of_leadIn {T : Tree} {w : CycleNo} (h : T.scheduler.phase = .leadIn w) :
    T.darkened =
      { T with
        darkDone := true
        guard := ⟨true, { T.guard.present with dark := true }, ⟨false, true, false⟩, T.guard.strayCount, none⟩
        scheduler := { T.scheduler with phase := .idle, timer := 0 }
        quiet := false } := by
  rw [Tree.darkened]
  exact Tree.cancelLeadIn_of_leadIn h

/-- Settles O27: the tests one by one, and the open cycle start that DARK was taken in, finished. -/
theorem guardTestsAtCycleStart : Obligations.GuardTestsAtCycleStart := by
  unfold Obligations.GuardTestsAtCycleStart
  intro s t hraised hon
  have hopen : s.startOpen.part.raised = [] := (State.startOpen_raised s).trans hraised
  refine ⟨fun hdone htimer hbegun hdue hhush hlead => ?_, fun hdone hdue hhush => ?_, fun hdone hdue hhush => ?_,
    fun hcycle hdone hkept => ?_, fun hcycle hdone hstray hlt => ?_⟩
  · obtain ⟨w, hw⟩ := hlead
    have htree : (s.startOpen.part.modTree t Tree.darkened).tree t = (s.startOpen.part.tree t).darkened :=
      Part.tree_modTree_self _ _ _
    rw [Tree.darkened_of_leadIn hw] at htree
    refine ⟨_, exec_darkArises_of_clear hraised hon hdone hdue hhush, ?_, ?_, fun lit => ⟨_, rfl, ?_⟩⟩
    · exact congrArg Tree.scheduler htree
    · exact congrArg Tree.quiet htree
    · rw [State.settle_tree]
      exact State.cycleStart_of_hushed (s := s.startOpen.afterEvent (s.startOpen.part.modTree t Tree.darkened) _)
        s.startOpen_stage htree hon rfl rfl rfl htimer hbegun lit rfl
  · exact exec_darkArises_of_clear hraised hon hdone hdue hhush
  · rw [exec_darkArises_of_due hon hdone hdue, Part.darkTest_of_hush _ hdue hhush]
    exact congrArg Host.Outcome.next (State.withPart_quiet s.startOpen hopen)
  · rw [exec_spanBoundary_of_due hon hcycle hdone, Part.spanEnds_of_kept _ hkept]
    exact congrArg Host.Outcome.next (State.withPart_quiet s.startOpen hopen)
  · rw [exec_spanBoundary_of_due hon hcycle hdone, Part.spanEnds_of_stray _ hstray hlt]
    exact congrArg Host.Outcome.next (State.withPart_quiet s.startOpen hopen)

end Sys2Proof.Machine
end
